-- ==== Sys2Proof/Word.lean ====
section
/-! DEFINITION. Word.lean: the word and byte types, and the small closed sets of names that the whole model uses. -/
namespace Sys2Proof

/-- A 64-bit register or memory word (R13, R47). -/
abbrev Word := BitVec 64

/-- The lane code: A = 1, B = 2, C = 3 (R20). -/
inductive Lane where
  | a | b | c
deriving DecidableEq, Repr

/-- The two control cores of a lane (chapter 02). -/
inductive CoreId where
  | c0 | c1
deriving DecidableEq, Repr

/-- The two Denras channels, and the star core of each (R43). -/
inductive Chan where
  | x | y
deriving DecidableEq, Repr

/-- The privilege levels, lowest first (chapter 02, "Privilege levels"). -/
inductive Level where
  | u | s | k
deriving DecidableEq, Repr

/-- One value for each lane. -/
structure PerLane (α : Type) where
  a : α
  b : α
  c : α
deriving DecidableEq, Repr

/-- One value for each star core or channel. -/
structure PerChan (α : Type) where
  x : α
  y : α
deriving DecidableEq, Repr

/-- The value of one lane. -/
def PerLane.get {α : Type} (p : PerLane α) : Lane → α
  | .a => p.a
  | .b => p.b
  | .c => p.c

/-- The same, with one lane's value replaced. -/
def PerLane.set {α : Type} (p : PerLane α) (l : Lane) (v : α) : PerLane α :=
  match l with
  | .a => { p with a := v }
  | .b => { p with b := v }
  | .c => { p with c := v }

/-- One value for every lane. -/
def PerLane.all {α : Type} (v : α) : PerLane α := ⟨v, v, v⟩

/-- The value of one channel. -/
def PerChan.get {α : Type} (p : PerChan α) : Chan → α
  | .x => p.x
  | .y => p.y

/-- The same, with one channel's value replaced. -/
def PerChan.set {α : Type} (p : PerChan α) (c : Chan) (v : α) : PerChan α :=
  match c with
  | .x => { p with x := v }
  | .y => { p with y := v }

/-- One value for both channels. -/
def PerChan.all {α : Type} (v : α) : PerChan α := ⟨v, v⟩

/-- The lanes in lane-code order. -/
def Lane.list : List Lane := [.a, .b, .c]

/-- The lane code (R20). -/
def Lane.code : Lane → Nat
  | .a => 1
  | .b => 2
  | .c => 3

/-- The bit of a lane in every lane mask: bit 0 lane A, bit 1 lane B, bit 2 lane C (R42 and the CMP tables). -/
def Lane.bit : Lane → Nat
  | .a => 0
  | .b => 1
  | .c => 2

/-- The core number (R53, CORE). -/
def CoreId.num : CoreId → Nat
  | .c0 => 0
  | .c1 => 1

/-- The level code of PSW.LVL (R53). -/
def Level.code : Level → Nat
  | .u => 0
  | .s => 1
  | .k => 2

/-- The other core of the lane. -/
def CoreId.other : CoreId → CoreId
  | .c0 => .c1
  | .c1 => .c0

/-- The other two lanes, the one with the lower lane code first (chapter 06, "XLE registers"). -/
def Lane.others : Lane → Lane × Lane
  | .a => (.b, .c)
  | .b => (.a, .c)
  | .c => (.a, .b)

/-- Whether a level is at least another. -/
def Level.le (a b : Level) : Bool := decide (a.code ≤ b.code)

/-- A mask of one lane. -/
def Lane.mask (l : Lane) : Nat := 1 <<< l.bit

end Sys2Proof
end

