-- ==== Sys2Proof/Syntax.lean ====
section
/-! DEFINITION. Syntax.lean: the 298 commands of spec/opcode_table.json as one inductive, with the operand records
that the commands carry. A register-write command carries the lane and core that write and the value; an event command
carries what only the outside of the module can give. -/
namespace Sys2Proof

/-- A general register number g0–g31 (R47). -/
abbrev GReg := BitVec 5

/-- A 32-bit operand reference of a logic word (R114): ID 31:18, WORD 17:14, SPACE 13:12, EXP 11:6, MODE 5:0. -/
abbrev Ref := BitVec 32

/-! ## Station image (R503, R504 and the chapters its sections come from) -/

/-- One record of a footprint with its scratch mask (R94). -/
structure FootRec where
  /-- Route record (true) or element record. -/
  route : Bool
  id : Nat
  scratch : Nat
deriving DecidableEq, Repr

/-- A carry-map mark (R224). EDGE names the source of the detector when it is a state word. -/
inductive CarryMark where
  | carry | init | timer
  | edge (source : Option Ref)
deriving DecidableEq, Repr

/-- A timer of an image, identified by its TSTATE word (R225). -/
structure TimerSpec where
  tstate : Ref
  duration : Nat
  fingerprint : Nat
deriving DecidableEq, Repr

/-- An imported word: word of this task, exporting task and word exported (R209). -/
structure ImportSpec where
  dst : Ref
  exporter : Nat
  src : Ref
deriving DecidableEq, Repr

/-- An entry of the look-ahead index (R157). -/
structure IndexEntry where
  segOff : Nat
  segLen : Nat
  route : Nat
deriving DecidableEq, Repr

/-- What the image holds for one task: its TSK_CFG value, logic, footprint, initial state with static signatures, carry
map, timers, import and export lists, look-ahead index and the stated counts of R174. -/
structure TaskImage where
  task : Nat
  cfg : Word
  stateBase : Nat
  logicBase : Nat
  logic : List Word
  footprint : List FootRec
  /-- Initial plain value and static signature B of every word of the footprint (R106, R109). -/
  words : List (Ref × Nat × Nat)
  marks : List (Ref × CarryMark)
  timers : List TimerSpec
  imports : List ImportSpec
  exports : List Ref
  index : List IndexEntry
  /-- Element ID of the control element (R208). -/
  control : Nat
  nW : Nat
  nI : Nat
  nWr : Nat
  cDep : Nat
  rtSize : Nat
deriving DecidableEq, Repr

/-- An input map row: field input, word it feeds, and the state-code indices for 0 and 1 (R204). Field inputs are
numbered as R434 pages 0 to 2 list them. -/
structure InputMapRow where
  input : Nat
  task : Nat
  word : Ref
  code0 : Nat
  code1 : Nat
deriving DecidableEq, Repr

/-- An inbound connection entry (R372). WORDMAP entry: DATA word number and the word it feeds. -/
structure InConn where
  conn : Nat
  cat : Nat
  task : Nat
  src0 : Nat
  src1 : Nat
  maxAge : Nat
  tmo : Nat
  maxJump : Nat
  forcedOk : Bool
  wordmap : List (Nat × Ref)
deriving DecidableEq, Repr

/-- An outbound connection entry (R372), with the committed words its DATA reports (R377) and its UNCHANGED bit. -/
structure OutConn where
  conn : Nat
  cat : Nat
  task : Nat
  expect : Nat
  dlen : Nat
  localIn : Bool
  deps : List Nat
  wdraw : List Nat
  words : List Ref
  ip : Nat
  port : Nat
  keyRef : Nat
  unchanged : Bool
deriving DecidableEq, Repr

/-- A local output cell: owning task, the committed word whose TRUE energises it, DEPS list and UNCHANGED bit (R372). -/
structure CellSpec where
  cell : Nat
  task : Nat
  word : Ref
  deps : List Nat
  unchanged : Bool
deriving DecidableEq, Repr

/-- The body of a station image (R503). -/
structure StationBody where
  node0 : Nat
  node1 : Nat
  period : Nat
  codingA : PerLane Nat
  tasks : List TaskImage
  inputMap : List InputMapRow
  inbound : List InConn
  outbound : List OutConn
  cells : List CellSpec
  /-- Sections the image marks as approach: task and DETECT word (R223). -/
  approach : List (Nat × Ref)
  schedules : List (List Word)
  /-- Wide-area UDP port of the module (R383). -/
  wanPort : Nat
  ppsIn : Bool
  ptpEn : Bool
  /-- LIMIT and ALARM of application event codes: code, LIMIT, ALARM (R523, R605). -/
  appCodes : List (Nat × Nat × Bool)
deriving DecidableEq, Repr

/-- A signature entry: role byte, certificate chain, leaf key signature (R504). -/
structure SigEntry where
  role : Nat
  chain : Nat
  sig : Nat
deriving DecidableEq, Repr

/-- An image as it stands in flash: header fields of R503, its bytes, its signatures and, for station data, its body. -/
structure Image where
  magic : Nat
  fmt : Nat
  kind : Nat
  amend : Bool
  serialBound : Bool
  hwtype : Nat
  secver : Nat
  serial : Word
  base : Word
  length : Nat
  bodyHash : Nat
  twinProto : Nat
  nsec : Nat
  /-- Section bounds: offset and length. -/
  sections : List (Nat × Nat)
  /-- CRC-32C of each section as the header states it. -/
  sectionCrcs : List Nat
  header : List Nat
  body : List Nat
  sigs : List SigEntry
  station : Option StationBody
deriving DecidableEq, Repr

/-! ## Network, twin and field operands -/

/-- A Denras frame: the fields of R308 and R309 and the payload bytes. `etherOk` stands for EtherType, VER and the
absence of a VLAN tag, `hcrcOk` for the header CRC. -/
structure Frame where
  destX : Bool
  chan : Chan
  etherOk : Bool
  hcrcOk : Bool
  kind : Nat
  node : Nat
  slot : Nat
  sched : Nat
  req : Nat
  reqv : Bool
  ack : Bool
  round : Nat
  state : Nat
  len : Nat
  payload : List Nat
deriving DecidableEq, Repr

/-- A field value: 0, 1 or UNKNOWN (R201). -/
inductive Tri where
  | zero | one | unknown
deriving DecidableEq, Repr

/-- A midpoint level (R429). -/
inductive Mid where
  | high | mid | low
deriving DecidableEq, Repr

/-- The twin's input record (R403). -/
structure InputRec where
  rs : Nat
  att : Bool
  alone : Bool
  field : List Tri
  inst : Nat
  conns : List (Bool × Nat)
  chkOk : Bool
deriving DecidableEq, Repr

/-- The twin's compare record (R407) with the released telegrams of R408: connection and bytes 0x00–0x57. -/
structure CompareRec where
  rs : Nat
  nextb : Nat
  clean : Bool
  safe : Bool
  conv : Bool
  step : Bool
  forced : Bool
  unpaired : Bool
  track : Bool
  swapreq : Bool
  role : Nat
  due : Nat
  outreq : Nat
  swapk : Nat
  vseal : List Word
  telegrams : List (Nat × List Nat)
  chkOk : Bool
deriving DecidableEq, Repr

/-- The update record (R510). -/
structure UpdRec where
  rs : Nat
  ident : Word
  stage : Nat
  ready : Bool
  kc : Nat
  chkOk : Bool
deriving DecidableEq, Repr

/-- HELLO (R400), with TWINPROTO (R516). -/
structure Hello where
  wellFormed : Bool
  position : Nat
  node : Nat
  serial : Word
  hwtype : Nat
  ident : Word
  twinProto : Nat
  stage : Nat
  commissioning : Bool
deriving DecidableEq, Repr

/-- The state of an inbound connection (R385, R393). -/
inductive ConnPhase where
  | lost | restoring | live
deriving DecidableEq, Repr

/-- The state of a connection that a copy carries (R394): CONN, phase, SEQ, t_last, DATA. -/
structure ConnCopy where
  conn : Nat
  phase : ConnPhase
  seq : Nat
  tLast : Nat
  data : List Nat
deriving DecidableEq, Repr

/-- A task transfer (R415): plain words of the footprint and the runtime block items of R254: input values with the state of the
task's connections (R394), export area, last fresh dispatch (CONN, DATA, POSTMARK, WDRAWN), overrun count and D. No force applies
while a twin is attached (R480). With `exportsOnly` it is the export area of a task that has not been transferred. -/
structure Transfer where
  task : Nat
  exportsOnly : Bool
  words : List (Ref × Nat)
  prevInputs : List Tri
  conns : List ConnCopy
  exports : List (Ref × Nat)
  sent : List (Nat × List Nat × Nat × Bool)
  consec : Nat
  dprev : Nat
deriving DecidableEq, Repr

/-- The handover of R512: carried words, timer words and export areas. -/
structure HandoverRec where
  words : List (Nat × Ref × Nat)
  timers : List (Nat × Ref × Nat)
  exports : List (Nat × Ref × Nat)
deriving DecidableEq, Repr

/-- What an owner command carries with it: signing key, certificate chain and signature (R496, R497). -/
structure OwnerAuth where
  chain : Nat
  sig : Nat
  bytes : List Nat
deriving DecidableEq, Repr

/-- A key package (R498). -/
structure KeyPackage where
  auth : OwnerAuth
  keyRef : Nat
  act : Nat
  gen : Nat
  wrapped : Nat
deriving DecidableEq, Repr

/-- An IEEE 1588 message as the slave clock uses it (R364): whether the clock is locked after it, the 1588 time at the
instant, in ns, and the instant in cluster time. -/
structure PtpMsg where
  domain : Nat
  supported : Bool
  locks : Bool
  time : Nat
  t : Nat
deriving DecidableEq, Repr

/-- A path on which a word crosses a lane's interconnect under the bus code, by what travels on it (R277, R279). -/
inductive BusPath where
  | fetch (c : CoreId) | load (c : CoreId) | store (c : CoreId) | engineRead | copyWrite | macWrite
deriving DecidableEq, Repr

/-- Damage that strikes the next word on a path: what is XORed into its 8 data symbols (bits 63:0) and its 3 check symbols
(bits 87:64) (R277). -/
structure BusHit where
  path : BusPath
  pat : BitVec 88
deriving DecidableEq, Repr

/-- Events of one kind that a round has held and that only the clocks, the caches and the links know (R538): class, number, how many,
and the level for events of class 0x1. -/
structure PmcTick where
  cls : Nat
  num : Nat
  count : Nat
  lvl : Nat
deriving DecidableEq, Repr

/-- What LOG_MAC asks of D7 (R525, R526): the oldest record that the firmware has to submit, an application record (class 0xE), or a
check of the MAC chain over a range of SEQ. -/
inductive LogReq where
  | submit
  | application (code : Nat) (rs : Nat) (t : Nat) (data : List Nat)
  | chain (lo : Nat) (hi : Nat)
deriving DecidableEq, Repr

/-- The outcome of a state copy (R253). -/
inductive CopyEnd where
  | good | digestDiffers | incomplete | sourceDamaged | digestDamaged
deriving DecidableEq, Repr

/-- A feature of R573 that claims a resource. -/
structure ClaimReq where
  feature : Nat
  resource : Nat
  first : Nat
  last : Nat
deriving DecidableEq, Repr

/-- What only the outside gives to one step of the start sequence (R475): pin coding, cell voltage, integrity of D0,
images in flash, lanes that fail. -/
structure StartInput where
  /-- The step passed (a failure from step 6 on latches SAFE). -/
  ok : Bool
  /-- The coding pins TW_PA and TW_PB: tied to TW_COM, open, or none for a resistance in between (R594). -/
  twPa : Option Bool
  twPb : Option Bool
  cellMv : Nat
  d0Ok : Bool
  firmware : Option Image
  firmwareInactive : Option Image
  settingsOk : Bool
  station : Option Image
  /-- Lanes whose fill or memory or load failed, as a lane mask. -/
  lanesBad : Nat
  entry : Word
  /-- Latency found on the links A to B, A to C and B to C, in ns (R271). -/
  latAB : Nat
  latAC : Nat
  latBC : Nat
  /-- Injection tests that failed although their test round set showed them caught: point, lane code of L, channel Y, and the
  mask of the other lanes that did not detect (R262). -/
  injFails : List (Nat × Nat × Bool × Nat)
deriving DecidableEq, Repr

/-- A regulator (R464). -/
inductive Regulator where
  | d2 | d3 | d4 | d5x | d5y | d6 | d7
deriving DecidableEq, Repr

/-- The DRAM requesters of R556, with the bit each has in ARB_FLAG.CUT. -/
inductive Requester where
  | mac | xle | scrubber | core0 | engine | core1
deriving DecidableEq, Repr

/-! ## The commands -/

/-- One constructor per row of spec/opcode_table.json. -/
inductive Instr where
  /-- ADD (R59). -/
  | add (l : Lane) (c : CoreId) (gd : GReg) (ga : GReg) (gb : GReg)
  /-- SUB (R59). -/
  | sub (l : Lane) (c : CoreId) (gd : GReg) (ga : GReg) (gb : GReg)
  /-- ADDS (R59). -/
  | adds (l : Lane) (c : CoreId) (gd : GReg) (ga : GReg) (gb : GReg)
  /-- SUBS (R59). -/
  | subs (l : Lane) (c : CoreId) (gd : GReg) (ga : GReg) (gb : GReg)
  /-- ADDV (R76). -/
  | addv (l : Lane) (c : CoreId) (gd : GReg) (ga : GReg) (gb : GReg)
  /-- SUBV (R76). -/
  | subv (l : Lane) (c : CoreId) (gd : GReg) (ga : GReg) (gb : GReg)
  /-- CMP (R59). -/
  | cmp (l : Lane) (c : CoreId) (ga : GReg) (gb : GReg)
  /-- AND (R59). -/
  | and (l : Lane) (c : CoreId) (gd : GReg) (ga : GReg) (gb : GReg)
  /-- OR (R59). -/
  | or (l : Lane) (c : CoreId) (gd : GReg) (ga : GReg) (gb : GReg)
  /-- XOR (R59). -/
  | xor (l : Lane) (c : CoreId) (gd : GReg) (ga : GReg) (gb : GReg)
  /-- ANDN (R59). -/
  | andn (l : Lane) (c : CoreId) (gd : GReg) (ga : GReg) (gb : GReg)
  /-- SLT (R59). -/
  | slt (l : Lane) (c : CoreId) (gd : GReg) (ga : GReg) (gb : GReg)
  /-- SLTU (R59). -/
  | sltu (l : Lane) (c : CoreId) (gd : GReg) (ga : GReg) (gb : GReg)
  /-- SLL (R59). -/
  | sll (l : Lane) (c : CoreId) (gd : GReg) (ga : GReg) (gb : GReg)
  /-- SRL (R59). -/
  | srl (l : Lane) (c : CoreId) (gd : GReg) (ga : GReg) (gb : GReg)
  /-- SRA (R59). -/
  | sra (l : Lane) (c : CoreId) (gd : GReg) (ga : GReg) (gb : GReg)
  /-- ROR (R59). -/
  | ror (l : Lane) (c : CoreId) (gd : GReg) (ga : GReg) (gb : GReg)
  /-- MUL (R59). -/
  | mul (l : Lane) (c : CoreId) (gd : GReg) (ga : GReg) (gb : GReg)
  /-- MULH (R59). -/
  | mulh (l : Lane) (c : CoreId) (gd : GReg) (ga : GReg) (gb : GReg)
  /-- MULHU (R59). -/
  | mulhu (l : Lane) (c : CoreId) (gd : GReg) (ga : GReg) (gb : GReg)
  /-- MULV (R76). -/
  | mulv (l : Lane) (c : CoreId) (gd : GReg) (ga : GReg) (gb : GReg)
  /-- DIV (R76). -/
  | div (l : Lane) (c : CoreId) (gd : GReg) (ga : GReg) (gb : GReg)
  /-- DIVU (R76). -/
  | divu (l : Lane) (c : CoreId) (gd : GReg) (ga : GReg) (gb : GReg)
  /-- REM (R76). -/
  | rem (l : Lane) (c : CoreId) (gd : GReg) (ga : GReg) (gb : GReg)
  /-- REMU (R76). -/
  | remu (l : Lane) (c : CoreId) (gd : GReg) (ga : GReg) (gb : GReg)
  /-- CLZ (R58). -/
  | clz (l : Lane) (c : CoreId) (gd : GReg) (ga : GReg)
  /-- POPC (R58). -/
  | popc (l : Lane) (c : CoreId) (gd : GReg) (ga : GReg)
  /-- ADDI (R59). -/
  | addi (l : Lane) (c : CoreId) (gd : GReg) (ga : GReg) (imm : BitVec 16)
  /-- ANDI (R59). -/
  | andi (l : Lane) (c : CoreId) (gd : GReg) (ga : GReg) (imm : BitVec 16)
  /-- ORI (R59). -/
  | ori (l : Lane) (c : CoreId) (gd : GReg) (ga : GReg) (imm : BitVec 16)
  /-- XORI (R59). -/
  | xori (l : Lane) (c : CoreId) (gd : GReg) (ga : GReg) (imm : BitVec 16)
  /-- SLTI (R59). -/
  | slti (l : Lane) (c : CoreId) (gd : GReg) (ga : GReg) (imm : BitVec 16)
  /-- SLTIU (R59). -/
  | sltiu (l : Lane) (c : CoreId) (gd : GReg) (ga : GReg) (imm : BitVec 16)
  /-- QSET (R58). -/
  | qset (l : Lane) (c : CoreId) (gd : GReg) (imm : BitVec 16) (k : BitVec 2)
  /-- QINS (R58). -/
  | qins (l : Lane) (c : CoreId) (gd : GReg) (imm : BitVec 16) (k : BitVec 2)
  /-- SHI (R58). -/
  | shi (l : Lane) (c : CoreId) (gd : GReg) (ga : GReg) (t : BitVec 2) (sh : BitVec 6)
  /-- CMPI (R59). -/
  | cmpi (l : Lane) (c : CoreId) (ga : GReg) (imm : BitVec 16)
  /-- LD (R57). -/
  | ld (l : Lane) (c : CoreId) (gd : GReg) (ga : GReg) (imm : BitVec 16)
  /-- LW (R61). -/
  | lw (l : Lane) (c : CoreId) (gd : GReg) (ga : GReg) (imm : BitVec 16)
  /-- LWS (R61). -/
  | lws (l : Lane) (c : CoreId) (gd : GReg) (ga : GReg) (imm : BitVec 16)
  /-- LH (R61). -/
  | lh (l : Lane) (c : CoreId) (gd : GReg) (ga : GReg) (imm : BitVec 16)
  /-- LHS (R61). -/
  | lhs (l : Lane) (c : CoreId) (gd : GReg) (ga : GReg) (imm : BitVec 16)
  /-- LB (R61). -/
  | lb (l : Lane) (c : CoreId) (gd : GReg) (ga : GReg) (imm : BitVec 16)
  /-- LBS (R61). -/
  | lbs (l : Lane) (c : CoreId) (gd : GReg) (ga : GReg) (imm : BitVec 16)
  /-- SD (R63). -/
  | sd (l : Lane) (c : CoreId) (gs : GReg) (ga : GReg) (imm : BitVec 16)
  /-- SW (R63). -/
  | sw (l : Lane) (c : CoreId) (gs : GReg) (ga : GReg) (imm : BitVec 16)
  /-- SH (R63). -/
  | sh (l : Lane) (c : CoreId) (gs : GReg) (ga : GReg) (imm : BitVec 16)
  /-- SB (R63). -/
  | sb (l : Lane) (c : CoreId) (gs : GReg) (ga : GReg) (imm : BitVec 16)
  /-- LL (R65). -/
  | ll (l : Lane) (c : CoreId) (gd : GReg) (ga : GReg)
  /-- SC (R65). -/
  | sc (l : Lane) (c : CoreId) (gd : GReg) (ga : GReg) (gb : GReg)
  /-- BEQ (R66). -/
  | beq (l : Lane) (c : CoreId) (ga : GReg) (gb : GReg) (off : BitVec 16)
  /-- BNE (R66). -/
  | bne (l : Lane) (c : CoreId) (ga : GReg) (gb : GReg) (off : BitVec 16)
  /-- BLT (R66). -/
  | blt (l : Lane) (c : CoreId) (ga : GReg) (gb : GReg) (off : BitVec 16)
  /-- BGE (R66). -/
  | bge (l : Lane) (c : CoreId) (ga : GReg) (gb : GReg) (off : BitVec 16)
  /-- BLTU (R66). -/
  | bltu (l : Lane) (c : CoreId) (ga : GReg) (gb : GReg) (off : BitVec 16)
  /-- BGEU (R66). -/
  | bgeu (l : Lane) (c : CoreId) (ga : GReg) (gb : GReg) (off : BitVec 16)
  /-- BC (R66). -/
  | bc (l : Lane) (c : CoreId) (cond : BitVec 4) (off : BitVec 16)
  /-- J (R66). -/
  | j (l : Lane) (c : CoreId) (off : BitVec 26)
  /-- JAL (R66). -/
  | jal (l : Lane) (c : CoreId) (off : BitVec 26)
  /-- JALR (R66). -/
  | jalr (l : Lane) (c : CoreId) (gd : GReg) (ga : GReg) (imm : BitVec 16)
  /-- FENCE (R72). -/
  | fence (l : Lane) (c : CoreId)
  /-- FENCEIO (R67). -/
  | fenceio (l : Lane) (c : CoreId)
  /-- IFENCE (R68). -/
  | ifence (l : Lane) (c : CoreId)
  /-- SYSCALL (R79). -/
  | syscall (l : Lane) (c : CoreId)
  /-- BRK (R69). -/
  | brk (l : Lane) (c : CoreId)
  /-- ERET (R51). -/
  | eret (l : Lane) (c : CoreId)
  /-- WFI (R83). -/
  | wfi (l : Lane) (c : CoreId)
  /-- WFI_WAKE (R83). -/
  | wfiWake (l : Lane) (c : CoreId)
  /-- MFC (R70). -/
  | mfc (l : Lane) (c : CoreId) (gd : GReg) (cn : BitVec 12)
  /-- MTC (R54). -/
  | mtc (l : Lane) (c : CoreId) (ga : GReg) (cn : BitVec 12)
  /-- ILLEGAL_INSTRUCTION (R58). -/
  | illegalInstruction (l : Lane) (c : CoreId) (word : BitVec 32)
  /-- INTERRUPT_TAKEN (R80). -/
  | interruptTaken (l : Lane) (c : CoreId)
  /-- EPASS (R87). -/
  | epass (l : Lane) (c : CoreId) (gd : GReg) (ga : GReg)
  /-- EWAIT (R83). -/
  | ewait (l : Lane) (c : CoreId) (gd : GReg) (ga : GReg)
  /-- EWAIT_RETURN (R75). -/
  | ewaitReturn (l : Lane) (c : CoreId)
  /-- EPOLL (R75). -/
  | epoll (l : Lane) (c : CoreId) (gd : GReg) (ga : GReg)
  /-- ECANCEL (R91). -/
  | ecancel (l : Lane) (c : CoreId) (gd : GReg) (ga : GReg)
  /-- PASS_START (R136). -/
  | passStart (l : Lane)
  /-- LOOKAHEAD_BUDGET_REACHED (R160). -/
  | lookaheadBudgetReached (l : Lane)
  /-- MOV (R116). -/
  | mov (l : Lane) (off : Nat) (bd : BitVec 20) (dst : Ref) (src : Ref)
  /-- LDI (R116). -/
  | ldi (l : Lane) (off : Nat) (bd : BitVec 20) (dst : Ref) (lit : BitVec 32)
  /-- LOGIC_ADD (R116). -/
  | logicAdd (l : Lane) (off : Nat) (bd : BitVec 20) (dst : Ref) (s0 : Ref) (s1 : Ref)
  /-- LOGIC_SUB (R116). -/
  | logicSub (l : Lane) (off : Nat) (bd : BitVec 20) (dst : Ref) (s0 : Ref) (s1 : Ref)
  /-- NOT (R116). -/
  | not (l : Lane) (off : Nat) (bd : BitVec 20) (dst : Ref) (src : Ref)
  /-- SEL (R609). -/
  | sel (l : Lane) (off : Nat) (bd : BitVec 20) (dst : Ref) (cond : Ref) (t : Ref) (f : Ref)
  /-- ALL (R116). -/
  | all (l : Lane) (off : Nat) (bd : BitVec 20) (dst : Ref) (slots : List Ref)
  /-- ANY (R116). -/
  | any (l : Lane) (off : Nat) (bd : BitVec 20) (dst : Ref) (slots : List Ref)
  /-- CONF (R122). -/
  | conf (l : Lane) (off : Nat) (bd : BitVec 20) (dst : Ref) (own : Ref) (slots : List Ref)
  /-- FLANK (R121). -/
  | flank (l : Lane) (off : Nat) (bd : BitVec 20) (dst : Ref) (own : Ref) (slots : List Ref)
  /-- FLREQ (R123). -/
  | flreq (l : Lane) (off : Nat) (own : Ref) (slots : List Ref)
  /-- LOCK (R124). -/
  | lock (l : Lane) (off : Nat) (bd : BitVec 20) (dst : Ref) (own : Ref) (slots : List Ref)
  /-- UNLOCK (R124). -/
  | unlock (l : Lane) (off : Nat) (own : Ref) (slots : List Ref)
  /-- ROUTE (R126). -/
  | route (l : Lane) (off : Nat) (own : Ref) (conds : List Ref)
  /-- RREL (R127). -/
  | rrel (l : Lane) (off : Nat) (first : BitVec 20) (own : Ref) (slots : List Ref)
  /-- TMR (R128). -/
  | tmr (l : Lane) (off : Nat) (dur : BitVec 20) (dst : Ref) (run : Ref)
  /-- EDGE (R130). -/
  | edge (l : Lane) (off : Nat) (bd : BitVec 20) (dst : Ref) (src : Ref) (mem : Ref)
  /-- CARRY (R131). -/
  | carry (l : Lane) (off : Nat) (recs : List Ref)
  /-- SEAL (R133). -/
  | seal (l : Lane) (off : Nat) (slots : List Ref)
  /-- SKIPF (R134). -/
  | skipf (l : Lane) (off : Nat) (count : BitVec 20) (cond : Ref)
  /-- SKIPT (R134). -/
  | skipt (l : Lane) (off : Nat) (count : BitVec 20) (cond : Ref)
  /-- END (R135). -/
  | endPass (l : Lane) (off : Nat)
  /-- INSTRUCTION_COMMIT (R148). -/
  | instructionCommit (l : Lane)
  /-- ENGINE_CHECK_FAILURE (R151): the damage of a word that the engine holds under the bus code, or none for a unit's parity or
  the guard tracker. -/
  | engineCheckFailure (l : Lane) (word : Option (BitVec 88))
  /-- PREEMPTION (R165). -/
  | preemption (l : Lane)
  /-- PASS_RESUME (R167). -/
  | passResume (l : Lane)
  /-- PASS_AGEING (R562). -/
  | passAgeing (l : Lane) (ticket : Word)
  /-- ROUND_TICK (R344), with the damage that will strike words on the lanes' on-chip paths (R277). -/
  | roundTick (hits : List (Lane × BusHit)) (ticks : List (Lane × PmcTick))
  /-- ROUND_SET_BOUNDARY (R187), with the k and the cluster round of its boundary that the LEAD has sent, if it has (R414). -/
  | roundSetBoundary (lead : Option (Nat × Nat))
  /-- BOUNDARY_MARKER_RECEIVED (R188). -/
  | boundaryMarkerReceived (l : Lane) (sender : Lane) (offset : Int)
  /-- GATHER_CLOSE (R197). -/
  | gatherClose (l : Lane)
  /-- SORTING_EXCHANGE (R199). -/
  | sortingExchange
  /-- FRAME_COPY (R200). -/
  | frameCopy
  /-- AGREEMENT (R201). -/
  | agreement
  /-- HELD_FLAG (R215). -/
  | heldFlag
  /-- INPUT_POSTING (R207). -/
  | inputPosting
  /-- TWIN_INPUT_RECORD_SEND (R404). Operands: lanes without a copy of the record, lanes whose copy differs (R402). -/
  | twinInputRecordSend (absent differ : Nat)
  /-- TWIN_INPUT_RECORD (R403). -/
  | twinInputRecord (rec : InputRec)
  /-- PAIR_COMBINATION (R405). -/
  | pairCombination
  /-- SEAL_DEADLINE (R191). -/
  | sealDeadline (l : Lane)
  /-- XLE_RECORD_RECEIVED (R240). -/
  | xleRecordReceived (l : Lane) (sender : Lane) (damaged : Bool)
  /-- VOTE (R243). -/
  | vote (canaryBad : Nat)
  /-- OUTCOME_RECORD (R245). -/
  | outcomeRecord (lost : Nat) (damage : PerLane Nat)
  /-- DISPATCH_START (R193). -/
  | dispatchStart
  /-- WRITE_CLOSE (R35); `late` are the voted writes that reach the blocks after it has begun (R41). -/
  | writeClose (late : List (Lane × Nat × Word))
  /-- STATE_COPY_COMPLETE (R253). -/
  | stateCopyComplete (res : CopyEnd)
  /-- CAT3_TELEGRAM_SEND (R378). -/
  | cat3TelegramSend
  /-- CONFIG_RECORD_COMPARE (R264). -/
  | configRecordCompare (damage : PerLane Word)
  /-- COMPARE_RECORD_SEND (R407). Operands: lanes without a copy of the record, lanes whose copy differs (R402). -/
  | compareRecordSend (absent differ : Nat)
  /-- COMPARE_RECORD (R408). -/
  | compareRecord (rec : CompareRec)
  /-- TWIN_COMPARE (R409). -/
  | twinCompare (framesSeen : Bool)
  /-- TRANSMIT_SLOT (R44). Operands: lanes without a copy, lanes whose copy differs, how many ns before the slot start the lanes hand
their copies over, and by how many ns after the slot start in the core's time the SFD reaches port 0. -/
  | transmitSlot (ch : Chan) (slot : Nat) (absent : Nat) (differ : Nat) (lead : Nat) (off : Int)
  /-- XLE_HEARTBEAT_TIMEOUT (R21). -/
  | xleHeartbeatTimeout (l : Lane) (sender : Lane)
  /-- XLE_LINK_DOWN (R249). -/
  | xleLinkDown (l1 : Lane) (l2 : Lane)
  /-- STAR_FRAME_INGRESS (R317). Operands: `endOk`, length and FCS good at the end of the frame; `overflow`, the port's receive buffer
overflows (R24). -/
  | starFrameIngress (ch : Chan) (port : Nat) (tSfd : Nat) (frame : Frame) (endOk : Bool) (overflow : Bool)
  /-- PORT_UNBLOCK (R319). -/
  | portUnblock (ch : Chan) (port : Nat)
  /-- COLD_FRAME_AT_LISTENING_CORE (R323). -/
  | coldFrameAtListeningCore (ch : Chan) (port : Nat) (tSfd : Nat) (frame : Frame)
  /-- POSTE_RESTANTE_CLAIM (R328). -/
  | posteRestanteClaim (ch : Chan) (port : Nat) (tSfd : Nat) (frame : Frame)
  /-- CLAIM_EXPIRY (R330). -/
  | claimExpiry (ch : Chan) (slot : Nat)
  /-- LANE_FRAME_RECEIVED (R335): the lane takes the copies that its receive queues hold of the frame of a slot. -/
  | laneFrameReceived (l : Lane) (slot : Nat)
  /-- SYNC_RECEIVED (R353): the SYNC of slot 0 or 1 that a core has delivered in this round. -/
  | syncReceived (ch : Chan) (slot : Nat)
  /-- MGMT_RECEIVED (R333): the MGMT frame that a core has delivered in this round. -/
  | mgmtReceived (ch : Chan)
  /-- COLD_RECEIVED (R322): the COLD and SYNC frames that the two cores have delivered in this round. -/
  | coldReceived
  /-- LISTEN_TIMEOUT (R321). -/
  | listenTimeout (t : Nat)
  /-- SYNC_LOSS (R322). -/
  | syncLoss
  /-- SILENT_TIMEOUT (R322). -/
  | silentTimeout
  /-- LEADER_TAKEOVER (R327). -/
  | leaderTakeover
  /-- PROTOCOL_ENABLE (R321). -/
  | protocolEnable (l : Lane) (c : CoreId) (v : Word)
  /-- SCHEDULE_REQUEST (R331). -/
  | scheduleRequest (l : Lane) (c : CoreId) (v : Word)
  /-- SLOT_CLAIM_REQUEST (R329). -/
  | slotClaimRequest (l : Lane) (c : CoreId)
  /-- SLOT_CLAIM_RELEASE (R330). -/
  | slotClaimRelease (l : Lane) (c : CoreId)
  /-- SCHEDULE_TABLE_WRITE (R334). -/
  | scheduleTableWrite (l : Lane) (c : CoreId) (v : Word)
  /-- GUARDIAN_STREAM_WRITE (R342). -/
  | guardianStreamWrite (l : Lane) (c : CoreId) (v : Word)
  /-- LINK_DELAY_REQUEST (R347). -/
  | linkDelayRequest (ch : Chan) (port : Nat) (t1 : Nat)
  /-- MARK_RECEIVED (R348). -/
  | markReceived (ch : Chan) (port : Nat) (response : Bool) (t : Nat) (transmitting : Bool)
  /-- LINK_DELAY_DISCARD (R349). -/
  | linkDelayDiscard (ch : Chan) (port : Nat)
  /-- HOLDOVER_ENTRY (R358). -/
  | holdoverEntry
  /-- PPS_EDGE (R361). -/
  | ppsEdge (rising : Bool) (t : Nat)
  /-- PPS_LOSS (R363). -/
  | ppsLoss
  /-- EXT_TIME_INVALID (R363). -/
  | extTimeInvalid
  /-- PPS_OUT_PULSE (R365). -/
  | ppsOutPulse
  /-- PTP_MESSAGE (R364). -/
  | ptpMessage (msg : PtpMsg)
  /-- TIM_EXT_WRITE (R370). -/
  | timExtWrite (l : Lane) (c : CoreId) (v : Word)
  /-- WAN_DATAGRAM_RECEIVED (R383). -/
  | wanDatagramReceived (port : Nat) (postmark : Nat) (payload : List Nat)
  /-- HELLO_RECEIVED (R400). -/
  | helloReceived (hello : Hello)
  /-- HELLO_TIMEOUT (R401). -/
  | helloTimeout
  /-- TASK_TRANSFER (R415). -/
  | taskTransfer (tr : Transfer)
  /-- ROLE_SWAP_REQUEST (R417). -/
  | roleSwapRequest
  /-- TWIN_FUNCTION_PROOF (R418). -/
  | twinFunctionProof (fn : Nat) (ok : Bool)
  /-- CUT_OFF_NOTICE (R448). -/
  | cutOffNotice (rs : Nat) (groups : Nat) (chkOk : Bool)
  /-- UPDATE_RECORD (R510). -/
  | updateRecord (rec : UpdRec)
  /-- HANDOVER (R512). -/
  | handover (rec : HandoverRec)
  /-- TWIN_DETACH (R410). -/
  | twinDetach (l : Lane) (c : CoreId)
  /-- TWIN_SWAP_REQUEST (R417). -/
  | twinSwapRequest (l : Lane) (c : CoreId)
  /-- DOWNLINK_FRAME_SEND (R430). -/
  | downlinkFrameSend
  /-- DOWNLINK_FRAME_RECEIVED (R433). -/
  | downlinkFrameReceived (l : Lane) (frame : BitVec 128) (mids : List Mid)
  /-- CONFIG_FRAME_RECEIVED (R436). -/
  | configFrameReceived (l : Lane) (frame : BitVec 128)
  /-- UPLINK_FRAME_RECEIVED (R435). -/
  | uplinkFrameReceived (l : Lane) (frame : BitVec 128) (inst : Nat)
  /-- CONTROLLER_LINK_WATCHDOG (R433). -/
  | controllerLinkWatchdog (l : Lane)
  /-- INPUT_DEBOUNCED (R437). -/
  | inputDebounced (l : Lane) (input : Nat) (value : Tri)
  /-- FIELD_SUPPLY_UNKNOWN (R438). -/
  | fieldSupplyUnknown (l : Lane) (vf : Int)
  /-- FIELD_SUPPLY_RECOVERED (R438). -/
  | fieldSupplyRecovered (l : Lane) (vf : Int)
  /-- SAG_LATCH_SET (R451). -/
  | sagLatchSet (l : Lane) (vf : Int)
  /-- SAG_LATCH_RELEASE (R451). -/
  | sagLatchRelease (l : Lane) (vf : Int)
  /-- CURRENT_LIMIT_TRIP (R429). -/
  | currentLimitTrip (l : Lane) (cell : Nat) (branch : Nat)
  /-- CONTROLLER_SUPPLY_LOSS (R453). -/
  | controllerSupplyLoss (l : Lane)
  /-- TEST_PULSE_START (R442). -/
  | testPulseStart
  /-- PULSE_EVALUATION (R443). -/
  | pulseEvaluation (levels : PerLane Mid)
  /-- DARK_PULSE_END (R442). -/
  | darkPulseEnd
  /-- LIGHT_PULSE_END (R442). -/
  | lightPulseEnd (l : Lane)
  /-- FEEDBACK_SETTLE (R450). -/
  | feedbackSettle (group : Nat)
  /-- CELL_CLEAR (R449). -/
  | cellClear (l : Lane) (c : CoreId) (cell : Nat)
  /-- LANE_ENABLE_WRITE (R439). -/
  | laneEnableWrite (l : Lane) (c : CoreId) (v : Word)
  /-- D6_SAFE_SWITCH_OFF (R452). -/
  | d6SafeSwitchOff
  /-- VIN_INTERRUPTION_BEGIN (R458). -/
  | vinInterruptionBegin (vin : Int)
  /-- VIN_INTERRUPTION_END (R458). -/
  | vinInterruptionEnd (vin : Int) (us : Nat)
  /-- POWER_FAIL (R459). -/
  | powerFail
  /-- STORE_EXHAUSTED (R459). -/
  | storeExhausted
  /-- HOLDUP_CHARGED (R457). -/
  | holdupCharged (charge : Nat)
  /-- VIN_APPEAR (R473). -/
  | vinAppear (vin : Int)
  /-- STANDBY_TO_STARTING (R473). -/
  | standbyToStarting
  /-- START_SEQUENCE (R475). -/
  | startSequence (inp : StartInput)
  /-- FILL_COMPLETE (R280). -/
  | fillComplete (l : Lane) (ok : Bool) (sramUs : Nat) (dramMs : Nat)
  /-- SELF_TEST_BLOCK (R481). -/
  | selfTestBlock (block : Nat) (signature : Word) (marchOk : Bool)
  /-- SELF_TEST_ABORT (R482). -/
  | selfTestAbort (block : Nat) (conds : Nat)
  /-- IMAGE_LOAD (R506). -/
  | imageLoad (badPages : PerLane Nat) (secondBad : PerLane Bool)
  /-- REGULATOR_FAULT (R464). -/
  | regulatorFault (reg : Regulator)
  /-- STAMP_REQUEST (R469). -/
  | stampRequest (l : Lane) (c : CoreId) (v : Word)
  /-- STAMP_RELEASE (R469). -/
  | stampRelease (l : Lane) (c : CoreId) (v : Word)
  /-- STAMP_GRANT (R470). -/
  | stampGrant
  /-- GROUP_ON_STAMP_TIMEOUT (R469). -/
  | groupOnStampTimeout (tag : Nat)
  /-- DOMAIN_OFF_REQUEST (R462). -/
  | domainOffRequest (l : Lane) (c : CoreId) (v : Word)
  /-- SHUTDOWN_RESTART (R484). -/
  | shutdownRestart (l : Lane) (c : CoreId)
  /-- SHUTDOWN_STANDBY (R484). -/
  | shutdownStandby (l : Lane) (c : CoreId)
  /-- ORDERLY_SHUTDOWN (R485). -/
  | orderlyShutdown (results : Nat)
  /-- RST_N_LOW (R488). -/
  | rstNLow
  /-- RST_N_HELD_LONG (R489). -/
  | rstNHeldLong
  /-- RST_N_RELEASE (R490). -/
  | rstNRelease (stableS : Nat)
  /-- OPERATING_MINUTE (R465). -/
  | operatingMinute
  /-- TAMPER_SAMPLE (R499). -/
  | tamperSample (lid1 : Bool) (lid2 : Bool) (light : Bool)
  /-- SCRUB_BURST (R291). -/
  | scrubBurst (l : Lane)
  /-- SRAM_SCRUB_STEP (R290). -/
  | sramScrubStep (l : Lane)
  /-- SCRUB_PASS_LATE (R292). -/
  | scrubPassLate (l : Lane) (dram : Bool)
  /-- GRANT_REVOCATION (R558). -/
  | grantRevocation (l : Lane) (req : Requester) (urgent : Bool)
  /-- DRAM_CUT_OFF (R563). -/
  | dramCutOff (l : Lane)
  /-- ENGINE_CUT_OFF (R564). -/
  | engineCutOff (l : Lane)
  /-- ARB_PRIO_WRITE (R561). -/
  | arbPrioWrite (l : Lane) (c : CoreId) (v : Word)
  /-- ACQUIRE (R567). -/
  | acquire (l : Lane) (c : CoreId) (n : Nat) (lease : Nat)
  /-- RELEASE (R568). -/
  | release (l : Lane) (c : CoreId) (n : Nat)
  /-- RENEW (R568). -/
  | renew (l : Lane) (c : CoreId) (n : Nat) (lease : Nat)
  /-- HAND (R569). -/
  | hand (l : Lane) (c : CoreId) (n : Nat) (ticket : Nat) (lease : Nat)
  /-- RECOVER (R571). -/
  | recover (l : Lane) (c : CoreId) (n : Nat)
  /-- LEASE_EXPIRY (R570). -/
  | leaseExpiry (l : Lane) (n : Nat)
  /-- CLAIM (R574). -/
  | claim (l : Lane) (c : CoreId) (req : ClaimReq)
  /-- CLAIM_RELEASE (R577). -/
  | claimRelease (l : Lane) (c : CoreId) (req : ClaimReq)
  /-- TAKE_OWNERSHIP (R496). -/
  | takeOwnership (anchor : Nat) (auth : OwnerAuth)
  /-- RELEASE_OWNERSHIP (R496). -/
  | releaseOwnership (auth : OwnerAuth)
  /-- SET_UPDATE_LOCK (R497). -/
  | setUpdateLock (auth : OwnerAuth)
  /-- CLEAR_UPDATE_LOCK (R497). -/
  | clearUpdateLock (auth : OwnerAuth)
  /-- INSTALL_CONNECTION_KEY (R498). -/
  | installConnectionKey (pkg : KeyPackage)
  /-- COMMIT_CHANGE_OVER (R511). -/
  | commitChangeOver (auth : OwnerAuth)
  /-- ENTER_COMMISSIONING (R480). -/
  | enterCommissioning (auth : OwnerAuth)
  /-- LEAVE_COMMISSIONING (R480). -/
  | leaveCommissioning (auth : OwnerAuth)
  /-- COMMISSIONING_COMMAND_DROP (R480). -/
  | commissioningCommandDrop
  /-- GET_CERT (R502). -/
  | getCert (l : Lane) (addr : Nat) (len : Nat)
  /-- ATTEST (R502). -/
  | attest (l : Lane) (addr : Nat) (len : Nat)
  /-- IMG_CHECK (R504). -/
  | imgCheck (l : Lane) (addr : Nat) (len : Nat) (img : Image)
  /-- IMG_APPLY (R507). -/
  | imgApply (l : Lane) (addr : Nat) (len : Nat) (img : Image)
  /-- GCM_SEAL (R381). -/
  | gcmSeal (l : Lane) (addr : Nat) (len : Nat) (conn : Nat)
  /-- GCM_OPEN (R381). -/
  | gcmOpen (l : Lane) (addr : Nat) (len : Nat)
  /-- KEY_INSTALL (R498). -/
  | keyInstall (l : Lane) (addr : Nat) (len : Nat) (pkg : KeyPackage)
  /-- OWNER_CMD (R496). -/
  | ownerCmd (l : Lane) (addr : Nat) (len : Nat) (auth : OwnerAuth)
  /-- LOG_MAC (R526). -/
  | logMac (l : Lane) (addr : Nat) (len : Nat) (req : LogReq)
  /-- MAILBOX_RESPONSE (R522). -/
  | mailboxResponse (l : Lane)
  /-- UPD_LOAD (R506). -/
  | updLoad (l : Lane) (c : CoreId)
  /-- UPD_COMMIT (R511). -/
  | updCommit (l : Lane) (c : CoreId)
  /-- UPD_ABORT (R513). -/
  | updAbort (l : Lane) (c : CoreId)
  /-- CHANGE_OVER_TIMEOUT (R509). -/
  | changeOverTimeout
  /-- FIRMWARE_MINIMUM_RAISE (R501). -/
  | firmwareMinimumRaise
  /-- STAR_FIRMWARE_APPLY (R518). -/
  | starFirmwareApply (ch : Chan) (img : Image)
  /-- LONE_RECORD (R526). -/
  | loneRecord
  /-- RECORD_WRITE (R527). -/
  | recordWrite
  /-- RATE_WINDOW_END (R531). -/
  | rateWindowEnd
  /-- LOG_CLEAR (R529). -/
  | logClear (l : Lane) (c : CoreId)
  /-- ERASE_COMPLETE (R529). -/
  | eraseComplete
  /-- LOG_FREEZE_WRITE (R533). -/
  | logFreezeWrite (l : Lane) (c : CoreId) (v : Word)
  /-- FREEZE_TIMEOUT (R533). -/
  | freezeTimeout
  /-- LOG_WIN0_READ (R534). -/
  | logWin0Read (l : Lane) (c : CoreId) (gd : GReg)
  /-- LOG_WIN7_READ (R534). -/
  | logWin7Read (l : Lane) (c : CoreId) (gd : GReg)
  /-- LOG_RATE_SELECT (R532). -/
  | logRateSelect (l : Lane) (c : CoreId) (v : Word)
  /-- LOG_RATE_APPLY (R532). -/
  | logRateApply (l : Lane) (c : CoreId) (v : Word)
  /-- PMC_SEL_WRITE (R541). -/
  | pmcSelWrite (l : Lane) (c : CoreId) (n : Nat) (v : Word)
  /-- PMC_UAC_WRITE (R541). -/
  | pmcUacWrite (l : Lane) (c : CoreId) (v : Word)
  /-- CRC_INIT (R542). -/
  | crcInit (l : Lane) (c : CoreId) (u : Nat) (v : Word)
  /-- CRC_VAL_WRITE (R544). -/
  | crcValWrite (l : Lane) (c : CoreId) (u : Nat) (v : Word)
  /-- CRC_ENABLE (R544). -/
  | crcEnable (l : Lane) (c : CoreId) (u : Nat) (v : Word)
  /-- TST_TOKEN (R545). -/
  | tstToken (l : Lane) (c : CoreId) (v : Word)
  /-- TST_DELAY_WRITE (R546). -/
  | tstDelayWrite (l : Lane) (c : CoreId) (v : Word)
  /-- TST_BP_WRITE (R547). -/
  | tstBpWrite (l : Lane) (c : CoreId) (v : Word)
  /-- MEMORY_INJECT (R548). -/
  | memoryInject (l : Lane) (c : CoreId) (v : Word)
  /-- COMPARATOR_INJECT (R548). -/
  | comparatorInject (l : Lane) (c : CoreId) (v : Word)
  /-- CMP_INJECT_WRITE (R261). -/
  | cmpInjectWrite (l : Lane) (c : CoreId) (v : Word)
  /-- CMP_SCOPE_WRITE (R234). -/
  | cmpScopeWrite (l : Lane) (c : CoreId) (v : Word)
  /-- XLE_RETRAIN (R253): whether the links train, and the latency found on the link to each other lane, in ns (R271). -/
  | xleRetrain (l : Lane) (c : CoreId) (trained : Bool) (lat : PerLane Nat)
  /-- HALT_REQUEST (R265). -/
  | haltRequest (l : Lane) (c : CoreId)
  /-- HALT_RESUME (R267). -/
  | haltResume (l : Lane) (c : CoreId)
  /-- TSK_FORCE_WRITE (R217). -/
  | tskForceWrite (l : Lane) (c : CoreId) (v : Word)
  /-- TASK_CONFIG_WRITE (R230). -/
  | taskConfigWrite (l : Lane) (c : CoreId) (addr : Nat) (v : Word)
  /-- FLUSH (R177). -/
  | flush (l : Lane) (c : CoreId) (v : Word)
  /-- ENGINE_ENABLE (R177). -/
  | engineEnable (l : Lane) (c : CoreId) (v : Word)
  /-- IMG_BASE_WRITE (R180). -/
  | imgBaseWrite (l : Lane) (c : CoreId) (v : Word)
  /-- DPREV_WRITE (R182). -/
  | dprevWrite (l : Lane) (c : CoreId) (task : Nat) (v : Word)
  /-- CTX_BASE_WRITE (R181). -/
  | ctxBaseWrite (l : Lane) (c : CoreId) (v : Word)
  /-- VOTED_WRITE (R34). -/
  | votedWrite (l : Lane) (c : CoreId) (addr : Nat) (v : Word)
  /-- RC_READ (R16). -/
  | rcRead (l : Lane) (c : CoreId) (gd : GReg) (addr : Nat)
  /-- REGISTER_WRITE (R15). -/
  | registerWrite (l : Lane) (c : CoreId) (addr : Nat) (v : Word)
  /-- TWIN_LINK_CHANGE (R422). -/
  | twinLinkChange (pairB : Bool) (up : Bool)
  /-- SELF_TEST_RESUME (R482). -/
  | selfTestResume (waiting : Bool)
  /-- LOW90_CHANGE (R460). -/
  | low90Change (vin : Int)
deriving DecidableEq, Repr

end Sys2Proof
end

