-- ==== Sys2Proof/Config.lean ====
section
/-! DEFINITION. Config.lean: what the spec leaves open. Every constant here is opaque: no proof can see its value, so
a statement holds whatever it is. `freeWord` and `freeNat` are applied to the counter State.free (the model's own
field), to give one fresh unconstrained value each time. The cryptographic functions are named by the spec (R381,
R498, R502, R504, R525, R545) and defined elsewhere. -/
namespace Sys2Proof.Config

/-- UNVERIFIED: a word the spec does not fix (a clock count, a measured time, an undefined value). Log entry 3. -/
opaque freeWord : Nat → Word
/-- UNVERIFIED: a number the spec does not fix. Log entry 3. -/
opaque freeNat : Nat → Nat
/-- Whether the firmware's code table marks an event code as a lane code (R523 gives no marking). Log entry 5. -/
opaque laneCode : Nat → Bool
/-- SHA-384 of a byte string, as a 48-byte number (R503, R504). Log entry 4. -/
opaque sha384 : List Nat → Nat
/-- ECDSA P-384: key, message hash, signature; whether it verifies (R496, R504). Log entry 4. -/
opaque ecdsaVerify : Nat → Nat → Nat → Bool
/-- ECDSA P-384 signature of a byte string by the device identity key (R502). Log entry 4. -/
opaque ecdsaSign : Nat → List Nat → Nat
/-- The public key that a DER certificate chain ends in for its leaf (R504). Log entry 4. -/
opaque certLeafKey : Nat → Nat
/-- Whether a certificate chain ends at the given anchor (R504). Log entry 4. -/
opaque certChains : Nat → Nat → Bool
/-- The role that a leaf certificate carries (R504). Log entry 4. -/
opaque certRole : Nat → Nat
/-- AES-256-GCM encryption: key, nonce, additional data, plain text; cipher text followed by the tag (R381). Log entry 4. -/
opaque gcmSeal : Nat → List Nat → List Nat → List Nat → List Nat
/-- AES-256-GCM decryption: key, nonce, additional data, cipher text with tag; none when the tag fails (R381). Log entry 4. -/
opaque gcmOpen : Nat → List Nat → List Nat → List Nat → Option (List Nat)
/-- HKDF-SHA-384 of an input key and an info string (R381). Log entry 4. -/
opaque hkdf : Nat → List Nat → Nat
/-- HMAC-SHA-384 under a key, as a 48-byte number (R525, R545). Log entry 4. -/
opaque hmac : Nat → List Nat → Nat
/-- The key that a key package decrypts to, under the device identity key; none when the tag of AES-256-GCM fails (R498). Log
entry 4. -/
opaque ecdhUnwrap : Nat → Option Nat
/-- D7's log key, which never leaves it (R525). Log entry 4. -/
opaque logKey : Nat
/-- The device identity certificate chain, as bytes (R502). Log entry 4. -/
opaque certChain : List Nat
/-- SHA-384 of D7's own firmware, which ATTEST reports (R502). Log entry 3. -/
opaque d7Firmware : Nat
/-- Signature produced by a block's self-test (R481), per block number and per test count. Log entry 3. -/
opaque bistReference : Nat → Word

end Sys2Proof.Config
end

