-- ==== Sys2Proof/Machine/Bits.lean ====
section
/-! DEFINITION. Machine/Bits.lean: bit helpers, sorted maps, check codes. The maps are lists of (key, value) in one
canonical form: keys strictly rising, no value equal to what an unlisted key reads as. -/
namespace Sys2Proof.Machine

/-! ## Sorted maps -/

/-- The value at a key; an unlisted key reads as its default. -/
def mapGet {β : Type} (d : Nat → β) (m : List (Nat × β)) (a : Nat) : β :=
  match m with
  | [] => d a
  | (k, v) :: m => if a = k then v else mapGet d m a

/-- Sorted insertion of a value, replacing the one that is listed. -/
def mapInsert {β : Type} (m : List (Nat × β)) (a : Nat) (v : β) : List (Nat × β) :=
  match m with
  | [] => [(a, v)]
  | (k, w) :: m =>
    if a < k then (a, v) :: (k, w) :: m
    else if a = k then (a, v) :: m
    else (k, w) :: mapInsert m a v

/-- Removal of a key. -/
def mapErase {β : Type} (m : List (Nat × β)) (a : Nat) : List (Nat × β) :=
  match m with
  | [] => []
  | (k, w) :: m => if a = k then m else (k, w) :: mapErase m a

/-- A write: an entry equal to the default of its key is not listed. -/
def mapSet {β : Type} [DecidableEq β] (d : Nat → β) (m : List (Nat × β)) (a : Nat) (v : β) : List (Nat × β) :=
  if v = d a then mapErase m a else mapInsert m a v

/-- The canonical form. -/
def mapWf {β : Type} [DecidableEq β] (d : Nat → β) : List (Nat × β) → Bool
  | [] => true
  | [(k, v)] => !(decide (v = d k))
  | (k, v) :: (k', v') :: m => !(decide (v = d k)) && decide (k < k') && mapWf d ((k', v') :: m)

/-- The first value listed under a key. -/
def assoc {β : Type} (m : List (Nat × β)) (a : Nat) : Option β := (m.find? fun p => p.1 == a).map (·.2)

/-! ## Bits -/

/-- Bits hi to lo of a number. -/
def bits (v hi lo : Nat) : Nat := (v >>> lo) % 2 ^ (hi + 1 - lo)

/-- Bit i set. -/
def bit (v i : Nat) : Bool := (v >>> i) % 2 == 1

/-- 1 or 0. -/
def ofBool (b : Bool) : Nat := if b then 1 else 0

/-- The number with bit i set or cleared. -/
def setBit (v i : Nat) (b : Bool) : Nat :=
  if b then v ||| (1 <<< i) else v - (if bit v i then 1 <<< i else 0)

/-- A counter that stops at its largest value. -/
def satAdd (v n max : Nat) : Nat := if v + n ≤ max then v + n else max

/-- Number of one bits among the lowest n. -/
def popcount (v : Nat) : Nat → Nat
  | 0 => 0
  | n + 1 => popcount v n + (if bit v n then 1 else 0)

/-- Big-endian bytes of a number. -/
def bytesBE (v : Nat) : Nat → List Nat
  | 0 => []
  | n + 1 => (v >>> (8 * n)) % 256 :: bytesBE v n

/-- The number that big-endian bytes spell. -/
def ofBytesBE (bs : List Nat) : Nat := bs.foldl (fun a b => a * 256 + b % 256) 0

/-- A slice of a byte string. -/
def slice (bs : List Nat) (off n : Nat) : List Nat := (bs.drop off).take n

/-- A big-endian number at an offset of a byte string. -/
def numAt (bs : List Nat) (off n : Nat) : Nat := ofBytesBE (slice bs off n)

/-- Cluster round a less cluster round b, by signed difference modulo 2^32 (R307). -/
def roundDiff (a b : Nat) : Int :=
  let d : Nat := (a % 2 ^ 32 + 2 ^ 32 - b % 2 ^ 32) % 2 ^ 32
  if d < 2 ^ 31 then d else (d : Int) - 2 ^ 32

/-- Apply a function n times. -/
def iter {α : Type} (f : α → α) : Nat → α → α
  | 0, x => x
  | n + 1, x => iter f n (f x)

/-! ## Cyclic redundancy checks -/

/-- One shift of a non-reflected register of w bits. -/
def crcShift (w poly r : Nat) : Nat :=
  if bit r (w - 1) then ((r <<< 1) % 2 ^ w) ^^^ poly else (r <<< 1) % 2 ^ w

/-- One byte into a non-reflected register. -/
def crcByte (w poly r b : Nat) : Nat := iter (crcShift w poly) 8 (r ^^^ ((b % 256) <<< (w - 8)))

/-- One byte into a reflected register. -/
def crcByteR (poly r b : Nat) : Nat :=
  iter (fun r => if r % 2 = 1 then (r >>> 1) ^^^ poly else r >>> 1) 8 (r ^^^ (b % 256))

/-- crc64(r, v): CRC-64/ECMA-182, the 8 bytes of v most significant first (R231). -/
def crc64 (r v : Word) : Word :=
  BitVec.ofNat 64 (iter (crcShift 64 0x42F0E1EBA9EA3693) 64 (r.toNat ^^^ v.toNat))

/-- CRC-64/ECMA-182 over a list of words, from zero (R263). -/
def crc64Words (ws : List Word) : Word := ws.foldl crc64 0

/-- CRC-32C (R374). -/
def crc32c (bs : List Nat) : Nat := (bs.foldl (crcByteR 0x82F63B78) 0xFFFFFFFF) ^^^ 0xFFFFFFFF

/-- The IEEE 802.3 CRC-32 (R308). -/
def crc32 (bs : List Nat) : Nat := (bs.foldl (crcByteR 0xEDB88320) 0xFFFFFFFF) ^^^ 0xFFFFFFFF

/-- CRC-16/CCITT over bits of a number, most significant first (R430). -/
def crc16Bits (v n : Nat) : Nat :=
  match n with
  | 0 => 0xFFFF
  | n + 1 => crcShift 16 0x1021 (crc16Bits (v >>> 1) n ^^^ ((v % 2) <<< 15))

/-- The parameters of a polynomial of R542: width, polynomial, reflected, initial value, final XOR. -/
def crcParam (poly : Nat) : Nat × Nat × Bool × Nat × Nat :=
  match poly with
  | 0 => (32, 0xEDB88320, true, 0xFFFFFFFF, 0xFFFFFFFF)
  | 1 => (32, 0x82F63B78, true, 0xFFFFFFFF, 0xFFFFFFFF)
  | 2 => (64, 0x42F0E1EBA9EA3693, false, 0, 0)
  | _ => (16, 0x1021, false, 0xFFFF, 0)

/-- The lowest w bits of a number in reverse order. -/
def revBits (v : Nat) : Nat → Nat
  | 0 => 0
  | n + 1 => (revBits (v >>> 1) n) + ((v % 2) <<< n)

/-- The unit's register before output reflection is kept non-reflected: one byte into it (R542). -/
def crcUnitByte (poly r b : Nat) : Nat :=
  let p := crcParam poly
  if p.2.2.1 then revBits (crcByteR p.2.1 (revBits r p.1) b) p.1 else crcByte p.1 p.2.1 r b

/-- The finished value of CRC_OUTu (R542). -/
def crcUnitOut (poly r : Nat) : Nat :=
  let p := crcParam poly
  (if p.2.2.1 then revBits (r % 2 ^ p.1) p.1 else r % 2 ^ p.1) ^^^ p.2.2.2.2

/-! ## The memory code (R274 to R276) -/

/-- Multiplication by α in GF(256) modulo 0x11D. -/
def gfDouble (a : Nat) : Nat := if 128 ≤ a then ((a * 2) % 256) ^^^ 0x1D else a * 2

/-- Multiplication in GF(256); n bits of b are used. -/
def gfMulN (a b : Nat) : Nat → Nat
  | 0 => 0
  | n + 1 => (if b % 2 = 1 then a else 0) ^^^ gfMulN (gfDouble a) (b / 2) n

/-- Multiplication in GF(256). -/
def gfMul (a b : Nat) : Nat := gfMulN a b 8

/-- α to the power e. -/
def gfExp (e : Nat) : Nat := iter gfDouble (e % 255) 1

/-- The inverse: a to the power 254. -/
def gfInv (a : Nat) : Nat :=
  let a2 := gfMul a a
  let a4 := gfMul a2 a2
  let a8 := gfMul a4 a4
  let a16 := gfMul a8 a8
  let a32 := gfMul a16 a16
  let a64 := gfMul a32 a32
  gfMul (gfMul (gfMul a2 a4) (gfMul a8 a16)) (gfMul (gfMul a32 a64) (gfMul a64 a64))

/-- One step of the division by g(x) = x^4 + 0x0F·x^3 + 0x36·x^2 + 0x78·x + 0x40, on the remainder as four bytes. -/
def rsStep (r s : Nat) : Nat :=
  let f := (r >>> 24) ^^^ s
  ((r <<< 8) % 2 ^ 32) ^^^ ((gfMul f 0x0F <<< 24) + (gfMul f 0x36 <<< 16) + (gfMul f 0x78 <<< 8) + gfMul f 0x40)

/-- The check field of a data word: s11 in bits 31:24 down to s8 in bits 7:0 (R274). -/
def rsCheck (w : Word) : Nat := (bytesBE w.toNat 8).foldl rsStep 0

/-- The poison mask (R275). -/
def poisonMask : Nat := 0x963C5AF0

/-- The coefficient of x^e of the stored codeword: check symbols s8 to s11 at 0 to 3, s0 to s7 at 4 to 11 (R274). -/
def coef (data chk e : Nat) : Nat := if e < 4 then bits chk (8 * e + 7) (8 * e) else bits data (8 * (e - 4) + 7) (8 * (e - 4))

/-- The syndrome c(α^j). -/
def syndrome (data chk j : Nat) : Nat :=
  (List.range 12).foldl (fun a e => a ^^^ gfMul (coef data chk e) (gfExp (e * j))) 0

/-- The four syndromes. -/
def syndromes (data chk : Nat) : Nat × Nat × Nat × Nat :=
  (syndrome data chk 0, syndrome data chk 1, syndrome data chk 2, syndrome data chk 3)

/-- The syndromes of the poison mask (R276). -/
def poisonSyn : Nat × Nat × Nat × Nat := syndromes 0 poisonMask

/-- Errors that one or two symbols explain: a list of (exponent, error value) (R276, third row). -/
def locate (s : Nat × Nat × Nat × Nat) : Option (List (Nat × Nat)) :=
  let one := (List.range 12).find? fun e =>
    s.1 != 0 && gfMul s.1 (gfExp e) == s.2.1 && gfMul s.1 (gfExp (2 * e)) == s.2.2.1
      && gfMul s.1 (gfExp (3 * e)) == s.2.2.2
  match one with
  | some e => some [(e, s.1)]
  | none =>
    let solve (p q : Nat) : Nat × Nat :=
      let v2 := gfMul (s.2.1 ^^^ gfMul s.1 (gfExp p)) (gfInv (gfExp p ^^^ gfExp q))
      (s.1 ^^^ v2, v2)
    let pairs := (List.range 12).flatMap fun p => ((List.range 12).filter (p < ·)).map fun q => (p, q)
    let two := pairs.find? fun pq =>
      let v := solve pq.1 pq.2
      v.1 != 0 && v.2 != 0
        && (gfMul v.1 (gfExp (2 * pq.1)) ^^^ gfMul v.2 (gfExp (2 * pq.2))) == s.2.2.1
        && (gfMul v.1 (gfExp (3 * pq.1)) ^^^ gfMul v.2 (gfExp (3 * pq.2))) == s.2.2.2
    two.map fun pq => [(pq.1, (solve pq.1 pq.2).1), (pq.2, (solve pq.1 pq.2).2)]

/-- The symbol number of an exponent: 8 + e for a check symbol, e − 4 for a data symbol. -/
def symOf (e : Nat) : Nat := if e < 4 then 8 + e else e - 4

/-- What the decoder finds in a stored word (R276). -/
inductive Decoded where
  | clean (w : Word)
  | corrected (w : Word) (syms : List Nat)
  | poisoned
  | uncorrectable
deriving DecidableEq, Repr

/-- The decoder (R276). A stored word whose check field is that of its data is clean without further work. -/
def rsDecode (data chk : Nat) : Decoded :=
  if chk = rsCheck (BitVec.ofNat 64 data) then .clean (BitVec.ofNat 64 data)
  else
    let s := syndromes data chk
    if s = poisonSyn then .poisoned
    else match locate s with
      | some errs =>
        let fixed := errs.foldl (fun d p => if p.1 < 4 then d else d ^^^ (p.2 <<< (8 * (p.1 - 4)))) data
        .corrected (BitVec.ofNat 64 fixed) (errs.map fun p => symOf p.1)
      | none => .uncorrectable

/-! ## The bus code (R277) -/

/-- One step of the division by x^3 + 0x07·x^2 + 0x0E·x + 0x08, on the remainder as three bytes. -/
def busStep (r s : Nat) : Nat :=
  let f := (r >>> 16) ^^^ s
  ((r <<< 8) % 2 ^ 24) ^^^ ((gfMul f 0x07 <<< 16) + (gfMul f 0x0E <<< 8) + gfMul f 0x08)

/-- The three check symbols of a word, that of x^2 in bits 23:16. -/
def busCheck (w : Word) : Nat := (bytesBE w.toNat 8).foldl busStep 0

/-- A syndrome of a word on a path: check symbols at x^0 to x^2, data symbols s0 to s7 at x^3 to x^10. -/
def busSyndrome (data chk j : Nat) : Nat :=
  let coef (e : Nat) : Nat := if e < 3 then bits chk (8 * e + 7) (8 * e) else bits data (8 * (e - 3) + 7) (8 * (e - 3))
  (List.range 11).foldl (fun a e => a ^^^ gfMul (coef e) (gfExp (e * j))) 0

/-- What arrives at the end of a path. -/
inductive Arrival where
  | clean (w : Word)
  | corrected (w : Word)
  | detected
deriving DecidableEq, Repr

/-- The decoder of the bus code: one damaged symbol is corrected, two are detected (R277). -/
def busDecode (data chk : Nat) : Arrival :=
  let s0 := busSyndrome data chk 0
  let s1 := busSyndrome data chk 1
  let s2 := busSyndrome data chk 2
  if s0 = 0 ∧ s1 = 0 ∧ s2 = 0 then .clean (BitVec.ofNat 64 data)
  else
    match (List.range 11).find? fun e => s0 != 0 && gfMul s0 (gfExp e) == s1 && gfMul s0 (gfExp (2 * e)) == s2 with
    | some e => .corrected (BitVec.ofNat 64 (if e < 3 then data else data ^^^ (s0 <<< (8 * (e - 3)))))
    | none => .detected

/-- A word with its check symbols, as it arrives after a damage pattern has struck it. -/
def busArrive (w : Word) (pat : BitVec 88) : Arrival :=
  busDecode (w.toNat ^^^ bits pat.toNat 63 0) (busCheck w ^^^ bits pat.toNat 87 64)

end Sys2Proof.Machine
end

