-- ==== Sys2Proof/Machine/Regs.lean ====
section
/-! DEFINITION. Machine/Regs.lean: the register map. Every register's address and every field's bits, written from the
register tables of chapters 01 and 04 to 16, and for every register its levels (R31 and the chapters), the access
code of its bits (R15), its reserved bits (R14), the bits whose one home is the module, and its reset value. -/
namespace Sys2Proof.Machine

/-- A field of a register: register address, most and least significant bit. -/
structure RField where
  addr : Nat
  hi : Nat
  lo : Nat
deriving DecidableEq, Repr

/-- A row of the register map: first address, number of registers (8 bytes apart), lowest level that reads and that
writes, whether the register is voted, the masks of the access codes RW, WO, W1C, RC and WL, the reserved bits, the bits
held once for the module, and the reset value. -/
structure RegRow where
  base : Nat
  n : Nat
  read : Level
  write : Level
  voted : Bool
  rw : Nat
  wo : Nat
  w1c : Nat
  rc : Nat
  wl : Nat
  res : Nat
  mod : Nat
  reset : Nat
deriving DecidableEq, Repr

/-- SYS_ID (R33). -/
def R.SYS_ID : Nat := 0xF0000000
def R.SYS_ID_FAMILY : RField := ⟨R.SYS_ID, 63, 40⟩
def R.SYS_ID_HWREV : RField := ⟨R.SYS_ID, 39, 32⟩
def R.SYS_ID_ORDER : RField := ⟨R.SYS_ID, 1, 1⟩
def R.SYS_ID_FIO_FITTED : RField := ⟨R.SYS_ID, 0, 0⟩
/-- SYS_SERIAL (R33). -/
def R.SYS_SERIAL : Nat := 0xF0000008
def R.SYS_SERIAL_SERIAL : RField := ⟨R.SYS_SERIAL, 63, 0⟩
/-- SYS_LANE (R33). -/
def R.SYS_LANE : Nat := 0xF0000010
def R.SYS_LANE_LANE : RField := ⟨R.SYS_LANE, 1, 0⟩
/-- SYS_MODE (R33). -/
def R.SYS_MODE : Nat := 0xF0000018
def R.SYS_MODE_STATE : RField := ⟨R.SYS_MODE, 11, 8⟩
def R.SYS_MODE_ROLE : RField := ⟨R.SYS_MODE, 5, 4⟩
def R.SYS_MODE_FORCED : RField := ⟨R.SYS_MODE, 3, 3⟩
def R.SYS_MODE_OWNED : RField := ⟨R.SYS_MODE, 2, 2⟩
/-- SYS_CAUSE (R33). -/
def R.SYS_CAUSE : Nat := 0xF0000020
def R.SYS_CAUSE_CAUSE : RField := ⟨R.SYS_CAUSE, 15, 0⟩
/-- RTE_CTRL (R177). -/
def R.RTE_CTRL : Nat := 0xF0020000
def R.RTE_CTRL_FLUSH : RField := ⟨R.RTE_CTRL, 4, 4⟩
def R.RTE_CTRL_PREEMPT : RField := ⟨R.RTE_CTRL, 3, 3⟩
def R.RTE_CTRL_HINT : RField := ⟨R.RTE_CTRL, 2, 2⟩
def R.RTE_CTRL_PRED : RField := ⟨R.RTE_CTRL, 1, 1⟩
def R.RTE_CTRL_EN : RField := ⟨R.RTE_CTRL, 0, 0⟩
/-- RTE_STAT (R178). -/
def R.RTE_STAT : Nat := 0xF0020008
def R.RTE_STAT_PREEMPT_CNT : RField := ⟨R.RTE_STAT, 63, 48⟩
def R.RTE_STAT_DPREV_REJ : RField := ⟨R.RTE_STAT, 27, 27⟩
def R.RTE_STAT_IMG_REJ : RField := ⟨R.RTE_STAT, 26, 26⟩
def R.RTE_STAT_STAMP : RField := ⟨R.RTE_STAT, 25, 25⟩
def R.RTE_STAT_BANK : RField := ⟨R.RTE_STAT, 24, 24⟩
def R.RTE_STAT_LAST_STATUS : RField := ⟨R.RTE_STAT, 23, 20⟩
def R.RTE_STAT_PREEMPTED : RField := ⟨R.RTE_STAT, 17, 16⟩
def R.RTE_STAT_HELD : RField := ⟨R.RTE_STAT, 14, 12⟩
def R.RTE_STAT_RUN_TASK : RField := ⟨R.RTE_STAT, 11, 8⟩
def R.RTE_STAT_RUN_KIND : RField := ⟨R.RTE_STAT, 7, 4⟩
def R.RTE_STAT_BUSY : RField := ⟨R.RTE_STAT, 0, 0⟩
/-- RTE_PASS (R179). -/
def R.RTE_PASS : Nat := 0xF0020010
def R.RTE_PASS_WORDS : RField := ⟨R.RTE_PASS, 63, 32⟩
def R.RTE_PASS_CLOCKS : RField := ⟨R.RTE_PASS, 31, 0⟩
/-- RTE_IMG_BASE (R180). -/
def R.RTE_IMG_BASE : Nat := 0xF0020018
def R.RTE_IMG_BASE_BASE : RField := ⟨R.RTE_IMG_BASE, 31, 20⟩
def R.RTE_IMG_BASE_SIZE : RField := ⟨R.RTE_IMG_BASE, 8, 0⟩
/-- RTE_SQUASH_CNT (R181). -/
def R.RTE_SQUASH_CNT : Nat := 0xF0020020
def R.RTE_SQUASH_CNT_MISPRED : RField := ⟨R.RTE_SQUASH_CNT, 63, 32⟩
def R.RTE_SQUASH_CNT_SQUASHED : RField := ⟨R.RTE_SQUASH_CNT, 31, 0⟩
/-- RTE_HELD_LVL (R181). -/
def R.RTE_HELD_LVL : Nat := 0xF0020028
def R.RTE_HELD_LVL_PEAK : RField := ⟨R.RTE_HELD_LVL, 28, 16⟩
def R.RTE_HELD_LVL_LEVEL : RField := ⟨R.RTE_HELD_LVL, 12, 0⟩
/-- RTE_CTX_BASE (R181). -/
def R.RTE_CTX_BASE : Nat := 0xF0020030
def R.RTE_CTX_BASE_BASE : RField := ⟨R.RTE_CTX_BASE, 31, 16⟩
def R.RTE_CTX_BASE_VALID : RField := ⟨R.RTE_CTX_BASE, 0, 0⟩
/-- RTE_DPREVn (R182). -/
def R.RTE_DPREV (n : Nat) : Nat := 0xF0020100 + 8 * n
def R.RTE_DPREV_VALID (n : Nat) : RField := ⟨R.RTE_DPREV n, 63, 63⟩
def R.RTE_DPREV_DPREV (n : Nat) : RField := ⟨R.RTE_DPREV n, 28, 0⟩
/-- TSK_RSET (R230). -/
def R.TSK_RSET : Nat := 0xF0130000
def R.TSK_RSET_PERIOD : RField := ⟨R.TSK_RSET, 6, 0⟩
/-- TSK_RSNUM (R230). -/
def R.TSK_RSNUM : Nat := 0xF0130008
def R.TSK_RSNUM_K : RField := ⟨R.TSK_RSNUM, 63, 0⟩
/-- TSK_STAT (R230). -/
def R.TSK_STAT : Nat := 0xF0130010
def R.TSK_STAT_CFG_REJ : RField := ⟨R.TSK_STAT, 47, 47⟩
def R.TSK_STAT_FORCED : RField := ⟨R.TSK_STAT, 46, 46⟩
def R.TSK_STAT_CONV : RField := ⟨R.TSK_STAT, 45, 45⟩
def R.TSK_STAT_SORT_LANES : RField := ⟨R.TSK_STAT, 42, 40⟩
def R.TSK_STAT_FRESH : RField := ⟨R.TSK_STAT, 31, 16⟩
def R.TSK_STAT_DUE : RField := ⟨R.TSK_STAT, 15, 0⟩
/-- TSK_OVR (R230). -/
def R.TSK_OVR : Nat := 0xF0130018
def R.TSK_OVR_TOTAL : RField := ⟨R.TSK_OVR, 63, 48⟩
def R.TSK_OVR_STALE : RField := ⟨R.TSK_OVR, 47, 32⟩
def R.TSK_OVR_CONSEC : RField := ⟨R.TSK_OVR, 31, 0⟩
/-- TSK_FORCE (R230). -/
def R.TSK_FORCE : Nat := 0xF0130020
def R.TSK_FORCE_BASE : RField := ⟨R.TSK_FORCE, 41, 24⟩
def R.TSK_FORCE_COUNT : RField := ⟨R.TSK_FORCE, 8, 0⟩
/-- TSK_SORT (R230). -/
def R.TSK_SORT : Nat := 0xF0130028
def R.TSK_SORT_DIV_CNT : RField := ⟨R.TSK_SORT, 63, 48⟩
def R.TSK_SORT_UNK_CNT : RField := ⟨R.TSK_SORT, 47, 32⟩
def R.TSK_SORT_DROP_CNT : RField := ⟨R.TSK_SORT, 31, 16⟩
def R.TSK_SORT_COPY_CNT : RField := ⟨R.TSK_SORT, 15, 0⟩
/-- TSK_CFGn (R230). -/
def R.TSK_CFG (n : Nat) : Nat := 0xF0130100 + 8 * n
def R.TSK_CFG_EN (n : Nat) : RField := ⟨R.TSK_CFG n, 63, 63⟩
def R.TSK_CFG_PRIO (n : Nat) : RField := ⟨R.TSK_CFG n, 35, 32⟩
def R.TSK_CFG_PHASE (n : Nat) : RField := ⟨R.TSK_CFG n, 22, 16⟩
def R.TSK_CFG_MULT (n : Nat) : RField := ⟨R.TSK_CFG n, 14, 8⟩
/-- CMP_SEAL_P (R270). -/
def R.CMP_SEAL_P : Nat := 0xF0030000
def R.CMP_SEAL_P_SEAL : RField := ⟨R.CMP_SEAL_P, 63, 0⟩
/-- CMP_SEAL_Q (R270). -/
def R.CMP_SEAL_Q : Nat := 0xF0030008
def R.CMP_SEAL_Q_SEAL : RField := ⟨R.CMP_SEAL_Q, 63, 0⟩
/-- CMP_VOTE (R270). -/
def R.CMP_VOTE : Nat := 0xF0030010
def R.CMP_VOTE_RS : RField := ⟨R.CMP_VOTE, 63, 48⟩
def R.CMP_VOTE_OUTCOME : RField := ⟨R.CMP_VOTE, 47, 44⟩
def R.CMP_VOTE_TASK : RField := ⟨R.CMP_VOTE, 43, 40⟩
def R.CMP_VOTE_PCLEAN : RField := ⟨R.CMP_VOTE, 39, 38⟩
def R.CMP_VOTE_ISO_C : RField := ⟨R.CMP_VOTE, 31, 30⟩
def R.CMP_VOTE_ISO_B : RField := ⟨R.CMP_VOTE, 29, 28⟩
def R.CMP_VOTE_ISO_A : RField := ⟨R.CMP_VOTE, 27, 26⟩
def R.CMP_VOTE_ST_C : RField := ⟨R.CMP_VOTE, 25, 24⟩
def R.CMP_VOTE_ST_B : RField := ⟨R.CMP_VOTE, 23, 22⟩
def R.CMP_VOTE_ST_A : RField := ⟨R.CMP_VOTE, 21, 20⟩
def R.CMP_VOTE_SAFE : RField := ⟨R.CMP_VOTE, 19, 19⟩
def R.CMP_VOTE_VSET : RField := ⟨R.CMP_VOTE, 18, 16⟩
def R.CMP_VOTE_ODD : RField := ⟨R.CMP_VOTE, 10, 8⟩
def R.CMP_VOTE_AGREE : RField := ⟨R.CMP_VOTE, 6, 4⟩
def R.CMP_VOTE_VIEW : RField := ⟨R.CMP_VOTE, 2, 0⟩
/-- CMP_MISMATCH (R270). -/
def R.CMP_MISMATCH : Nat := 0xF0030018
def R.CMP_MISMATCH_TASK : RField := ⟨R.CMP_MISMATCH, 59, 56⟩
def R.CMP_MISMATCH_FIRST_WIN : RField := ⟨R.CMP_MISMATCH, 47, 32⟩
def R.CMP_MISMATCH_SAFEREQ : RField := ⟨R.CMP_MISMATCH, 17, 17⟩
def R.CMP_MISMATCH_SRC : RField := ⟨R.CMP_MISMATCH, 16, 4⟩
def R.CMP_MISMATCH_LANES : RField := ⟨R.CMP_MISMATCH, 2, 0⟩
/-- CMP_INJECT (R270). -/
def R.CMP_INJECT : Nat := 0xF0030020
def R.CMP_INJECT_DONE : RField := ⟨R.CMP_INJECT, 31, 31⟩
def R.CMP_INJECT_CAUGHT : RField := ⟨R.CMP_INJECT, 30, 30⟩
def R.CMP_INJECT_NAMED : RField := ⟨R.CMP_INJECT, 29, 27⟩
def R.CMP_INJECT_BIT : RField := ⟨R.CMP_INJECT, 13, 8⟩
def R.CMP_INJECT_CHAN : RField := ⟨R.CMP_INJECT, 7, 7⟩
def R.CMP_INJECT_LANE : RField := ⟨R.CMP_INJECT, 5, 4⟩
def R.CMP_INJECT_POINT : RField := ⟨R.CMP_INJECT, 3, 0⟩
/-- CMP_SCOPE (R270). -/
def R.CMP_SCOPE : Nat := 0xF0030028
def R.CMP_SCOPE_TRAIL_EN : RField := ⟨R.CMP_SCOPE, 63, 63⟩
def R.CMP_SCOPE_TRAIL_TASK : RField := ⟨R.CMP_SCOPE, 59, 56⟩
def R.CMP_SCOPE_TRAIL_BASE : RField := ⟨R.CMP_SCOPE, 23, 16⟩
/-- CMP_CFGCRC (R270). -/
def R.CMP_CFGCRC : Nat := 0xF0030030
def R.CMP_CFGCRC_CRC : RField := ⟨R.CMP_CFGCRC, 63, 0⟩
/-- CMP_CFGSHR (R270). -/
def R.CMP_CFGSHR : Nat := 0xF0030038
def R.CMP_CFGSHR_CRC : RField := ⟨R.CMP_CFGSHR, 63, 0⟩
/-- XLE_CTRL (R271). -/
def R.XLE_CTRL : Nat := 0xF0040000
def R.XLE_CTRL_RESUME : RField := ⟨R.XLE_CTRL, 2, 2⟩
def R.XLE_CTRL_HALT : RField := ⟨R.XLE_CTRL, 1, 1⟩
def R.XLE_CTRL_RETRAIN : RField := ⟨R.XLE_CTRL, 0, 0⟩
/-- XLE_STAT (R271). -/
def R.XLE_STAT : Nat := 0xF0040008
def R.XLE_STAT_CRCERR : RField := ⟨R.XLE_STAT, 63, 48⟩
def R.XLE_STAT_LAT_HI : RField := ⟨R.XLE_STAT, 47, 40⟩
def R.XLE_STAT_LAT_LO : RField := ⟨R.XLE_STAT, 39, 32⟩
def R.XLE_STAT_HALTED : RField := ⟨R.XLE_STAT, 15, 15⟩
def R.XLE_STAT_HALT_REJ : RField := ⟨R.XLE_STAT, 14, 14⟩
def R.XLE_STAT_HALT_PEND : RField := ⟨R.XLE_STAT, 13, 13⟩
def R.XLE_STAT_ABS_MOD : RField := ⟨R.XLE_STAT, 10, 8⟩
def R.XLE_STAT_ABS_OWN : RField := ⟨R.XLE_STAT, 6, 4⟩
def R.XLE_STAT_UP_HI : RField := ⟨R.XLE_STAT, 1, 1⟩
def R.XLE_STAT_UP_LO : RField := ⟨R.XLE_STAT, 0, 0⟩
/-- XLE_SKEW (R271). -/
def R.XLE_SKEW : Nat := 0xF0040010
def R.XLE_SKEW_OFF_LO : RField := ⟨R.XLE_SKEW, 63, 48⟩
def R.XLE_SKEW_OFF_HI : RField := ⟨R.XLE_SKEW, 47, 32⟩
def R.XLE_SKEW_MAXOFF : RField := ⟨R.XLE_SKEW, 31, 16⟩
def R.XLE_SKEW_STEP : RField := ⟨R.XLE_SKEW, 10, 8⟩
/-- MEM_ECC_STAT (R300). -/
def R.MEM_ECC_STAT : Nat := 0xF0050000
def R.MEM_ECC_STAT_CORR_CNT : RField := ⟨R.MEM_ECC_STAT, 63, 48⟩
def R.MEM_ECC_STAT_RMW_CORR : RField := ⟨R.MEM_ECC_STAT, 47, 40⟩
def R.MEM_ECC_STAT_UNCORR_CNT : RField := ⟨R.MEM_ECC_STAT, 39, 32⟩
def R.MEM_ECC_STAT_POISON_RD : RField := ⟨R.MEM_ECC_STAT, 31, 24⟩
def R.MEM_ECC_STAT_BUS_CORR : RField := ⟨R.MEM_ECC_STAT, 23, 16⟩
def R.MEM_ECC_STAT_BUS_DET : RField := ⟨R.MEM_ECC_STAT, 15, 8⟩
def R.MEM_ECC_STAT_PEND_REPAIR : RField := ⟨R.MEM_ECC_STAT, 4, 4⟩
def R.MEM_ECC_STAT_SCRUB_LATE : RField := ⟨R.MEM_ECC_STAT, 3, 3⟩
def R.MEM_ECC_STAT_POISON_SET : RField := ⟨R.MEM_ECC_STAT, 2, 2⟩
def R.MEM_ECC_STAT_UNCORR : RField := ⟨R.MEM_ECC_STAT, 1, 1⟩
def R.MEM_ECC_STAT_CORR : RField := ⟨R.MEM_ECC_STAT, 0, 0⟩
/-- MEM_ECC_ADDR (R300). -/
def R.MEM_ECC_ADDR : Nat := 0xF0050008
def R.MEM_ECC_ADDR_MEMORY : RField := ⟨R.MEM_ECC_ADDR, 63, 62⟩
def R.MEM_ECC_ADDR_SOURCE : RField := ⟨R.MEM_ECC_ADDR, 61, 59⟩
def R.MEM_ECC_ADDR_KIND : RField := ⟨R.MEM_ECC_ADDR, 58, 56⟩
def R.MEM_ECC_ADDR_SYM1 : RField := ⟨R.MEM_ECC_ADDR, 55, 52⟩
def R.MEM_ECC_ADDR_SYM2 : RField := ⟨R.MEM_ECC_ADDR, 51, 48⟩
def R.MEM_ECC_ADDR_ADDR : RField := ⟨R.MEM_ECC_ADDR, 31, 3⟩
/-- MEM_SCRUB (R300). -/
def R.MEM_SCRUB : Nat := 0xF0050010
def R.MEM_SCRUB_PERIOD : RField := ⟨R.MEM_SCRUB, 9, 0⟩
/-- MEM_SCRUB_POS (R300). -/
def R.MEM_SCRUB_POS : Nat := 0xF0050018
def R.MEM_SCRUB_POS_DPOS : RField := ⟨R.MEM_SCRUB_POS, 63, 32⟩
def R.MEM_SCRUB_POS_SPOS : RField := ⟨R.MEM_SCRUB_POS, 31, 8⟩
/-- MEM_SCRUB_STAT (R300). -/
def R.MEM_SCRUB_STAT : Nat := 0xF0050020
def R.MEM_SCRUB_STAT_PASSES : RField := ⟨R.MEM_SCRUB_STAT, 63, 48⟩
def R.MEM_SCRUB_STAT_ELAPSED : RField := ⟨R.MEM_SCRUB_STAT, 47, 38⟩
def R.MEM_SCRUB_STAT_URGENT : RField := ⟨R.MEM_SCRUB_STAT, 37, 37⟩
def R.MEM_SCRUB_STAT_STAMP : RField := ⟨R.MEM_SCRUB_STAT, 36, 36⟩
/-- MEM_SPARE (R300). -/
def R.MEM_SPARE : Nat := 0xF0050028
def R.MEM_SPARE_SRAM_FREE : RField := ⟨R.MEM_SPARE, 63, 55⟩
def R.MEM_SPARE_CAND : RField := ⟨R.MEM_SPARE, 54, 48⟩
def R.MEM_SPARE_PPR_USED : RField := ⟨R.MEM_SPARE, 47, 40⟩
def R.MEM_SPARE_PPR_FREE : RField := ⟨R.MEM_SPARE, 39, 32⟩
def R.MEM_SPARE_CAND_LOST : RField := ⟨R.MEM_SPARE, 31, 16⟩
def R.MEM_SPARE_CAND_IDX : RField := ⟨R.MEM_SPARE, 5, 0⟩
/-- MEM_CAND (R300). -/
def R.MEM_CAND : Nat := 0xF0050030
def R.MEM_CAND_VALID : RField := ⟨R.MEM_CAND, 63, 63⟩
def R.MEM_CAND_MEMORY : RField := ⟨R.MEM_CAND, 62, 62⟩
def R.MEM_CAND_CAUSE : RField := ⟨R.MEM_CAND, 61, 60⟩
def R.MEM_CAND_ROW : RField := ⟨R.MEM_CAND, 31, 0⟩
/-- MEM_FILL (R300). -/
def R.MEM_FILL : Nat := 0xF0050038
def R.MEM_FILL_SRAM_DONE : RField := ⟨R.MEM_FILL, 63, 63⟩
def R.MEM_FILL_DRAM_DONE : RField := ⟨R.MEM_FILL, 62, 62⟩
def R.MEM_FILL_FILL_ERR : RField := ⟨R.MEM_FILL, 61, 61⟩
def R.MEM_FILL_DRAM_MS : RField := ⟨R.MEM_FILL, 47, 32⟩
def R.MEM_FILL_SRAM_US : RField := ⟨R.MEM_FILL, 31, 16⟩
/-- DNR_CTRL (R340). -/
def R.DNR_CTRL : Nat := 0xF0070000
def R.DNR_CTRL_LISTEN_BASE : RField := ⟨R.DNR_CTRL, 23, 16⟩
def R.DNR_CTRL_CS_EN : RField := ⟨R.DNR_CTRL, 4, 4⟩
def R.DNR_CTRL_EN_Y : RField := ⟨R.DNR_CTRL, 2, 2⟩
def R.DNR_CTRL_EN_X : RField := ⟨R.DNR_CTRL, 1, 1⟩
def R.DNR_CTRL_EN : RField := ⟨R.DNR_CTRL, 0, 0⟩
/-- DNR_STAT (R340). -/
def R.DNR_STAT : Nat := 0xF0070008
def R.DNR_STAT_RXOVF : RField := ⟨R.DNR_STAT, 63, 48⟩
def R.DNR_STAT_OWN_TRUNC : RField := ⟨R.DNR_STAT, 47, 32⟩
def R.DNR_STAT_STATE : RField := ⟨R.DNR_STAT, 31, 28⟩
def R.DNR_STAT_LEADER : RField := ⟨R.DNR_STAT, 27, 27⟩
def R.DNR_STAT_TWINSYNC : RField := ⟨R.DNR_STAT, 26, 26⟩
def R.DNR_STAT_INT_Y : RField := ⟨R.DNR_STAT, 25, 25⟩
def R.DNR_STAT_INT_X : RField := ⟨R.DNR_STAT, 24, 24⟩
def R.DNR_STAT_COPY_Y : RField := ⟨R.DNR_STAT, 23, 16⟩
def R.DNR_STAT_LEADER_ID : RField := ⟨R.DNR_STAT, 11, 0⟩
/-- DNR_SCHED_SEL (R340). -/
def R.DNR_SCHED_SEL : Nat := 0xF0070010
def R.DNR_SCHED_SEL_SWITCH_ROUND : RField := ⟨R.DNR_SCHED_SEL, 63, 32⟩
def R.DNR_SCHED_SEL_REQV : RField := ⟨R.DNR_SCHED_SEL, 11, 11⟩
def R.DNR_SCHED_SEL_REQ : RField := ⟨R.DNR_SCHED_SEL, 9, 8⟩
def R.DNR_SCHED_SEL_CONF : RField := ⟨R.DNR_SCHED_SEL, 7, 7⟩
def R.DNR_SCHED_SEL_PEND : RField := ⟨R.DNR_SCHED_SEL, 6, 6⟩
def R.DNR_SCHED_SEL_NEXT : RField := ⟨R.DNR_SCHED_SEL, 5, 4⟩
def R.DNR_SCHED_SEL_NOW : RField := ⟨R.DNR_SCHED_SEL, 1, 0⟩
/-- DNR_SLOT_CLAIM (R340). -/
def R.DNR_SLOT_CLAIM : Nat := 0xF0070018
def R.DNR_SLOT_CLAIM_REQ : RField := ⟨R.DNR_SLOT_CLAIM, 63, 63⟩
def R.DNR_SLOT_CLAIM_REL : RField := ⟨R.DNR_SLOT_CLAIM, 62, 62⟩
def R.DNR_SLOT_CLAIM_STATE : RField := ⟨R.DNR_SLOT_CLAIM, 61, 60⟩
def R.DNR_SLOT_CLAIM_SLOT : RField := ⟨R.DNR_SLOT_CLAIM, 59, 50⟩
def R.DNR_SLOT_CLAIM_FREE : RField := ⟨R.DNR_SLOT_CLAIM, 37, 32⟩
/-- DNR_NODE (R340). -/
def R.DNR_NODE : Nat := 0xF0070020
def R.DNR_NODE_TWIN : RField := ⟨R.DNR_NODE, 43, 32⟩
def R.DNR_NODE_VALID : RField := ⟨R.DNR_NODE, 12, 12⟩
def R.DNR_NODE_NODE : RField := ⟨R.DNR_NODE, 11, 0⟩
/-- DNR_ROUND (R340). -/
def R.DNR_ROUND : Nat := 0xF0070028
def R.DNR_ROUND_ROUND : RField := ⟨R.DNR_ROUND, 63, 32⟩
def R.DNR_ROUND_SLOT : RField := ⟨R.DNR_ROUND, 9, 0⟩
/-- DNR_TBL_ADDR (R340). -/
def R.DNR_TBL_ADDR : Nat := 0xF0070030
def R.DNR_TBL_ADDR_SCHED : RField := ⟨R.DNR_TBL_ADDR, 15, 14⟩
def R.DNR_TBL_ADDR_ENTRY : RField := ⟨R.DNR_TBL_ADDR, 12, 0⟩
/-- DNR_TBL_DATA (R340). -/
def R.DNR_TBL_DATA : Nat := 0xF0070038
def R.DNR_TBL_DATA_ENTRY : RField := ⟨R.DNR_TBL_DATA, 63, 0⟩
/-- DNR_TBL_CRCn (R340). -/
def R.DNR_TBL_CRC (n : Nat) : Nat := 0xF0070040 + 8 * n
def R.DNR_TBL_CRC_CRC (n : Nat) : RField := ⟨R.DNR_TBL_CRC n, 63, 0⟩
/-- STR_CTRL (R342). -/
def R.STR_CTRL : Nat := 0xF0080000
def R.STR_CTRL_ULEVEL_Y : RField := ⟨R.STR_CTRL, 23, 22⟩
def R.STR_CTRL_ULEVEL_X : RField := ⟨R.STR_CTRL, 21, 20⟩
def R.STR_CTRL_UP_Y : RField := ⟨R.STR_CTRL, 19, 16⟩
def R.STR_CTRL_UP_X : RField := ⟨R.STR_CTRL, 15, 12⟩
def R.STR_CTRL_ROLE_Y : RField := ⟨R.STR_CTRL, 3, 2⟩
def R.STR_CTRL_ROLE_X : RField := ⟨R.STR_CTRL, 1, 0⟩
/-- STR_STAT (R342). -/
def R.STR_STAT : Nat := 0xF0080008
def R.STR_STAT_LEADER : RField := ⟨R.STR_STAT, 63, 52⟩
def R.STR_STAT_TWIN : RField := ⟨R.STR_STAT, 51, 40⟩
def R.STR_STAT_SCHED_Y : RField := ⟨R.STR_STAT, 39, 38⟩
def R.STR_STAT_SCHED_X : RField := ⟨R.STR_STAT, 37, 36⟩
def R.STR_STAT_GT_DIFF : RField := ⟨R.STR_STAT, 32, 32⟩
def R.STR_STAT_SELF_Y : RField := ⟨R.STR_STAT, 31, 31⟩
def R.STR_STAT_SELF_X : RField := ⟨R.STR_STAT, 30, 30⟩
def R.STR_STAT_FAIL_Y : RField := ⟨R.STR_STAT, 29, 29⟩
def R.STR_STAT_FAIL_X : RField := ⟨R.STR_STAT, 28, 28⟩
def R.STR_STAT_STATE_Y : RField := ⟨R.STR_STAT, 27, 26⟩
def R.STR_STAT_STATE_X : RField := ⟨R.STR_STAT, 25, 24⟩
/-- STR_WINDOW (R342). -/
def R.STR_WINDOW : Nat := 0xF0080010
def R.STR_WINDOW_LATE : RField := ⟨R.STR_WINDOW, 41, 32⟩
def R.STR_WINDOW_EARLY : RField := ⟨R.STR_WINDOW, 9, 0⟩
/-- STR_GT_CTRL (R342). -/
def R.STR_GT_CTRL : Nat := 0xF0080018
def R.STR_GT_CTRL_SEL : RField := ⟨R.STR_GT_CTRL, 1, 0⟩
/-- STR_GT_DATA (R342). -/
def R.STR_GT_DATA : Nat := 0xF0080020
def R.STR_GT_DATA_ENTRY : RField := ⟨R.STR_GT_DATA, 63, 0⟩
/-- STR_GT_CRCn (R342). -/
def R.STR_GT_CRC (n : Nat) : Nat := 0xF0080040 + 8 * n
def R.STR_GT_CRC_CRC (n : Nat) : RField := ⟨R.STR_GT_CRC n, 63, 0⟩
/-- STR_PORT_CTRLn (R342). -/
def R.STR_PORT_CTRL (n : Nat) : Nat := 0xF0080100 + 8 * n
def R.STR_PORT_CTRL_EN (n : Nat) : RField := ⟨R.STR_PORT_CTRL n, 15, 15⟩
def R.STR_PORT_CTRL_CS (n : Nat) : RField := ⟨R.STR_PORT_CTRL n, 14, 14⟩
def R.STR_PORT_CTRL_PR (n : Nat) : RField := ⟨R.STR_PORT_CTRL n, 13, 13⟩
def R.STR_PORT_CTRL_CASC (n : Nat) : RField := ⟨R.STR_PORT_CTRL n, 12, 12⟩
def R.STR_PORT_CTRL_DEPTH (n : Nat) : RField := ⟨R.STR_PORT_CTRL n, 11, 10⟩
def R.STR_PORT_CTRL_MEDIA (n : Nat) : RField := ⟨R.STR_PORT_CTRL n, 9, 8⟩
/-- STR_BLOCK_CNTn (R342). -/
def R.STR_BLOCK_CNT (n : Nat) : Nat := 0xF0080200 + 8 * n
def R.STR_BLOCK_CNT_TRUNC (n : Nat) : RField := ⟨R.STR_BLOCK_CNT n, 63, 48⟩
def R.STR_BLOCK_CNT_BLOCKS (n : Nat) : RField := ⟨R.STR_BLOCK_CNT n, 47, 40⟩
def R.STR_BLOCK_CNT_OVF (n : Nat) : RField := ⟨R.STR_BLOCK_CNT n, 39, 32⟩
def R.STR_BLOCK_CNT_SILENT (n : Nat) : RField := ⟨R.STR_BLOCK_CNT n, 23, 16⟩
def R.STR_BLOCK_CNT_CONSEC (n : Nat) : RField := ⟨R.STR_BLOCK_CNT n, 11, 10⟩
def R.STR_BLOCK_CNT_BLOCKED (n : Nat) : RField := ⟨R.STR_BLOCK_CNT n, 9, 9⟩
def R.STR_BLOCK_CNT_CAUSE (n : Nat) : RField := ⟨R.STR_BLOCK_CNT n, 7, 4⟩
/-- STR_TEST (R261). -/
def R.STR_TEST : Nat := 0xF008FFF0
def R.STR_TEST_VALUE : RField := ⟨R.STR_TEST, 63, 0⟩
/-- STR_VW (R42). -/
def R.STR_VW : Nat := 0xF008FFF8
def R.STR_VW_LAST_OFF : RField := ⟨R.STR_VW, 47, 32⟩
def R.STR_VW_REFUSE_CNT : RField := ⟨R.STR_VW, 23, 16⟩
def R.STR_VW_LATE : RField := ⟨R.STR_VW, 10, 8⟩
def R.STR_VW_WROTE : RField := ⟨R.STR_VW, 6, 4⟩
def R.STR_VW_FAIL : RField := ⟨R.STR_VW, 3, 3⟩
def R.STR_VW_AGREE : RField := ⟨R.STR_VW, 2, 0⟩
/-- TIM_NOW (R370). -/
def R.TIM_NOW : Nat := 0xF0090000
def R.TIM_NOW_T : RField := ⟨R.TIM_NOW, 63, 0⟩
/-- TIM_STAT (R370). -/
def R.TIM_STAT : Nat := 0xF0090008
def R.TIM_STAT_HOLD_R : RField := ⟨R.TIM_STAT, 63, 48⟩
def R.TIM_STAT_DELTA : RField := ⟨R.TIM_STAT, 47, 32⟩
def R.TIM_STAT_THETA : RField := ⟨R.TIM_STAT, 31, 16⟩
def R.TIM_STAT_STEP : RField := ⟨R.TIM_STAT, 12, 12⟩
def R.TIM_STAT_EXT_HOLD : RField := ⟨R.TIM_STAT, 11, 11⟩
def R.TIM_STAT_EXT_VALID : RField := ⟨R.TIM_STAT, 10, 10⟩
def R.TIM_STAT_EXT_SRC : RField := ⟨R.TIM_STAT, 9, 8⟩
def R.TIM_STAT_CORE : RField := ⟨R.TIM_STAT, 5, 5⟩
def R.TIM_STAT_DOM : RField := ⟨R.TIM_STAT, 1, 0⟩
/-- TIM_DOM_SEL (R370). -/
def R.TIM_DOM_SEL : Nat := 0xF0090010
def R.TIM_DOM_SEL_DOM1_ID : RField := ⟨R.TIM_DOM_SEL, 59, 48⟩
def R.TIM_DOM_SEL_DOM0_ID : RField := ⟨R.TIM_DOM_SEL, 43, 32⟩
def R.TIM_DOM_SEL_FORCE : RField := ⟨R.TIM_DOM_SEL, 1, 0⟩
/-- TIM_RATE (R370). -/
def R.TIM_RATE : Nat := 0xF0090018
def R.TIM_RATE_LANE : RField := ⟨R.TIM_RATE, 63, 32⟩
def R.TIM_RATE_EXT : RField := ⟨R.TIM_RATE, 31, 0⟩
/-- TIM_PPS (R370). -/
def R.TIM_PPS : Nat := 0xF0090020
def R.TIM_PPS_CABLE : RField := ⟨R.TIM_PPS, 63, 48⟩
def R.TIM_PPS_PTP_DOM : RField := ⟨R.TIM_PPS, 39, 32⟩
def R.TIM_PPS_WIDTH : RField := ⟨R.TIM_PPS, 24, 16⟩
def R.TIM_PPS_PTP_UDP : RField := ⟨R.TIM_PPS, 4, 4⟩
def R.TIM_PPS_PTP_EN : RField := ⟨R.TIM_PPS, 3, 3⟩
def R.TIM_PPS_POL : RField := ⟨R.TIM_PPS, 2, 2⟩
def R.TIM_PPS_OUT_EN : RField := ⟨R.TIM_PPS, 1, 1⟩
def R.TIM_PPS_IN_EN : RField := ⟨R.TIM_PPS, 0, 0⟩
/-- TIM_EXT (R370). -/
def R.TIM_EXT : Nat := 0xF0090028
def R.TIM_EXT_TAI : RField := ⟨R.TIM_EXT, 63, 0⟩
/-- TIM_PPS_T (R370). -/
def R.TIM_PPS_T : Nat := 0xF0090030
def R.TIM_PPS_T_T : RField := ⟨R.TIM_PPS_T, 63, 0⟩
/-- TIM_LDLYn (R370). -/
def R.TIM_LDLY (n : Nat) : Nat := 0xF0090100 + 8 * n
def R.TIM_LDLY_VALID (n : Nat) : RField := ⟨R.TIM_LDLY n, 63, 63⟩
def R.TIM_LDLY_DISC (n : Nat) : RField := ⟨R.TIM_LDLY n, 47, 32⟩
def R.TIM_LDLY_DELAY (n : Nat) : RField := ⟨R.TIM_LDLY n, 15, 0⟩
/-- TWN_CTRL (R424). -/
def R.TWN_CTRL : Nat := 0xF00C0000
def R.TWN_CTRL_DETACH : RField := ⟨R.TWN_CTRL, 3, 3⟩
def R.TWN_CTRL_SWAP : RField := ⟨R.TWN_CTRL, 2, 2⟩
def R.TWN_CTRL_EN : RField := ⟨R.TWN_CTRL, 0, 0⟩
/-- TWN_ROLE (R424). -/
def R.TWN_ROLE : Nat := 0xF00C0008
def R.TWN_ROLE_PARTNER : RField := ⟨R.TWN_ROLE, 63, 52⟩
def R.TWN_ROLE_OWN : RField := ⟨R.TWN_ROLE, 51, 40⟩
def R.TWN_ROLE_FN_FAIL : RField := ⟨R.TWN_ROLE, 35, 32⟩
def R.TWN_ROLE_P_FN_FAIL : RField := ⟨R.TWN_ROLE, 31, 28⟩
def R.TWN_ROLE_XFER_LEFT : RField := ⟨R.TWN_ROLE, 20, 16⟩
def R.TWN_ROLE_STATE : RField := ⟨R.TWN_ROLE, 11, 8⟩
def R.TWN_ROLE_LINK_B : RField := ⟨R.TWN_ROLE, 5, 5⟩
def R.TWN_ROLE_LINK_A : RField := ⟨R.TWN_ROLE, 4, 4⟩
def R.TWN_ROLE_POS_ERR : RField := ⟨R.TWN_ROLE, 3, 3⟩
def R.TWN_ROLE_POS : RField := ⟨R.TWN_ROLE, 2, 2⟩
def R.TWN_ROLE_ROLE : RField := ⟨R.TWN_ROLE, 1, 0⟩
/-- TWN_SWAP (R424). -/
def R.TWN_SWAP : Nat := 0xF00C0010
def R.TWN_SWAP_HOURS : RField := ⟨R.TWN_SWAP, 7, 0⟩
/-- TWN_CMP (R424). -/
def R.TWN_CMP : Nat := 0xF00C0018
def R.TWN_CMP_DIFF_CNT : RField := ⟨R.TWN_CMP, 63, 48⟩
def R.TWN_CMP_MISS_CNT : RField := ⟨R.TWN_CMP, 47, 32⟩
def R.TWN_CMP_HOLD_CNT : RField := ⟨R.TWN_CMP, 31, 16⟩
def R.TWN_CMP_LAST : RField := ⟨R.TWN_CMP, 7, 4⟩
def R.TWN_CMP_PCLEAN : RField := ⟨R.TWN_CMP, 3, 3⟩
def R.TWN_CMP_OCLEAN : RField := ⟨R.TWN_CMP, 2, 2⟩
def R.TWN_CMP_MISS : RField := ⟨R.TWN_CMP, 1, 1⟩
def R.TWN_CMP_DIFF : RField := ⟨R.TWN_CMP, 0, 0⟩
/-- TWN_SWST (R424). -/
def R.TWN_SWST : Nat := 0xF00C0020
def R.TWN_SWST_SWAPK : RField := ⟨R.TWN_SWST, 63, 32⟩
def R.TWN_SWST_ELAPSED : RField := ⟨R.TWN_SWST, 31, 18⟩
def R.TWN_SWST_PEND : RField := ⟨R.TWN_SWST, 0, 0⟩
/-- TWN_TEST (R261). -/
def R.TWN_TEST : Nat := 0xF00CFFF0
def R.TWN_TEST_VALUE : RField := ⟨R.TWN_TEST, 63, 0⟩
/-- TWN_VW (R42). -/
def R.TWN_VW : Nat := 0xF00CFFF8
def R.TWN_VW_LAST_OFF : RField := ⟨R.TWN_VW, 47, 32⟩
def R.TWN_VW_REFUSE_CNT : RField := ⟨R.TWN_VW, 23, 16⟩
def R.TWN_VW_LATE : RField := ⟨R.TWN_VW, 10, 8⟩
def R.TWN_VW_WROTE : RField := ⟨R.TWN_VW, 6, 4⟩
def R.TWN_VW_FAIL : RField := ⟨R.TWN_VW, 3, 3⟩
def R.TWN_VW_AGREE : RField := ⟨R.TWN_VW, 2, 0⟩
/-- FIO_IN (R455). -/
def R.FIO_IN : Nat := 0xF00B0000
def R.FIO_IN_VAL : RField := ⟨R.FIO_IN, 47, 0⟩
/-- FIO_IN_UNK (R455). -/
def R.FIO_IN_UNK : Nat := 0xF00B0008
def R.FIO_IN_UNK_UNK : RField := ⟨R.FIO_IN_UNK, 47, 0⟩
/-- FIO_OUT_REQ (R455). -/
def R.FIO_OUT_REQ : Nat := 0xF00B0010
def R.FIO_OUT_REQ_COMASK : RField := ⟨R.FIO_OUT_REQ, 58, 56⟩
def R.FIO_OUT_REQ_MASK : RField := ⟨R.FIO_OUT_REQ, 55, 32⟩
def R.FIO_OUT_REQ_CO : RField := ⟨R.FIO_OUT_REQ, 26, 24⟩
def R.FIO_OUT_REQ_CELL : RField := ⟨R.FIO_OUT_REQ, 23, 0⟩
/-- FIO_LEN (R455). -/
def R.FIO_LEN : Nat := 0xF00B0018
def R.FIO_LEN_COMASK : RField := ⟨R.FIO_LEN, 58, 56⟩
def R.FIO_LEN_MASK : RField := ⟨R.FIO_LEN, 55, 32⟩
def R.FIO_LEN_CO : RField := ⟨R.FIO_LEN, 26, 24⟩
def R.FIO_LEN_CELL : RField := ⟨R.FIO_LEN, 23, 0⟩
/-- FIO_OUT_STAT (R455). -/
def R.FIO_OUT_STAT : Nat := 0xF00B0020
def R.FIO_OUT_STAT_COFAILED : RField := ⟨R.FIO_OUT_STAT, 58, 56⟩
def R.FIO_OUT_STAT_FBFAULT : RField := ⟨R.FIO_OUT_STAT, 55, 53⟩
def R.FIO_OUT_STAT_CUTOFF : RField := ⟨R.FIO_OUT_STAT, 52, 50⟩
def R.FIO_OUT_STAT_PULSING : RField := ⟨R.FIO_OUT_STAT, 49, 49⟩
def R.FIO_OUT_STAT_READBACK : RField := ⟨R.FIO_OUT_STAT, 47, 24⟩
def R.FIO_OUT_STAT_FAILED : RField := ⟨R.FIO_OUT_STAT, 23, 0⟩
/-- FIO_PULSE (R455). -/
def R.FIO_PULSE : Nat := 0xF00B0028
def R.FIO_PULSE_EN : RField := ⟨R.FIO_PULSE, 63, 63⟩
def R.FIO_PULSE_TP : RField := ⟨R.FIO_PULSE, 41, 32⟩
def R.FIO_PULSE_DARK : RField := ⟨R.FIO_PULSE, 24, 16⟩
def R.FIO_PULSE_LIGHT : RField := ⟨R.FIO_PULSE, 5, 0⟩
/-- FIO_FB (R455). -/
def R.FIO_FB : Nat := 0xF00B0030
def R.FIO_FB_SETTLE : RField := ⟨R.FIO_FB, 40, 32⟩
def R.FIO_FB_FB : RField := ⟨R.FIO_FB, 11, 0⟩
/-- FIO_SUPPLY (R455). -/
def R.FIO_SUPPLY : Nat := 0xF00B0038
def R.FIO_SUPPLY_VF : RField := ⟨R.FIO_SUPPLY, 25, 16⟩
def R.FIO_SUPPLY_VG : RField := ⟨R.FIO_SUPPLY, 12, 10⟩
def R.FIO_SUPPLY_OVER : RField := ⟨R.FIO_SUPPLY, 2, 2⟩
def R.FIO_SUPPLY_UNDER : RField := ⟨R.FIO_SUPPLY, 1, 1⟩
def R.FIO_SUPPLY_SAG : RField := ⟨R.FIO_SUPPLY, 0, 0⟩
/-- FIO_LINK (R455). -/
def R.FIO_LINK : Nat := 0xF00B0040
def R.FIO_LINK_CRC_ERR : RField := ⟨R.FIO_LINK, 63, 48⟩
def R.FIO_LINK_WDOG : RField := ⟨R.FIO_LINK, 47, 32⟩
def R.FIO_LINK_CFGCHK : RField := ⟨R.FIO_LINK, 31, 16⟩
def R.FIO_LINK_UP : RField := ⟨R.FIO_LINK, 0, 0⟩
/-- FIO_DEBn (R455). -/
def R.FIO_DEB (n : Nat) : Nat := 0xF00B0100 + 8 * n
def R.FIO_DEB_TYPE (n : Nat) : RField := ⟨R.FIO_DEB n, 16, 16⟩
def R.FIO_DEB_DEB (n : Nat) : RField := ⟨R.FIO_DEB n, 15, 0⟩
/-- FIO_CELLn (R455). The offsets that R455 gives FIO_CELL0 to FIO_CELL15 are also those of FIO_DEB32 to FIO_DEB47 (log entry
6). The register is kept under a key above the address space; `busKey` leads an access to it. -/
def R.FIO_CELL (n : Nat) : Nat := 0x1F00B0200 + 8 * n
def R.FIO_CELL_CLR (n : Nat) : RField := ⟨R.FIO_CELL n, 63, 63⟩
def R.FIO_CELL_PARTNER (n : Nat) : RField := ⟨R.FIO_CELL n, 47, 40⟩
def R.FIO_CELL_BRANCH (n : Nat) : RField := ⟨R.FIO_CELL n, 33, 32⟩
def R.FIO_CELL_TESTS (n : Nat) : RField := ⟨R.FIO_CELL n, 31, 16⟩
def R.FIO_CELL_CAUSE (n : Nat) : RField := ⟨R.FIO_CELL n, 3, 0⟩
/-- FIO_TEST (R261). -/
def R.FIO_TEST : Nat := 0xF00BFFF0
def R.FIO_TEST_VALUE : RField := ⟨R.FIO_TEST, 63, 0⟩
/-- FIO_VW (R42). -/
def R.FIO_VW : Nat := 0xF00BFFF8
def R.FIO_VW_LAST_OFF : RField := ⟨R.FIO_VW, 47, 32⟩
def R.FIO_VW_REFUSE_CNT : RField := ⟨R.FIO_VW, 23, 16⟩
def R.FIO_VW_LATE : RField := ⟨R.FIO_VW, 10, 8⟩
def R.FIO_VW_WROTE : RField := ⟨R.FIO_VW, 6, 4⟩
def R.FIO_VW_FAIL : RField := ⟨R.FIO_VW, 3, 3⟩
def R.FIO_VW_AGREE : RField := ⟨R.FIO_VW, 2, 0⟩
/-- PWR_DOM_CTRL (R494). -/
def R.PWR_DOM_CTRL : Nat := 0xF0010000
def R.PWR_DOM_CTRL_SHUTDOWN : RField := ⟨R.PWR_DOM_CTRL, 17, 16⟩
def R.PWR_DOM_CTRL_ON : RField := ⟨R.PWR_DOM_CTRL, 7, 2⟩
/-- PWR_DOM_STAT (R494). -/
def R.PWR_DOM_STAT : Nat := 0xF0010008
def R.PWR_DOM_STAT_OUT_MW : RField := ⟨R.PWR_DOM_STAT, 63, 48⟩
def R.PWR_DOM_STAT_REG_Y : RField := ⟨R.PWR_DOM_STAT, 25, 25⟩
def R.PWR_DOM_STAT_REG_X : RField := ⟨R.PWR_DOM_STAT, 24, 24⟩
def R.PWR_DOM_STAT_FAULT : RField := ⟨R.PWR_DOM_STAT, 23, 16⟩
def R.PWR_DOM_STAT_STATE : RField := ⟨R.PWR_DOM_STAT, 15, 0⟩
/-- PWR_STAMP_REQ (R494). -/
def R.PWR_STAMP_REQ : Nat := 0xF0010010
def R.PWR_STAMP_REQ_REL : RField := ⟨R.PWR_STAMP_REQ, 63, 63⟩
def R.PWR_STAMP_REQ_KIND : RField := ⟨R.PWR_STAMP_REQ, 59, 56⟩
def R.PWR_STAMP_REQ_TAG : RField := ⟨R.PWR_STAMP_REQ, 50, 48⟩
def R.PWR_STAMP_REQ_ARG : RField := ⟨R.PWR_STAMP_REQ, 33, 32⟩
/-- PWR_STAMP_GRANT (R494). -/
def R.PWR_STAMP_GRANT : Nat := 0xF0010018
def R.PWR_STAMP_GRANT_HEADROOM : RField := ⟨R.PWR_STAMP_GRANT, 63, 48⟩
def R.PWR_STAMP_GRANT_FHEAD : RField := ⟨R.PWR_STAMP_GRANT, 47, 32⟩
def R.PWR_STAMP_GRANT_HELD : RField := ⟨R.PWR_STAMP_GRANT, 23, 16⟩
def R.PWR_STAMP_GRANT_PEND : RField := ⟨R.PWR_STAMP_GRANT, 15, 8⟩
def R.PWR_STAMP_GRANT_WDRN : RField := ⟨R.PWR_STAMP_GRANT, 7, 0⟩
/-- PWR_BUDGET (R494). -/
def R.PWR_BUDGET : Nat := 0xF0010020
def R.PWR_BUDGET_NOM : RField := ⟨R.PWR_BUDGET, 55, 52⟩
def R.PWR_BUDGET_FIELD_LIMIT : RField := ⟨R.PWR_BUDGET, 31, 16⟩
def R.PWR_BUDGET_MOD_LIMIT : RField := ⟨R.PWR_BUDGET, 15, 0⟩
/-- PWR_SUPPLY (R494). -/
def R.PWR_SUPPLY : Nat := 0xF0010028
def R.PWR_SUPPLY_VIN : RField := ⟨R.PWR_SUPPLY, 51, 40⟩
def R.PWR_SUPPLY_CHARGE : RField := ⟨R.PWR_SUPPLY, 39, 32⟩
def R.PWR_SUPPLY_INT_CNT : RField := ⟨R.PWR_SUPPLY, 31, 16⟩
def R.PWR_SUPPLY_LOW90 : RField := ⟨R.PWR_SUPPLY, 4, 4⟩
def R.PWR_SUPPLY_OVER : RField := ⟨R.PWR_SUPPLY, 3, 3⟩
def R.PWR_SUPPLY_HOLD : RField := ⟨R.PWR_SUPPLY, 2, 2⟩
def R.PWR_SUPPLY_HOLDUP_OK : RField := ⟨R.PWR_SUPPLY, 1, 1⟩
def R.PWR_SUPPLY_INBAND : RField := ⟨R.PWR_SUPPLY, 0, 0⟩
/-- PWR_D0 (R494). -/
def R.PWR_D0 : Nat := 0xF0010030
def R.PWR_D0_PCYC : RField := ⟨R.PWR_D0, 63, 32⟩
def R.PWR_D0_OPMIN : RField := ⟨R.PWR_D0, 31, 0⟩
/-- PWR_RST (R494). -/
def R.PWR_RST : Nat := 0xF0010038
def R.PWR_RST_RST_CNT : RField := ⟨R.PWR_RST, 63, 48⟩
def R.PWR_RST_CELL_MV : RField := ⟨R.PWR_RST, 47, 32⟩
def R.PWR_RST_D0_RESTORED : RField := ⟨R.PWR_RST, 7, 7⟩
def R.PWR_RST_CELL_LOW : RField := ⟨R.PWR_RST, 6, 6⟩
def R.PWR_RST_HELD_LONG : RField := ⟨R.PWR_RST, 5, 5⟩
def R.PWR_RST_ORDERLY : RField := ⟨R.PWR_RST, 4, 4⟩
def R.PWR_RST_LEVEL : RField := ⟨R.PWR_RST, 0, 0⟩
/-- PWR_TEST (R261). -/
def R.PWR_TEST : Nat := 0xF001FFF0
def R.PWR_TEST_VALUE : RField := ⟨R.PWR_TEST, 63, 0⟩
/-- PWR_VW (R42). -/
def R.PWR_VW : Nat := 0xF001FFF8
def R.PWR_VW_LAST_OFF : RField := ⟨R.PWR_VW, 47, 32⟩
def R.PWR_VW_REFUSE_CNT : RField := ⟨R.PWR_VW, 23, 16⟩
def R.PWR_VW_LATE : RField := ⟨R.PWR_VW, 10, 8⟩
def R.PWR_VW_WROTE : RField := ⟨R.PWR_VW, 6, 4⟩
def R.PWR_VW_FAIL : RField := ⟨R.PWR_VW, 3, 3⟩
def R.PWR_VW_AGREE : RField := ⟨R.PWR_VW, 2, 0⟩
/-- BST_CTRL (R495). -/
def R.BST_CTRL : Nat := 0xF00F0000
def R.BST_CTRL_BLOCK : RField := ⟨R.BST_CTRL, 12, 8⟩
def R.BST_CTRL_FULL_NEXT : RField := ⟨R.BST_CTRL, 0, 0⟩
/-- BST_SIG (R495). -/
def R.BST_SIG : Nat := 0xF00F0008
def R.BST_SIG_SIG : RField := ⟨R.BST_SIG, 63, 0⟩
/-- BST_REF (R495). -/
def R.BST_REF : Nat := 0xF00F0010
def R.BST_REF_REF : RField := ⟨R.BST_REF, 63, 0⟩
/-- BST_RESULT (R495). -/
def R.BST_RESULT : Nat := 0xF00F0018
def R.BST_RESULT_SOURCE : RField := ⟨R.BST_RESULT, 63, 62⟩
def R.BST_RESULT_VALID : RField := ⟨R.BST_RESULT, 61, 61⟩
def R.BST_RESULT_RES : RField := ⟨R.BST_RESULT, 33, 0⟩
/-- BST_UNUSABLE (R495). -/
def R.BST_UNUSABLE : Nat := 0xF00F0020
def R.BST_UNUSABLE_UNUSABLE : RField := ⟨R.BST_UNUSABLE, 16, 0⟩
/-- UPD_CTRL (R521). -/
def R.UPD_CTRL : Nat := 0xF0100000
def R.UPD_CTRL_CMP_RS : RField := ⟨R.UPD_CTRL, 31, 24⟩
def R.UPD_CTRL_TIMEOUT : RField := ⟨R.UPD_CTRL, 15, 8⟩
def R.UPD_CTRL_ABORT : RField := ⟨R.UPD_CTRL, 2, 2⟩
def R.UPD_CTRL_COMMIT : RField := ⟨R.UPD_CTRL, 1, 1⟩
def R.UPD_CTRL_LOAD : RField := ⟨R.UPD_CTRL, 0, 0⟩
/-- UPD_STAT (R521). -/
def R.UPD_STAT : Nat := 0xF0100008
def R.UPD_STAT_CHECK : RField := ⟨R.UPD_STAT, 63, 56⟩
def R.UPD_STAT_KIND : RField := ⟨R.UPD_STAT, 55, 52⟩
def R.UPD_STAT_STAGE : RField := ⟨R.UPD_STAT, 51, 48⟩
def R.UPD_STAT_PAGE_ERR : RField := ⟨R.UPD_STAT, 47, 40⟩
def R.UPD_STAT_CMP_OK : RField := ⟨R.UPD_STAT, 39, 32⟩
/-- UPD_GUARD (R521). -/
def R.UPD_GUARD : Nat := 0xF0100010
def R.UPD_GUARD_GUARD : RField := ⟨R.UPD_GUARD, 7, 0⟩
/-- UPD_ACT_ID (R521). -/
def R.UPD_ACT_ID : Nat := 0xF0100018
def R.UPD_ACT_ID_IDENT : RField := ⟨R.UPD_ACT_ID, 63, 0⟩
/-- UPD_INA_ID (R521). -/
def R.UPD_INA_ID : Nat := 0xF0100020
def R.UPD_INA_ID_IDENT : RField := ⟨R.UPD_INA_ID, 63, 0⟩
/-- UPD_CHG (R521). -/
def R.UPD_CHG : Nat := 0xF0100028
def R.UPD_CHG_KC : RField := ⟨R.UPD_CHG, 63, 32⟩
def R.UPD_CHG_KX : RField := ⟨R.UPD_CHG, 31, 0⟩
/-- UPD_FMT (R521). -/
def R.UPD_FMT : Nat := 0xF0100030
def R.UPD_FMT_STN_MIN : RField := ⟨R.UPD_FMT, 63, 48⟩
def R.UPD_FMT_STN_MAX : RField := ⟨R.UPD_FMT, 47, 32⟩
def R.UPD_FMT_APP_MIN : RField := ⟨R.UPD_FMT, 31, 16⟩
def R.UPD_FMT_APP_MAX : RField := ⟨R.UPD_FMT, 15, 0⟩
/-- SEC_MBOX (R522). -/
def R.SEC_MBOX : Nat := 0xF0110000
def R.SEC_MBOX_CMD : RField := ⟨R.SEC_MBOX, 63, 56⟩
def R.SEC_MBOX_LEN : RField := ⟨R.SEC_MBOX, 47, 32⟩
def R.SEC_MBOX_ADDR : RField := ⟨R.SEC_MBOX, 23, 0⟩
/-- SEC_STAT (R522). -/
def R.SEC_STAT : Nat := 0xF0110008
def R.SEC_STAT_LAST_CMD : RField := ⟨R.SEC_STAT, 63, 56⟩
def R.SEC_STAT_RESULT : RField := ⟨R.SEC_STAT, 55, 48⟩
def R.SEC_STAT_RLEN : RField := ⟨R.SEC_STAT, 47, 32⟩
def R.SEC_STAT_TAMPER : RField := ⟨R.SEC_STAT, 7, 7⟩
def R.SEC_STAT_KEYS_ZERO : RField := ⟨R.SEC_STAT, 6, 6⟩
def R.SEC_STAT_OWNER_LOCK : RField := ⟨R.SEC_STAT, 5, 5⟩
def R.SEC_STAT_OWNED : RField := ⟨R.SEC_STAT, 4, 4⟩
def R.SEC_STAT_DONE : RField := ⟨R.SEC_STAT, 1, 1⟩
def R.SEC_STAT_BUSY : RField := ⟨R.SEC_STAT, 0, 0⟩
/-- LOG_CTRL (R552). -/
def R.LOG_CTRL : Nat := 0xF00D0000
def R.LOG_CTRL_COUNT : RField := ⟨R.LOG_CTRL, 43, 24⟩
def R.LOG_CTRL_ALARM_DROP : RField := ⟨R.LOG_CTRL, 23, 8⟩
def R.LOG_CTRL_FULL : RField := ⟨R.LOG_CTRL, 2, 2⟩
def R.LOG_CTRL_NEAR : RField := ⟨R.LOG_CTRL, 1, 1⟩
def R.LOG_CTRL_CLEAR : RField := ⟨R.LOG_CTRL, 0, 0⟩
/-- LOG_FREEZE (R552). -/
def R.LOG_FREEZE : Nat := 0xF00D0008
def R.LOG_FREEZE_FROZEN : RField := ⟨R.LOG_FREEZE, 63, 63⟩
def R.LOG_FREEZE_HELD : RField := ⟨R.LOG_FREEZE, 42, 32⟩
def R.LOG_FREEZE_FREEZE : RField := ⟨R.LOG_FREEZE, 8, 8⟩
def R.LOG_FREEZE_TMO : RField := ⟨R.LOG_FREEZE, 7, 0⟩
/-- LOG_CUR (R552). -/
def R.LOG_CUR : Nat := 0xF00D0010
def R.LOG_CUR_AUTO : RField := ⟨R.LOG_CUR, 63, 63⟩
def R.LOG_CUR_IDX : RField := ⟨R.LOG_CUR, 19, 0⟩
/-- LOG_RATE (R552). -/
def R.LOG_RATE : Nat := 0xF00D0018
def R.LOG_RATE_CODE : RField := ⟨R.LOG_RATE, 63, 48⟩
def R.LOG_RATE_LIMIT : RField := ⟨R.LOG_RATE, 47, 40⟩
def R.LOG_RATE_FIXED : RField := ⟨R.LOG_RATE, 39, 39⟩
def R.LOG_RATE_WR : RField := ⟨R.LOG_RATE, 38, 38⟩
def R.LOG_RATE_ALARM : RField := ⟨R.LOG_RATE, 37, 37⟩
def R.LOG_RATE_DEAD : RField := ⟨R.LOG_RATE, 31, 0⟩
/-- LOG_LOST (R552). -/
def R.LOG_LOST : Nat := 0xF00D0020
def R.LOG_LOST_FULL_LOST : RField := ⟨R.LOG_LOST, 63, 32⟩
def R.LOG_LOST_OVF_LOST : RField := ⟨R.LOG_LOST, 31, 16⟩
def R.LOG_LOST_LAST_CODE : RField := ⟨R.LOG_LOST, 15, 0⟩
/-- LOG_WINn (R552). -/
def R.LOG_WIN (n : Nat) : Nat := 0xF00D0040 + 8 * n
def R.LOG_WIN_DATA (n : Nat) : RField := ⟨R.LOG_WIN n, 63, 0⟩
/-- PMC_CNTn (R553). -/
def R.PMC_CNT (n : Nat) : Nat := 0xF00E0000 + 8 * n
def R.PMC_CNT_COUNT (n : Nat) : RField := ⟨R.PMC_CNT n, 47, 0⟩
/-- PMC_SELn (R553). -/
def R.PMC_SEL (n : Nat) : Nat := 0xF00E0100 + 8 * n
def R.PMC_SEL_EN (n : Nat) : RField := ⟨R.PMC_SEL n, 63, 63⟩
def R.PMC_SEL_CHAIN (n : Nat) : RField := ⟨R.PMC_SEL n, 62, 62⟩
def R.PMC_SEL_EVENT (n : Nat) : RField := ⟨R.PMC_SEL n, 9, 0⟩
/-- PMC_FILTn (R553). -/
def R.PMC_FILT (n : Nat) : Nat := 0xF00E0200 + 8 * n
def R.PMC_FILT_RANGE_EN (n : Nat) : RField := ⟨R.PMC_FILT n, 63, 63⟩
def R.PMC_FILT_LVL (n : Nat) : RField := ⟨R.PMC_FILT n, 62, 60⟩
def R.PMC_FILT_MASTER (n : Nat) : RField := ⟨R.PMC_FILT n, 58, 52⟩
def R.PMC_FILT_BASE (n : Nat) : RField := ⟨R.PMC_FILT n, 51, 32⟩
def R.PMC_FILT_LIMIT (n : Nat) : RField := ⟨R.PMC_FILT n, 31, 12⟩
/-- PMC_UAC (R553). -/
def R.PMC_UAC : Nat := 0xF00E0300
def R.PMC_UAC_OPEN : RField := ⟨R.PMC_UAC, 31, 0⟩
/-- PMC_OVF (R553). -/
def R.PMC_OVF : Nat := 0xF00E0308
def R.PMC_OVF_OVF : RField := ⟨R.PMC_OVF, 31, 0⟩
/-- CRC_CFGn (R554). -/
def R.CRC_CFG (n : Nat) : Nat := 0xF00A0000 + 8 * n
def R.CRC_CFG_EN (n : Nat) : RField := ⟨R.CRC_CFG n, 63, 63⟩
def R.CRC_CFG_ERR (n : Nat) : RField := ⟨R.CRC_CFG n, 62, 62⟩
def R.CRC_CFG_POLY (n : Nat) : RField := ⟨R.CRC_CFG n, 57, 56⟩
def R.CRC_CFG_INIT (n : Nat) : RField := ⟨R.CRC_CFG n, 55, 55⟩
/-- CRC_VALn (R554). -/
def R.CRC_VAL (n : Nat) : Nat := 0xF00A0040 + 8 * n
def R.CRC_VAL_VAL (n : Nat) : RField := ⟨R.CRC_VAL n, 63, 0⟩
/-- CRC_SRCn (R554). -/
def R.CRC_SRC (n : Nat) : Nat := 0xF00A0080 + 8 * n
def R.CRC_SRC_SEL (n : Nat) : RField := ⟨R.CRC_SRC n, 63, 60⟩
def R.CRC_SRC_BASE (n : Nat) : RField := ⟨R.CRC_SRC n, 59, 34⟩
def R.CRC_SRC_LIMIT (n : Nat) : RField := ⟨R.CRC_SRC n, 33, 8⟩
/-- CRC_OUTn (R554). -/
def R.CRC_OUT (n : Nat) : Nat := 0xF00A00C0 + 8 * n
def R.CRC_OUT_OUT (n : Nat) : RField := ⟨R.CRC_OUT n, 63, 0⟩
/-- TST_KEY (R555). -/
def R.TST_KEY : Nat := 0xF0120000
def R.TST_KEY_KEY : RField := ⟨R.TST_KEY, 63, 0⟩
/-- TST_DELAY (R555). -/
def R.TST_DELAY : Nat := 0xF0120008
def R.TST_DELAY_XLE : RField := ⟨R.TST_DELAY, 47, 32⟩
def R.TST_DELAY_DNR : RField := ⟨R.TST_DELAY, 15, 0⟩
/-- TST_BP (R555). -/
def R.TST_BP : Nat := 0xF0120010
def R.TST_BP_DRAM : RField := ⟨R.TST_BP, 47, 40⟩
def R.TST_BP_ENG : RField := ⟨R.TST_BP, 39, 32⟩
/-- TST_INJ (R555). -/
def R.TST_INJ : Nat := 0xF0120018
def R.TST_INJ_KIND : RField := ⟨R.TST_INJ, 63, 60⟩
def R.TST_INJ_SYMS : RField := ⟨R.TST_INJ, 59, 48⟩
def R.TST_INJ_PAT : RField := ⟨R.TST_INJ, 47, 40⟩
def R.TST_INJ_ADDR : RField := ⟨R.TST_INJ, 31, 3⟩
def R.TST_INJ_BIT3 : RField := ⟨R.TST_INJ, 13, 8⟩
def R.TST_INJ_CHAN3 : RField := ⟨R.TST_INJ, 7, 7⟩
def R.TST_INJ_POINT3 : RField := ⟨R.TST_INJ, 3, 0⟩
/-- TST_STAT (R555). -/
def R.TST_STAT : Nat := 0xF0120020
def R.TST_STAT_UNLOCKED : RField := ⟨R.TST_STAT, 7, 7⟩
def R.TST_STAT_LOCKOUT : RField := ⟨R.TST_STAT, 6, 6⟩
def R.TST_STAT_FAILS : RField := ⟨R.TST_STAT, 5, 4⟩
def R.TST_STAT_INJ_DONE : RField := ⟨R.TST_STAT, 3, 3⟩
/-- ARB_PRIO (R579). -/
def R.ARB_PRIO : Nat := 0xF0060000
def R.ARB_PRIO_AGE : RField := ⟨R.ARB_PRIO, 63, 48⟩
def R.ARB_PRIO_MAC : RField := ⟨R.ARB_PRIO, 20, 18⟩
def R.ARB_PRIO_XLE : RField := ⟨R.ARB_PRIO, 17, 15⟩
def R.ARB_PRIO_SCRUB_U : RField := ⟨R.ARB_PRIO, 14, 12⟩
def R.ARB_PRIO_CORE0 : RField := ⟨R.ARB_PRIO, 11, 9⟩
def R.ARB_PRIO_ENGINE : RField := ⟨R.ARB_PRIO, 8, 6⟩
def R.ARB_PRIO_CORE1 : RField := ⟨R.ARB_PRIO, 5, 3⟩
def R.ARB_PRIO_SCRUB_N : RField := ⟨R.ARB_PRIO, 2, 0⟩
/-- ARB_HOLDMAX (R579). -/
def R.ARB_HOLDMAX : Nat := 0xF0060008
def R.ARB_HOLDMAX_ENG : RField := ⟨R.ARB_HOLDMAX, 47, 32⟩
def R.ARB_HOLDMAX_DRAM : RField := ⟨R.ARB_HOLDMAX, 7, 0⟩
/-- ARB_FLAG (R579). -/
def R.ARB_FLAG : Nat := 0xF0060010
def R.ARB_FLAG_CUT_CNT : RField := ⟨R.ARB_FLAG, 23, 8⟩
def R.ARB_FLAG_CUT : RField := ⟨R.ARB_FLAG, 6, 0⟩
/-- ARB_PROGRESS (R579). -/
def R.ARB_PROGRESS : Nat := 0xF0060018
def R.ARB_PROGRESS_PROGRESS : RField := ⟨R.ARB_PROGRESS, 63, 0⟩
/-- SEM_LOCKn (R580). -/
def R.SEM_LOCK (n : Nat) : Nat := 0xF0140000 + 8 * n
def R.SEM_LOCK_OP (n : Nat) : RField := ⟨R.SEM_LOCK n, 63, 61⟩
def R.SEM_LOCK_DIRTY (n : Nat) : RField := ⟨R.SEM_LOCK n, 60, 60⟩
def R.SEM_LOCK_OWNER (n : Nat) : RField := ⟨R.SEM_LOCK n, 59, 57⟩
def R.SEM_LOCK_LVL (n : Nat) : RField := ⟨R.SEM_LOCK n, 56, 56⟩
def R.SEM_LOCK_TICKET (n : Nat) : RField := ⟨R.SEM_LOCK n, 47, 32⟩
def R.SEM_LOCK_LEASE (n : Nat) : RField := ⟨R.SEM_LOCK n, 31, 16⟩
def R.SEM_LOCK_LEFT (n : Nat) : RField := ⟨R.SEM_LOCK n, 15, 0⟩
/-- SEM_OWNER (R580). -/
def R.SEM_OWNER : Nat := 0xF0140200
def R.SEM_OWNER_HELD : RField := ⟨R.SEM_OWNER, 63, 0⟩
/-- SEM_DIRTY (R580). -/
def R.SEM_DIRTY : Nat := 0xF0140208
def R.SEM_DIRTY_DIRTY : RField := ⟨R.SEM_DIRTY, 63, 0⟩
/-- SEM_CLAIM (R580). -/
def R.SEM_CLAIM : Nat := 0xF0140300
def R.SEM_CLAIM_OP : RField := ⟨R.SEM_CLAIM, 63, 63⟩
def R.SEM_CLAIM_RESULT : RField := ⟨R.SEM_CLAIM, 55, 48⟩
def R.SEM_CLAIM_FEAT : RField := ⟨R.SEM_CLAIM, 47, 40⟩
def R.SEM_CLAIM_RES : RField := ⟨R.SEM_CLAIM, 39, 24⟩
def R.SEM_CLAIM_RANGE : RField := ⟨R.SEM_CLAIM, 23, 0⟩

def regRows0 : List RegRow := [
  ⟨0xF0000000, 1, .u, .k, false, 0x0, 0x0, 0x0, 0x0, 0x0, 0xFFFFFFFC, 0xFFFFFFFF00000003, 0xCB73000000000001⟩,
  ⟨0xF0000008, 1, .u, .k, false, 0x0, 0x0, 0x0, 0x0, 0x0, 0x0, 0xFFFFFFFFFFFFFFFF, 0x0⟩,
  ⟨0xF0000010, 1, .u, .k, false, 0x0, 0x0, 0x0, 0x0, 0x0, 0xFFFFFFFFFFFFFFFC, 0x0, 0x0⟩,
  ⟨0xF0000018, 1, .u, .k, false, 0x0, 0x0, 0x0, 0x0, 0x0, 0xFFFFFFFFFFFFF0C3, 0xF3C, 0x200⟩,
  ⟨0xF0000020, 1, .u, .k, false, 0x0, 0x0, 0x0, 0x0, 0x0, 0xFFFFFFFFFFFF0000, 0xFFFF, 0x0⟩,
  ⟨0xF0020000, 1, .s, .k, false, 0xF, 0x10, 0x0, 0x0, 0x0, 0xFFFFFFFFFFFFFFE0, 0x0, 0xE⟩,
  ⟨0xF0020008, 1, .s, .s, false, 0x0, 0x0, 0xC000000, 0xFFFF000000000000, 0x0, 0xFFFFF00C800E, 0x0, 0x0⟩,
  ⟨0xF0020010, 1, .s, .s, false, 0x0, 0x0, 0x0, 0x0, 0x0, 0x0, 0x0, 0x0⟩,
  ⟨0xF0020018, 1, .s, .k, false, 0xFFF001FF, 0x0, 0x0, 0x0, 0x0, 0xFFFFFFFF000FFE00, 0x0, 0x0⟩,
  ⟨0xF0020020, 1, .s, .s, false, 0x0, 0x0, 0x0, 0xFFFFFFFFFFFFFFFF, 0x0, 0x0, 0x0, 0x0⟩,
  ⟨0xF0020028, 1, .s, .s, false, 0x0, 0x0, 0x0, 0x1FFF0000, 0x0, 0xFFFFFFFFE000E000, 0x0, 0x0⟩,
  ⟨0xF0020030, 1, .s, .k, false, 0x0, 0x0, 0x0, 0x0, 0xFFFF0001, 0xFFFFFFFF0000FFFE, 0x0, 0x0⟩,
  ⟨0xF0020100, 16, .s, .s, false, 0x800000001FFFFFFF, 0x0, 0x0, 0x0, 0x0, 0x7FFFFFFFE0000000, 0x0, 0x0⟩,
  ⟨0xF0130000, 1, .s, .k, false, 0x7F, 0x0, 0x0, 0x0, 0x0, 0xFFFFFFFFFFFFFF80, 0x0, 0xA⟩,
  ⟨0xF0130008, 1, .s, .s, false, 0x0, 0x0, 0x0, 0x0, 0x0, 0x0, 0xFFFFFFFFFFFFFFFF, 0x0⟩,
  ⟨0xF0130010, 1, .s, .s, false, 0x0, 0x0, 0x800000000000, 0x0, 0x0, 0xFFFF18FF00000000, 0x6700FFFFFFFF, 0x0⟩,
  ⟨0xF0130018, 1, .s, .s, false, 0x0, 0x0, 0x0, 0xFFFF000000000000, 0x0, 0x0, 0xFFFFFFFFFFFF, 0x0⟩,
  ⟨0xF0130020, 1, .s, .k, false, 0x3FFFF0001FF, 0x0, 0x0, 0x0, 0x0, 0xFFFFFC0000FFFE00, 0x0, 0x0⟩,
  ⟨0xF0130028, 1, .s, .s, false, 0x0, 0x0, 0x0, 0xFFFFFFFFFFFFFFFF, 0x0, 0x0, 0x0, 0x0⟩,
  ⟨0xF0130100, 16, .s, .k, false, 0x8000000F007F7F00, 0x0, 0x0, 0x0, 0x0, 0x7FFFFFF0FF8080FF, 0x0, 0x0⟩,
  ⟨0xF0030000, 1, .s, .k, false, 0x0, 0x0, 0x0, 0x0, 0x0, 0x0, 0x0, 0x0⟩,
  ⟨0xF0030008, 1, .s, .k, false, 0x0, 0x0, 0x0, 0x0, 0x0, 0x0, 0x0, 0x0⟩,
  ⟨0xF0030010, 1, .s, .k, false, 0x0, 0x0, 0x0, 0x0, 0x0, 0x3F0000F888, 0xFFFFFFC0FFFF0770, 0x0⟩,
  ⟨0xF0030018, 1, .s, .k, false, 0x0, 0x0, 0x3FFF7, 0x0, 0x0, 0xF0FF0000FFFC0008, 0x0, 0xFFFF00000000⟩,
  ⟨0xF0030020, 1, .s, .k, false, 0x3FBF, 0x0, 0x0, 0x0, 0x0, 0xFFFFFFFF07FFC040, 0x0, 0x0⟩,
  ⟨0xF0030028, 1, .s, .k, false, 0x8F00000000FF0000, 0x0, 0x0, 0x0, 0x0, 0x70FFFFFFFF00FFFF, 0x0, 0x0⟩,
  ⟨0xF0030030, 1, .s, .k, false, 0x0, 0x0, 0x0, 0x0, 0x0, 0x0, 0x0, 0x0⟩,
  ⟨0xF0030038, 1, .s, .k, false, 0x0, 0x0, 0x0, 0x0, 0x0, 0x0, 0x0, 0x0⟩,
  ⟨0xF0040000, 1, .s, .k, false, 0x0, 0x7, 0x0, 0x0, 0x0, 0xFFFFFFFFFFFFFFF8, 0x0, 0x0⟩,
  ⟨0xF0040008, 1, .s, .k, false, 0x0, 0x0, 0x4000, 0xFFFF000000000000, 0x0, 0xFFFF188C, 0x8700, 0x0⟩,
  ⟨0xF0040010, 1, .s, .k, false, 0x0, 0x0, 0x0, 0x0, 0x0, 0xF8FF, 0x0, 0x0⟩,
  ⟨0xF0050000, 1, .k, .k, false, 0x0, 0x0, 0xF, 0xFFFFFFFFFFFFFF00, 0x0, 0xE0, 0x0, 0x0⟩,
  ⟨0xF0050008, 1, .k, .k, false, 0x0, 0x0, 0x0, 0xFFFF0000FFFFFFF8, 0x0, 0xFFFF00000007, 0x0, 0x0⟩,
  ⟨0xF0050010, 1, .k, .k, false, 0x3FF, 0x0, 0x0, 0x0, 0x0, 0xFFFFFFFFFFFFFC00, 0x0, 0x12C⟩,
  ⟨0xF0050018, 1, .k, .k, false, 0x0, 0x0, 0x0, 0x0, 0x0, 0xFF, 0x0, 0x4000000000000000⟩,
  ⟨0xF0050020, 1, .k, .k, false, 0x0, 0x0, 0x0, 0x0, 0x0, 0xFFFFFFFFF, 0x0, 0x0⟩,
  ⟨0xF0050028, 1, .k, .k, false, 0x3F, 0x0, 0x0, 0xFFFF0000, 0x0, 0xFFC0, 0x0, 0x0⟩,
  ⟨0xF0050030, 1, .k, .k, false, 0x0, 0x0, 0x0, 0x0, 0x0, 0xFFFFFFF00000000, 0x0, 0x0⟩,
  ⟨0xF0050038, 1, .k, .k, false, 0x0, 0x0, 0x0, 0x0, 0x0, 0x1FFF00000000FFFF, 0x0, 0x0⟩,
  ⟨0xF0070000, 1, .s, .k, false, 0xFF0017, 0x0, 0x0, 0x0, 0x0, 0xFFFFFFFFFF00FFE8, 0x0, 0x30000⟩]

def regRows1 : List RegRow := [
  ⟨0xF0070008, 1, .s, .k, false, 0x0, 0x0, 0x0, 0x0, 0x0, 0xF000, 0xFF000FFF, 0x0⟩,
  ⟨0xF0070010, 1, .s, .k, false, 0xB00, 0x0, 0x0, 0x0, 0x0, 0xFFFFF40C, 0xFFFFFFFF000000F3, 0x0⟩,
  ⟨0xF0070018, 1, .s, .k, false, 0x0, 0xC000000000000000, 0x0, 0x0, 0x0, 0x3FFC0FFFFFFFF, 0x3FFC003F00000000, 0x0⟩,
  ⟨0xF0070020, 1, .s, .k, false, 0x0, 0x0, 0x0, 0x0, 0xFFF00001FFF, 0xFFFFF000FFFFE000, 0x0, 0x0⟩,
  ⟨0xF0070028, 1, .s, .k, false, 0x0, 0x0, 0x0, 0x0, 0x0, 0xFFFFFC00, 0xFFFFFFFF00000000, 0x0⟩,
  ⟨0xF0070030, 1, .s, .k, false, 0xDFFF, 0x0, 0x0, 0x0, 0x0, 0xFFFFFFFFFFFF2000, 0x0, 0x0⟩,
  ⟨0xF0070038, 1, .s, .k, false, 0xFFFFFFFFFFFFFFFF, 0x0, 0x0, 0x0, 0x0, 0x0, 0x0, 0x0⟩,
  ⟨0xF0070040, 4, .s, .k, false, 0x0, 0x0, 0x0, 0x0, 0x0, 0x0, 0x0, 0x0⟩,
  ⟨0xF0080000, 1, .s, .k, true, 0xFFF00F, 0x0, 0x0, 0x0, 0x0, 0xFFFFFFFFFF000FF0, 0xFFF00F, 0x0⟩,
  ⟨0xF0080008, 1, .s, .k, true, 0x0, 0x0, 0x0, 0x0, 0x0, 0xE00FFFFFF, 0xFFFFFFF1FF000000, 0x0⟩,
  ⟨0xF0080010, 1, .s, .k, true, 0x3FF000003FF, 0x0, 0x0, 0x0, 0x0, 0xFFFFFC00FFFFFC00, 0x3FF000003FF, 0x19000000190⟩,
  ⟨0xF0080018, 1, .s, .k, true, 0x3, 0x0, 0x0, 0x0, 0x0, 0xFFFFFFFFFFFFFFFC, 0x3, 0x0⟩,
  ⟨0xF0080020, 1, .s, .k, true, 0x0, 0xFFFFFFFFFFFFFFFF, 0x0, 0x0, 0x0, 0x0, 0xFFFFFFFFFFFFFFFF, 0x0⟩,
  ⟨0xF0080040, 4, .s, .k, true, 0x0, 0x0, 0x0, 0x0, 0x0, 0x0, 0xFFFFFFFFFFFFFFFF, 0x0⟩,
  ⟨0xF0080100, 18, .s, .k, true, 0xFF00, 0x0, 0x0, 0x0, 0x0, 0xFFFFFFFFFFFF00FF, 0xFF00, 0x0⟩,
  ⟨0xF0080200, 18, .s, .k, true, 0x0, 0x0, 0x0, 0x0, 0x0, 0xFF00F10F, 0xFFFFFFFF00FF0EF0, 0x0⟩,
  ⟨0xF008FFF0, 1, .s, .k, true, 0xFFFFFFFFFFFFFFFF, 0x0, 0x0, 0x0, 0x0, 0x0, 0xFFFFFFFFFFFFFFFF, 0x0⟩,
  ⟨0xF008FFF8, 1, .s, .k, true, 0x0, 0x0, 0x0, 0xFF0000, 0x0, 0xFFFF0000FF00F880, 0xFFFF00FF077F, 0x0⟩,
  ⟨0xF0090000, 1, .u, .k, false, 0x0, 0x0, 0x0, 0x0, 0x0, 0x0, 0x0, 0x0⟩,
  ⟨0xF0090008, 1, .u, .k, false, 0x0, 0x0, 0x1000, 0x0, 0x0, 0xE0DC, 0xF00, 0x3⟩,
  ⟨0xF0090010, 1, .u, .k, false, 0x3, 0x0, 0x0, 0x0, 0x0, 0xF000F000FFFFFFFC, 0xFFF0FFF00000000, 0x0⟩,
  ⟨0xF0090018, 1, .u, .k, false, 0x0, 0x0, 0x0, 0x0, 0x0, 0x0, 0x0, 0x0⟩,
  ⟨0xF0090020, 1, .u, .k, false, 0xFFFF00FF01FF001F, 0x0, 0x0, 0x0, 0x0, 0xFF00FE00FFE0, 0x0, 0x640000⟩,
  ⟨0xF0090028, 1, .u, .k, false, 0xFFFFFFFFFFFFFFFF, 0x0, 0x0, 0x0, 0x0, 0x0, 0x0, 0x0⟩,
  ⟨0xF0090030, 1, .u, .k, false, 0x0, 0x0, 0x0, 0x0, 0x0, 0x0, 0xFFFFFFFFFFFFFFFF, 0x0⟩,
  ⟨0xF0090100, 18, .u, .k, false, 0x0, 0x0, 0x0, 0xFFFF00000000, 0x0, 0x7FFF0000FFFF0000, 0x800000000000FFFF, 0x0⟩,
  ⟨0xF00C0000, 1, .s, .k, true, 0x1, 0xC, 0x0, 0x0, 0x0, 0xFFFFFFFFFFFFFFF2, 0xD, 0x0⟩,
  ⟨0xF00C0008, 1, .s, .k, true, 0x0, 0x0, 0x0, 0x0, 0x0, 0xF00FE0F0C0, 0xFFFFFF0FF01F0F3F, 0x0⟩,
  ⟨0xF00C0010, 1, .s, .k, true, 0xFF, 0x0, 0x0, 0x0, 0x0, 0xFFFFFFFFFFFFFF00, 0xFF, 0x18⟩,
  ⟨0xF00C0018, 1, .s, .k, true, 0x0, 0x0, 0x0, 0xFFFFFFFFFFFF0000, 0x0, 0xFF00, 0xFFFFFFFFFFFF00FF, 0x0⟩,
  ⟨0xF00C0020, 1, .s, .k, true, 0x0, 0x0, 0x0, 0x0, 0x0, 0x3FFFE, 0xFFFFFFFFFFFC0001, 0x0⟩,
  ⟨0xF00CFFF0, 1, .s, .k, true, 0xFFFFFFFFFFFFFFFF, 0x0, 0x0, 0x0, 0x0, 0x0, 0xFFFFFFFFFFFFFFFF, 0x0⟩,
  ⟨0xF00CFFF8, 1, .s, .k, true, 0x0, 0x0, 0x0, 0xFF0000, 0x0, 0xFFFF0000FF00F880, 0xFFFF00FF077F, 0x0⟩,
  ⟨0xF00B0000, 1, .s, .s, false, 0x0, 0x0, 0x0, 0x0, 0x0, 0xFFFF000000000000, 0x0, 0x0⟩,
  ⟨0xF00B0008, 1, .s, .s, false, 0x0, 0x0, 0x0, 0x0, 0x0, 0xFFFF000000000000, 0x0, 0xFFFFFFFFFFFF⟩,
  ⟨0xF00B0010, 1, .s, .s, true, 0x7FFFFFF, 0x7FFFFFF00000000, 0x0, 0x0, 0x0, 0xF8000000F8000000, 0x7FFFFFF07FFFFFF, 0x0⟩,
  ⟨0xF00B0018, 1, .s, .s, false, 0x7FFFFFF, 0x7FFFFFF00000000, 0x0, 0x0, 0x0, 0xF8000000F8000000, 0x0, 0x0⟩,
  ⟨0xF00B0020, 1, .s, .s, false, 0x0, 0x0, 0x0, 0x0, 0x0, 0xF801000000000000, 0x7FEFFFFFFFFFFFF, 0x0⟩,
  ⟨0xF00B0028, 1, .s, .k, true, 0x800003FF01FF003F, 0x0, 0x0, 0x0, 0x0, 0x7FFFFC00FE00FFC0, 0x800003FF01FF003F, 0x8000032000C8001E⟩,
  ⟨0xF00B0030, 1, .s, .k, false, 0x1FF00000000, 0x0, 0x0, 0x0, 0x0, 0xFFFFFE00FFFFF000, 0xFFF, 0x6400000000⟩]

def regRows2 : List RegRow := [
  ⟨0xF00B0038, 1, .s, .s, false, 0x0, 0x0, 0x0, 0x0, 0x0, 0xFFFFFFFFFC00E3F8, 0x0, 0x0⟩,
  ⟨0xF00B0040, 1, .s, .s, false, 0x0, 0x0, 0x0, 0xFFFFFFFF00000000, 0x0, 0xFFFE, 0x0, 0x0⟩,
  ⟨0xF00B0100, 48, .s, .k, false, 0x1FFFF, 0x0, 0x0, 0x0, 0x0, 0xFFFFFFFFFFFE0000, 0x0, 0x11388⟩,
  ⟨0x1F00B0200, 27, .s, .k, false, 0x0, 0x8000000000000000, 0x0, 0x0, 0x0, 0x7FFF00FC0000FFF0, 0xFF03FFFF000F, 0x0⟩,
  ⟨0xF00BFFF0, 1, .s, .s, true, 0xFFFFFFFFFFFFFFFF, 0x0, 0x0, 0x0, 0x0, 0x0, 0xFFFFFFFFFFFFFFFF, 0x0⟩,
  ⟨0xF00BFFF8, 1, .s, .s, true, 0x0, 0x0, 0x0, 0xFF0000, 0x0, 0xFFFF0000FF00F880, 0xFFFF00FF077F, 0x0⟩,
  ⟨0xF0010000, 1, .s, .k, true, 0xFC, 0x30000, 0x0, 0x0, 0x0, 0xFFFFFFFFFFFCFF03, 0x300FC, 0x0⟩,
  ⟨0xF0010008, 1, .s, .k, false, 0x0, 0x0, 0x0, 0x0, 0x0, 0xFFFFFC000000, 0xFFFF000003FFFFFF, 0x0⟩,
  ⟨0xF0010010, 1, .s, .s, false, 0x0, 0x8F07000300000000, 0x0, 0x0, 0x0, 0x70F8FFFCFFFFFFFF, 0x0, 0x0⟩,
  ⟨0xF0010018, 1, .s, .k, false, 0x0, 0x0, 0x0, 0xFF, 0x0, 0xFF000000, 0x0, 0x0⟩,
  ⟨0xF0010020, 1, .s, .k, true, 0xF00000FFFFFFFF, 0x0, 0x0, 0x0, 0x0, 0xFF0FFFFF00000000, 0xF00000FFFFFFFF, 0xEA60F0A0⟩,
  ⟨0xF0010028, 1, .s, .k, false, 0x0, 0x0, 0x0, 0xFFFF0000, 0x0, 0xFFF000000000FFE0, 0xFFFFF0000001F, 0x0⟩,
  ⟨0xF0010030, 1, .s, .k, false, 0x0, 0x0, 0x0, 0x0, 0x0, 0x0, 0xFFFFFFFFFFFFFFFF, 0x0⟩,
  ⟨0xF0010038, 1, .s, .k, false, 0x0, 0x0, 0x20, 0x0, 0x0, 0xFFFFFF0E, 0xFFFFFFFF000000D1, 0x0⟩,
  ⟨0xF001FFF0, 1, .s, .k, true, 0xFFFFFFFFFFFFFFFF, 0x0, 0x0, 0x0, 0x0, 0x0, 0xFFFFFFFFFFFFFFFF, 0x0⟩,
  ⟨0xF001FFF8, 1, .s, .k, true, 0x0, 0x0, 0x0, 0xFF0000, 0x0, 0xFFFF0000FF00F880, 0xFFFF00FF077F, 0x0⟩,
  ⟨0xF00F0000, 1, .k, .k, false, 0x1F01, 0x0, 0x0, 0x0, 0x0, 0xFFFFFFFFFFFFE0FE, 0x1, 0x0⟩,
  ⟨0xF00F0008, 1, .k, .k, false, 0x0, 0x0, 0x0, 0x0, 0x0, 0x0, 0x0, 0x0⟩,
  ⟨0xF00F0010, 1, .k, .k, false, 0x0, 0x0, 0x0, 0x0, 0x0, 0x0, 0x0, 0x0⟩,
  ⟨0xF00F0018, 1, .k, .k, false, 0x0, 0x0, 0x0, 0x0, 0x0, 0x1FFFFFFC00000000, 0xE0000003FFFFFFFF, 0x0⟩,
  ⟨0xF00F0020, 1, .k, .k, false, 0x0, 0x0, 0x0, 0x0, 0x0, 0xFFFFFFFFFFFE0000, 0x1FFFF, 0x0⟩,
  ⟨0xF0100000, 1, .k, .k, false, 0xFF00FF00, 0x7, 0x0, 0x0, 0x0, 0xFFFFFFFF00FF00F8, 0x0, 0x8003C00⟩,
  ⟨0xF0100008, 1, .k, .k, false, 0x0, 0x0, 0x0, 0xFF0000000000, 0x0, 0xFFFFFFFF, 0xFFFF00FF00000000, 0x0⟩,
  ⟨0xF0100010, 1, .k, .k, false, 0x0, 0x0, 0x0, 0x0, 0x0, 0xFFFFFFFFFFFFFF00, 0xFF, 0x0⟩,
  ⟨0xF0100018, 1, .k, .k, false, 0x0, 0x0, 0x0, 0x0, 0x0, 0x0, 0x0, 0x0⟩,
  ⟨0xF0100020, 1, .k, .k, false, 0x0, 0x0, 0x0, 0x0, 0x0, 0x0, 0x0, 0x0⟩,
  ⟨0xF0100028, 1, .k, .k, false, 0x0, 0x0, 0x0, 0x0, 0x0, 0x0, 0xFFFFFFFFFFFFFFFF, 0x0⟩,
  ⟨0xF0100030, 1, .k, .k, false, 0x0, 0x0, 0x0, 0x0, 0x0, 0x0, 0xFFFFFFFFFFFFFFFF, 0x1000100010001⟩,
  ⟨0xF0110000, 1, .k, .k, false, 0x0, 0xFF00FFFF00FFFFFF, 0x0, 0x0, 0x0, 0xFF0000FF000000, 0x0, 0x0⟩,
  ⟨0xF0110008, 1, .k, .k, false, 0x0, 0x0, 0x0, 0x0, 0x0, 0xFFFFFF0C, 0xF0, 0x0⟩,
  ⟨0xF00D0000, 1, .s, .k, false, 0x0, 0x1, 0x0, 0xFFFF00, 0x0, 0xFFFFF000000000F8, 0xFFFFF000006, 0x0⟩,
  ⟨0xF00D0008, 1, .s, .k, false, 0x1FF, 0x0, 0x0, 0x0, 0x0, 0x7FFFF800FFFFFE00, 0x800007FF00000000, 0xA⟩,
  ⟨0xF00D0010, 1, .s, .k, false, 0x80000000000FFFFF, 0x0, 0x0, 0x0, 0x0, 0x7FFFFFFFFFF00000, 0x0, 0x0⟩,
  ⟨0xF00D0018, 1, .s, .k, false, 0xFFFFFF2000000000, 0x4000000000, 0x0, 0x0, 0x0, 0x1F00000000, 0x0, 0xA0000000000⟩,
  ⟨0xF00D0020, 1, .s, .k, false, 0x0, 0x0, 0x0, 0x0, 0x0, 0x0, 0xFFFFFFFFFFFFFFFF, 0x0⟩,
  ⟨0xF00D0040, 8, .s, .k, false, 0x0, 0x0, 0x0, 0x0, 0x0, 0x0, 0x0, 0x0⟩,
  ⟨0xF00E0000, 32, .k, .k, false, 0xFFFFFFFFFFFF, 0x0, 0x0, 0x0, 0x0, 0xFFFF000000000000, 0x0, 0x0⟩,
  ⟨0xF00E0100, 32, .k, .k, false, 0xC0000000000003FF, 0x0, 0x0, 0x0, 0x0, 0x3FFFFFFFFFFFFC00, 0x0, 0x0⟩,
  ⟨0xF00E0200, 32, .k, .k, false, 0xF7FFFFFFFFFFF000, 0x0, 0x0, 0x0, 0x0, 0x800000000000FFF, 0x0, 0x77F0000000000000⟩,
  ⟨0xF00E0300, 1, .k, .k, false, 0xFFFFFFFF, 0x0, 0x0, 0x0, 0x0, 0xFFFFFFFF00000000, 0x0, 0x0⟩]

def regRows3 : List RegRow := [
  ⟨0xF00E0308, 1, .k, .k, false, 0x0, 0x0, 0xFFFFFFFF, 0x0, 0x0, 0xFFFFFFFF00000000, 0x0, 0x0⟩,
  ⟨0xF00A0000, 8, .s, .s, false, 0x8300000000000000, 0x80000000000000, 0x4000000000000000, 0x0, 0x0, 0x3C7FFFFFFFFFFFFF, 0x0, 0x0⟩,
  ⟨0xF00A0040, 8, .s, .s, false, 0xFFFFFFFFFFFFFFFF, 0x0, 0x0, 0x0, 0x0, 0x0, 0x0, 0x0⟩,
  ⟨0xF00A0080, 8, .s, .s, false, 0xFFFFFFFFFFFFFF00, 0x0, 0x0, 0x0, 0x0, 0xFF, 0x0, 0x0⟩,
  ⟨0xF00A00C0, 8, .s, .s, false, 0x0, 0x0, 0x0, 0x0, 0x0, 0x0, 0x0, 0x0⟩,
  ⟨0xF0120000, 1, .k, .k, false, 0xFFFFFFFFFFFFFFFF, 0x0, 0x0, 0x0, 0x0, 0x0, 0x0, 0x0⟩,
  ⟨0xF0120008, 1, .k, .k, false, 0xFFFF0000FFFF, 0x0, 0x0, 0x0, 0x0, 0xFFFF0000FFFF0000, 0x0, 0x0⟩,
  ⟨0xF0120010, 1, .k, .k, false, 0xFFFF00000000, 0x0, 0x0, 0x0, 0x0, 0xFFFF0000FFFFFFFF, 0x0, 0x0⟩,
  ⟨0xF0120018, 1, .k, .k, false, 0x0, 0xFFFFFF00FFFFFFFF, 0x0, 0x0, 0x0, 0x0, 0x0, 0x0⟩,
  ⟨0xF0120020, 1, .k, .k, false, 0x0, 0x0, 0x0, 0x0, 0x0, 0xFFFFFFFFFFFFFF07, 0xF0, 0x0⟩,
  ⟨0xF0060000, 1, .s, .k, false, 0xFFFF0000001FFFFF, 0x0, 0x0, 0x0, 0x0, 0xFFFFFFE00000, 0x0, 0x1F58D1⟩,
  ⟨0xF0060008, 1, .s, .k, false, 0xFFFF000000FF, 0x0, 0x0, 0x0, 0x0, 0xFFFF0000FFFFFF00, 0x0, 0xFA00000000A⟩,
  ⟨0xF0060010, 1, .s, .k, false, 0x0, 0x0, 0x7F, 0xFFFF00, 0x0, 0xFFFFFFFFFF000080, 0x0, 0x0⟩,
  ⟨0xF0060018, 1, .s, .k, false, 0x0, 0x0, 0x0, 0x0, 0x0, 0x0, 0x0, 0x0⟩,
  ⟨0xF0140000, 64, .s, .s, false, 0xFFFF00000000, 0xE0000000FFFF0000, 0x0, 0x0, 0x0, 0xFF000000000000, 0x0, 0x0⟩,
  ⟨0xF0140200, 1, .s, .s, false, 0x0, 0x0, 0x0, 0x0, 0x0, 0x0, 0x0, 0x0⟩,
  ⟨0xF0140208, 1, .s, .s, false, 0x0, 0x0, 0x0, 0x0, 0x0, 0x0, 0x0, 0x0⟩,
  ⟨0xF0140300, 1, .s, .k, false, 0xFFFFFFFFFFFF, 0x8000000000000000, 0x0, 0x0, 0x0, 0x7F00000000000000, 0x0, 0x0⟩]

/-- The register map: every register of every block, in the manual's order (R31 and the chapters' tables). -/
def regRows : List RegRow :=
  regRows0 ++ regRows1 ++ regRows2 ++ regRows3

/-- The row whose register lies at an address, if one does (R29: an unused offset has none). -/
def rowOf (a : Nat) : Option RegRow :=
  regRows.find? fun r => decide (r.base ≤ a) && decide (a < r.base + 8 * r.n) && decide ((a - r.base) % 8 = 0)

/-- The reset value of the register at an address. -/
def resetOf (a : Nat) : Word :=
  match rowOf a with
  | some r => BitVec.ofNat 64 r.reset
  | none => 0

/-- Mask of the bits of a field. -/
def RField.mask (f : RField) : Nat := (2 ^ (f.hi + 1 - f.lo) - 1) <<< f.lo

/-- Whether the field's one home is the module. -/
def RField.inModule (f : RField) : Bool :=
  match rowOf f.addr with
  | some r => r.mod &&& f.mask == f.mask
  | none => false

/-- The value of a field in a register word. -/
def RField.of (f : RField) (w : Word) : Nat := (w.toNat >>> f.lo) % 2 ^ (f.hi + 1 - f.lo)

/-- A register word with the field replaced by a value, taken modulo the field's width. -/
def RField.put (f : RField) (w : Word) (v : Nat) : Word :=
  (w &&& ~~~(BitVec.ofNat 64 f.mask)) ||| BitVec.ofNat 64 ((v % 2 ^ (f.hi + 1 - f.lo)) <<< f.lo)

/-- The largest value the field holds. -/
def RField.max (f : RField) : Nat := 2 ^ (f.hi + 1 - f.lo) - 1

end Sys2Proof.Machine
end

