-- ==== Sys2Proof/Machine/State.lean ====
section
/-! DEFINITION. State.lean: the machine's state as plain data, the reasons a step can stop, and the state after reset.
A register has one home: a register of one lane in that lane's `regs`, a shared register and a value that every lane
shows alike in `modRegs`. Both are sorted lists of (address, value) that list no register equal to its reset value. -/
namespace Sys2Proof.Machine

/-! ## Control cores (chapter 02) -/

/-- What a core waits for (R83). -/
inductive Wait where
  | none | wfi
  | ewait (gd : GReg) (ticket : Word)
deriving DecidableEq, Repr

structure Core where
  /-- g0–g31; entry 0 stays zero (R47, R48); reset 0 -/
  gpr : Vector Word 32
  /-- program counter (R47); reset DESIGN CHOICE 0, log entry 2 -/
  pc : Word
  /-- program status word (R53); reset 0x2 (R48) -/
  psw : Word
  /-- EPC (R53); reset DESIGN CHOICE 0, log entry 2 -/
  epc : Word
  /-- EPSW (R53); reset DESIGN CHOICE 0, log entry 2 -/
  epsw : Word
  /-- ECAUSE (R53, R55); reset 0 -/
  ecause : Word
  /-- EADDR (R53); reset DESIGN CHOICE 0, log entry 2 -/
  eaddr : Word
  /-- KVEC (R53); reset DESIGN CHOICE 0, log entry 2 -/
  kvec : Word
  /-- IMASK (R53); reset DESIGN CHOICE 0, log entry 2 -/
  imask : Word
  /-- IPEND (R53, R80); reset DESIGN CHOICE 0, log entry 2 -/
  ipend : Word
  /-- CYC (R53), core clocks since reset; reset 0 -/
  cyc : Word
  /-- KSCR0–KSCR3 (R53); reset DESIGN CHOICE 0, log entry 2 -/
  kscr : Vector Word 4
  /-- RGN_B0–RGN_B15 (R53, R56); reset 0 -/
  rgnB : Vector Word 16
  /-- RGN_L0–RGN_L15 (R53, R56); reset 0 -/
  rgnL : Vector Word 16
  /-- reservation of LL, the address or none (R65); reset none -/
  resv : Option Word
  /-- what the core waits for (R83); reset running -/
  wait : Wait
deriving DecidableEq, Repr

/-! ## Route engine (chapters 02 to 04) -/

/-- The pass kinds (R86). -/
inductive PassKind where
  | plain | coded | look
deriving DecidableEq, Repr

/-- A copied pass descriptor (R86, R87). -/
structure Desc where
  prio : Nat
  task : Nat
  kindRaw : Nat
  logicBase : Nat
  logicEnd : Nat
  stateBase : Nat
  dsig : Nat
  sealOut : Nat
  hintOut : Nat
  /-- whether every reserved bit of the descriptor was zero (R86) -/
  reservedOk : Bool
deriving DecidableEq, Repr

/-- The seal accumulator (R231). -/
structure SealAcc where
  wcrc : Word
  wpos : Nat
  nwin : Nat
  sacc : Word
  nres : Nat
deriving DecidableEq, Repr

/-- A value in the engine: the plain value or the coded word, with the signature that reads it (R96, R103). -/
structure Val where
  raw : Word
  sig : Nat
deriving DecidableEq, Repr

/-- A held-post entry: the word written (EXP and MODE cleared), its value, and whether it is null (R146). -/
structure Entry where
  ref : Ref
  val : Val
  plain : Nat
  null : Bool
deriving DecidableEq, Repr

/-- The opcodes of R116. -/
inductive Op where
  | mov | ldi | add | sub | not | sel | all | any | conf | flank | flreq | lock | unlock | route | rrel | tmr | edge
  | carry | seal | skipf | skipt | endp
deriving DecidableEq, Repr

/-- A decoded logic instruction (R113): opcode, IMM20, DST and slots. -/
structure LogicIns where
  op : Op
  imm : Nat
  dst : Ref
  slots : List Ref
deriving DecidableEq, Repr

/-- An instruction in the window: its word offset and size, its entries, its folds (SEAL), a deferred error (R150),
the outcome predicted and found of a skip (R139, R143), and the offsets of the skips it depends on. -/
structure Held where
  off : Nat
  size : Nat
  ins : LogicIns
  entries : List Entry
  folds : List (Ref × Nat)
  reads : List Ref
  err : Option Nat
  predicted : Bool
  taken : Bool
  guards : List Nat
deriving DecidableEq, Repr

/-- What a pass that has started holds: progress, temporaries, written map, seal (R96, R108, R166, R231). -/
structure Run where
  /-- word offset of the oldest uncommitted instruction (R166) -/
  off : Nat
  /-- uncommitted evaluated instructions in stream order (the window and the held post) -/
  window : List Held
  /-- committed temporaries, by number -/
  temps : List (Nat × Val)
  /-- words written in this pass (R108) -/
  written : List Ref
  acc : SealAcc
  /-- bank of the pass (R155) -/
  bank : Bool
  dprev : Nat
  /-- logic words streamed (R179) -/
  streamed : Nat
  /-- index entries done of a look-ahead pass (R159) -/
  idone : Nat
  /-- hint entries written (R159) -/
  nhints : Nat
  /-- header of a look-ahead pass (R159): INDEX_BASE, BUDGET, COUNT -/
  look : Nat × Nat × Nat
deriving DecidableEq, Repr

/-- Where a held pass stands. -/
inductive Phase where
  | waiting
  | running (r : Run)
  | preempted (slot : Option Nat) (r : Run)
deriving DecidableEq, Repr

/-- A pass held in the engine queue (R87). -/
structure Pass where
  ticket : Word
  core : CoreId
  desc : Desc
  seq : Nat
  raised : Nat
  phase : Phase
deriving DecidableEq, Repr

/-- A hint of the hint table (R159, R161). -/
structure Hint where
  segOff : Nat
  nskip : Nat
  skips : List Nat
  known : Nat
  taken : Nat
  fltLo : Word
  fltHi : Word
deriving DecidableEq, Repr

structure Engine where
  /-- descriptors held, at most four, in submission order (R87); reset empty -/
  queue : List Pass
  /-- final statuses not yet returned by EWAIT or EPOLL (R88); reset empty -/
  results : List (Word × Nat)
  /-- count of submitted passes, 16 bits (R88); reset 0 -/
  submitted : Nat
  /-- bank bit of each task (R155); reset 0 -/
  bank : Vector Bool 16
  /-- predictor: entries whose value is EXECUTE; every other entry is BYPASS (R141); reset empty -/
  execPred : List Nat
  /-- hint table (R161); reset empty -/
  hints : List Hint
  /-- task the hints belong to (R161); reset none -/
  hintTask : Option Nat
  /-- hint area of the look-ahead pass that gave the hints (R161); reset 0 -/
  hintArea : Nat
  /-- a plain pass has used the hints, which serve one plain and one coded pass (R161); reset false -/
  hintUsed : Bool
  /-- hint area of each task's last look-ahead pass: task and address (R159, R204); reset empty -/
  areas : List (Nat × Nat)
  /-- context slots in use (R166); reset none -/
  slots : Vector Bool 3
deriving DecidableEq, Repr

/-! ## Lane -/

/-- A seal record (R233). -/
structure SealRec where
  status : Nat
  kind : Nat
  task : Nat
  dsig : Nat
  acc : SealAcc
  final : Word
deriving DecidableEq, Repr

/-- What CMP knows of one task in the round set: ended passes, the record sent (CLASS and V) and whether it counts. -/
structure LaneTask where
  plain : Option SealRec
  coded : Option SealRec
  sent : Option (Nat × Word × Nat)
  counted : Bool
  /-- the passes belong to an overrun cycle (R214) -/
  ovr : Bool
deriving DecidableEq, Repr

/-- A record that a lane sends on the XLE (R239); CHK is the CRC-32C of its first 24 bytes. -/
structure XleRec where
  rs : Nat
  /-- 1 seal, 2 outcome, 3 config -/
  type : Nat
  task : Nat
  prob : Bool
  ovr : Bool
  cls : Nat
  pstat : Nat
  qstat : Nat
  w1 : Word
  w2 : Word
deriving DecidableEq, Repr

/-- A frame of a gather set: ingress slot, postmark, CRC-32C of the frame, channel, port, node and payload (R197, R199, R383). -/
structure GFrame where
  slot : Nat
  postmark : Nat
  crc : Nat
  wan : Bool
  chanY : Bool
  port : Nat
  node : Nat
  len : Nat
  payload : List Nat
deriving DecidableEq, Repr

/-- A copy of a frame as a star core delivers it to the lanes: the slot in which it arrived, the frame, whether it arrived whole with
a good FCS, whether it is marked truncated, and its postmark and port (R43, R305, R335, R345). -/
structure RxCopy where
  slot : Nat
  frame : Frame
  complete : Bool
  truncated : Bool
  postmark : Nat
  port : Nat
deriving DecidableEq, Repr

/-- A frame that a star core sends on: slot, sender, the CORR of its copies (0 but for SYNC), the ports, whether the copies end with an
error symbol, and the instant of the SFD in the core's time (R303, R316, R318, R352). -/
structure StarTx where
  slot : Nat
  node : Nat
  corr : Nat
  ports : List Nat
  ended : Bool
  sfd : Int
deriving DecidableEq, Repr

/-- A sample of one uplink page: page, DATA bits and sample instant (R434, R435). -/
structure PageSample where
  page : Nat
  data : Nat
  inst : Nat
deriving DecidableEq, Repr

/-- Steering of a unit's clock (R354): running rate correction, phase correction still owed, and the slew of this round, each in
0.01 ppb (over one round, 1 ns is 100,000 of them). -/
structure Steer where
  rate : Int
  owed : Int
  slew : Int
deriving DecidableEq, Repr

/-- A mailbox command that D7 works on (R522): command, buffer, and the result and response it will give. -/
structure Mbox where
  cmd : Nat
  addr : Nat
  result : Nat
  response : List Nat
deriving DecidableEq, Repr

/-- A granted claim (R573): feature, resource, first and last address page, default claim. -/
structure ClaimRow where
  feature : Nat
  resource : Nat
  first : Nat
  last : Nat
  dflt : Bool
deriving DecidableEq, Repr

structure LaneState where
  /-- control core 0 (R47) -/
  core0 : Core
  /-- control core 1 (R47) -/
  core1 : Core
  /-- cores released at KVEC and not stopped (R48, R81); reset false -/
  running : Bool
  /-- SRAM and DRAM data bytes (R28); an unlisted address reads 0, the fill (R280) -/
  mem : List Host.Cell
  /-- check bytes, four for each word: byte j of the word at address a is entry 4·(a/8) + j (R274); unlisted 0 -/
  chk : List Host.Cell
  /-- lane-local registers that differ from their reset value (R31) -/
  regs : List (Nat × Word)
  /-- route engine (chapter 04) -/
  eng : Engine
  /-- steering of the lane's clock (R354, R358); reset 0 -/
  steer : Steer
  /-- receive queues of the two channels' MACs, oldest first (R24, R43); reset empty -/
  rx : PerChan (List RxCopy)
  /-- frames kept for the gather set being filled (R197, R335); reset empty -/
  inbox : List GFrame
  /-- closed gather set (R197); reset empty -/
  gather : List GFrame
  /-- newest uplink samples, per page (R198); reset empty -/
  samples : List PageSample
  /-- samples used at this sorting (R198); reset empty -/
  used : List PageSample
  /-- offsets of the other lanes' boundaries in this round set, by lane code (R188); reset empty -/
  offsets : List (Nat × Int)
  /-- consecutive sortings out of step (R188); reset 0 -/
  stepRun : Nat
  /-- consecutive divergences per field input (R202): input, agreed value, count; reset empty -/
  diverge : List (Nat × Tri × Nat)
  /-- consecutive CFGCHK mismatches (R436); reset 0 -/
  cfgBad : Nat
  /-- seal outcomes of the round set per task (R235); reset empty -/
  tasks : Vector LaneTask 16
  /-- U application running (R85); reset false -/
  uApp : Bool
  /-- close marker sent (R191); reset false -/
  closed : Bool
  /-- pending voted values, by register address (R34); reset empty -/
  pend : List (Nat × Word)
  /-- pending guardian stream, oldest first (R342); reset empty -/
  stream : List Word
  /-- mailbox command in progress (R522); reset none -/
  mbox : Option Mbox
  /-- consecutive failures of CHK of one record, per sending lane code (R240); reset empty -/
  chkFails : List (Nat × Nat)
  /-- latched record of LOG_WIN (R534); reset empty, which reads zero -/
  logWin : List Nat
  /-- DRAM grant holder (R556); reset none -/
  grant : Option Requester
  /-- requester that revoked the grant and waits (R558); reset none -/
  revoked : Option Requester
  /-- requests that stand and wait for the channel, the scrubber's with its regime (R559); reset empty -/
  waiting : List (Requester × Bool)
  /-- corrections by scrub: memory, row, pass (0 the current one, 1 an earlier one), word (R293); reset empty -/
  scrubHits : List (Nat × Nat × Nat × Nat)
  /-- cluster time at which the current DRAM scrub pass began, ns (R300); reset 0 -/
  scrubFrom : Nat
  /-- halt request this lane holds (R265); reset false -/
  haltReq : Bool
  /-- resume request this lane holds (R267); reset false -/
  resumeReq : Bool
  /-- shadow of the configuration registers (R263); reset empty, which stands for the reset values -/
  shadow : List (Nat × Word)
  /-- schedule tables 0–3 of the lane (R311); reset empty -/
  sched : Vector (List Word) 4
  /-- damage that waits for the next word on a path (R277); reset empty -/
  bus : List BusHit
  /-- round in which the last DRAM scrub burst ran, in ms of the lane's clock (R291); reset none -/
  burstIn : Option Nat
  /-- an injection at a comparator point is armed (R548) or (R261): point, bit, channel; reset none -/
  inject : Option (Nat × Nat × Bool)
  /-- an injection written to TST_INJ for the next round set (R548): point, bit, channel; reset none -/
  injectNext : Option (Nat × Nat × Bool)
  /-- accepted TSK_RSET and TSK_CFGt writes that take effect at the next boundary (R230); reset empty -/
  tskPend : List (Nat × Word)
  /-- WL registers that have been written since the lane's reset (R15); reset empty -/
  locked : List Nat
  /-- clear request of LOG_CTRL.CLEAR in this round set (R529); reset false -/
  clearReq : Bool
  /-- claim table (R573); reset empty -/
  claims : List ClaimRow
  /-- identity of the station image in this lane's active slot, as the update engine records it (R253); reset 0, no image -/
  imageId : Word
  /-- records sent on the XLE in this round set, in order (R239); reset empty -/
  records : List XleRec
  /-- shadow of the guardian tables (R263); reset empty -/
  shadowTab : Vector (List Word) 4
deriving DecidableEq, Repr

/-! ## Module-level state -/

/-- An injection test of STARTING that has run (R261, R262): point, lane code, channel Y, and whether it was caught. -/
structure InjRun where
  point : Nat
  lane : Nat
  chanY : Bool
  caught : Bool
deriving DecidableEq, Repr

/-- The kind of the current round set (R184, R186, R222, R266, R359). -/
inductive RsKind where
  | test | normal | conversion | step | halted
deriving DecidableEq, Repr

structure Cycle where
  /-- whether boundary markers run (R35); reset false -/
  active : Bool
  /-- kind of the current round set; reset normal -/
  kind : RsKind
  /-- test number kt of a test round set (R186); reset 0 -/
  kt : Nat
  /-- nominal boundary of the round set in cluster time, ns (R187, R376); reset 0 -/
  b : Nat
  /-- boundary of the round set before, ns (R197); reset 0 -/
  bPrev : Nat
  /-- rounds begun since the boundary (R184); reset 0 -/
  rounds : Nat
  /-- phases done in this round set, one bit each (R189, R190); reset 0 -/
  phase : Nat
  /-- agreed frame set (R200); reset empty -/
  agreed : List GFrame
  /-- agreed field inputs, by field input number (R201); reset UNKNOWN -/
  inputs : List Tri
  /-- previous agreed field inputs (R201); reset empty -/
  prev : List Tri
  /-- agreed sample instant (R203), ns; reset 0 -/
  inst : Nat
  /-- VF values exchanged at sorting, in 0.1 V, per lane (R447, R608); reset 0 -/
  vf : PerLane Nat
  /-- sag latches exchanged at sorting, per lane (R447); reset false -/
  sag : PerLane Bool
  /-- CFGCHK exchanged at sorting per lane (R436, R608); reset 0 -/
  cfgchk : PerLane Nat
  /-- force entries that apply: table position, words 0 and 1 (R219); reset empty -/
  forces : List (Nat × Word × Word)
  /-- force entries that two or more lanes of the vote set sent alike at the exchange (R219); reset empty -/
  forceRead : List (Nat × Word × Word)
  /-- consecutive round sets in which one of two lanes measured the other beyond the skew limit (R188); reset 0 -/
  farRun : Nat
  /-- tasks skipped in this round set under R215, as a mask; reset 0 -/
  skipped : Nat
  /-- lanes whose held flag kept them from a task: lane code and task (R215); reset empty -/
  heldFlags : List (Nat × Nat)
  /-- mapped words posted at the last sorting: task, word, code (R204); reset empty -/
  posted : List (Nat × Ref × Nat)
  /-- tasks with a voted value in this round set, as a mask (R243); reset 0 -/
  voted : Nat
  /-- voted V of each task (R243, R407); reset 0 -/
  vseal : Vector Word 16
  /-- tasks that overran in this round set, as a mask (R212); reset 0 -/
  overran : Nat
  /-- tasks whose overrun would bring CONSEC to 3 (R216), as a mask; reset 0 -/
  third : Nat
  /-- lanes named in this round set, as a lane mask (R246); reset 0 -/
  named : Nat
  /-- lanes isolated in this round set before the dispatch start (R253); reset 0 -/
  isolated : Nat
  /-- export area of each task: word and value (R209); reset empty -/
  exports : List (Nat × Ref × Nat)
  /-- content of each outbound connection's last dispatch: conn, DATA, POSTMARK, WDRAWN (R213, R379); reset empty -/
  lastSent : List (Nat × List Nat × Nat × Bool)
  /-- tasks whose control word is TRUE in the next posting, as a mask (R208); reset 0 -/
  firstRun : Nat
  /-- telegrams queued for dispatch: conn, category, bytes 0x00–0x5B (R378); reset empty -/
  queue : List (Nat × Nat × List Nat)
  /-- category 2 telegrams placed in pigeonholes of this round set (R378); reset 0 -/
  sentCount : Nat
  /-- copy of a lane in progress or to be repeated: lane and source lane (R253); reset none -/
  copy : Option (Lane × Lane)
  /-- isolation times per lane: operating minutes (R258); reset empty -/
  isoTimes : PerLane (List Nat)
  /-- lane whose copy is good, which is in PROBATION from the next boundary (R256); reset none -/
  prob : Option Lane
  /-- failed condition of R256 in this probation round set, as DATA of 0x4004 gives it, 0 for none; reset 0 -/
  probBad : Nat
  /-- shared blocks that differ from their shadow: base address and stage, 1 rewrite due, 2 rewritten, 3 failed (R264); reset
  empty -/
  cfgFail : List (Nat × Nat)
  /-- what the config records of all lanes of the vote set asked: to enter a halt (true) or to end it (R265, R267);
  reset none -/
  haltAsk : Option Bool
  /-- a verified commissioning command waits: enter (true) or leave (R480); reset none -/
  commCmd : Option Bool
  /-- the first round set after a halt, in which no control word is TRUE (R267); reset false -/
  afterHalt : Bool
  /-- the module has been in COMMISSIONING and its exit has not been acted on yet (R11); reset false -/
  comm : Bool
  /-- tasks whose last due round set ended in a fresh dispatch, as a mask (R223); reset 0 -/
  fresh : Nat
  /-- tasks on whose seals the lanes' values differed in this round set, as a mask (R234, R270); reset 0 -/
  sealOff : Nat
  /-- lanes whose canaries gave a wrong result in this round set, as a mask (R239, R260); reset 0 -/
  canary : Nat
  /-- lanes held out until reset, as a mask (R242, R253, R258); reset 0 -/
  heldOut : Nat
  /-- injection tests that have run in this STARTING, oldest first (R261); reset empty -/
  injRuns : List InjRun
deriving DecidableEq, Repr

/-- A poste restante claim in a star core (R328, R330): slot, port, node, rounds since the last accepted CLAIM, and whether the
claimant has released it from the next round on. -/
structure PrClaim where
  slot : Nat
  port : Nat
  node : Nat
  idle : Nat
  released : Bool
deriving DecidableEq, Repr

/-- The delay measurement of one port (R347 to R349). -/
structure LinkMeas where
  /-- send instant of an open request -/
  t1 : Option Nat
  /-- valid measurements, newest first, at most eight, in half ns (t4 − t1 − 2000) -/
  good : List Nat
  /-- round starts since the last valid measurement, up to 9 -/
  bad : Nat
  /-- instant at which a response to the other end's request was placed (R348) -/
  answer : Option Nat
deriving DecidableEq, Repr

/-- One star core (R43, R301). -/
structure StarCore where
  /-- guardian schedule tables 0–3 (R311, R342); reset empty -/
  tables : Vector (List Word) 4
  /-- leader as this core sees it (R323); reset 0 -/
  leader : Nat
  /-- twin admitted in slot 1 (R327); reset 0 -/
  twin : Nat
  /-- start of round 0 of this core's time base, ns (R323); reset 0 -/
  epoch : Int
  /-- current cluster round in this core (R307); reset 0 -/
  round : Nat
  /-- rounds since the cold start accepted here, while below 8 (R317); reset 8 -/
  coldRounds : Nat
  /-- round starts since the last SYNC or COLD in slot 0 or slot 1 (R325); reset 0 -/
  noSync : Nat
  /-- COLD frame being forwarded in LISTEN started at this tick (R323); reset none -/
  coldTick : Option (Nat × Nat)
  /-- poste restante claims (R328); reset empty -/
  claims : List PrClaim
  /-- claims as the frames from above show that the root accepted them, in a TIER core (R330); reset empty -/
  seen : List PrClaim
  /-- a claim of a free slot accepted at this tick: slot, tick, port (R328, R338); reset none -/
  claimTick : Option (Nat × Nat × Nat)
  /-- SYNC accepted in slot 0 and in slot 1 in this round (R327); reset false -/
  sync01 : Bool × Bool
  /-- consecutive rounds with slot 0 empty and slot 1 filled (R327); reset 0 -/
  slot0Empty : Nat
  /-- frames sent on in this round (R303, R316, R352); reset empty -/
  forwarded : List StarTx
  /-- frames delivered to the internal port in this round (R43, R305); reset empty -/
  inner : List RxCopy
  /-- ports that carried an SFD in this round (R319); reset empty -/
  sfd : List Nat
  /-- link measurements per port 0–8 (R347); reset none -/
  links : Vector LinkMeas 9
  /-- steering of the core's clock (R354); reset 0 -/
  steer : Steer
  /-- θ of domain 0 and domain 1 in this round, ns (R353, R356); reset none -/
  theta : Option Int × Option Int
  /-- pending schedule switch heard with CONF: NEXT and SWITCH_ROUND (R333); reset none -/
  switch : Option (Nat × Nat)
  /-- pending swap round (R327); reset none -/
  swap : Option Nat
deriving DecidableEq, Repr

structure Net where
  /-- star cores X and Y -/
  star : PerChan StarCore
  /-- rounds left in SILENT (R322); reset 0 -/
  silent : Nat
  /-- listen timer expiry instant known, ns (R321); reset none -/
  listen : Option Nat
  /-- rounds since the module's cold start (R322); reset 0 -/
  cold : Nat
  /-- consecutive rounds with COLD or SYNC while in LISTEN (R322); reset 0 -/
  heard : Nat
  /-- a COLD or SYNC was received in this round (R322); reset false -/
  heardNow : Bool
  /-- rounds of INTEG with timing taken (R322); reset 0 -/
  timing : Nat
  /-- round starts since the last SYNC per channel (R322, R336); reset 9 -/
  noSync : PerChan Nat
  /-- rounds since the module became ACTIVE, up to 8 (R322); reset 0 -/
  activeFor : Nat
  /-- consecutive own frames truncated per channel (R320); reset 0 -/
  trunc : PerChan Nat
  /-- an own frame was truncated in this round, and in the last round, per channel (R336); reset false -/
  truncNow : PerChan Bool
  /-- last round's value of truncNow (R336); reset false -/
  truncLast : PerChan Bool
  /-- channels left by R320: rounds of silence that remain; reset 0 -/
  quiet : PerChan Nat
  /-- SYNC accepted in slot 0 and slot 1 in this round (R327); reset false -/
  sync01 : Bool × Bool
  /-- consecutive rounds with slot 0 empty and slot 1 filled (R327); reset 0 -/
  slot0Empty : Nat
  /-- schedules requested in the current schedule cycle (R331); reset empty -/
  requests : List Nat
  /-- nodes heard in the current cycle (R332); reset empty -/
  members : List Nat
  /-- members of the cycle before the announcement, and which acknowledged (R332); reset empty -/
  acks : List (Nat × Bool)
  /-- schedule cycles since the announcement (R332); reset 0 -/
  annAge : Nat
  /-- role swap announced for this round (R327); reset none -/
  swapRound : Option Nat
  /-- claim map of the last MGMT frame: slots free (R329); reset empty -/
  freeSlots : List Nat
  /-- slots for which the module owes a CLAIM with RELEASE (R330); reset empty -/
  owes : List Nat
  /-- content fixed for the slot last started, which both channels carry (R335): round, slot, KIND, payload; reset none -/
  tx : Option (Nat × Nat × Nat × List Nat)
  /-- last frame that left on each channel (R44); reset none -/
  wire : PerChan (Option Frame)
  /-- its 134 bytes on the wire (R308); reset empty -/
  octets : PerChan (List Nat)
  /-- own slots in which a frame left in this round, per channel (R320); reset empty -/
  sent : PerChan (List Nat)
  /-- expiry instant of the listen timer at which this module's cold start began, ns (R321); reset 0 -/
  coldAt : Nat
deriving DecidableEq, Repr

structure Time where
  /-- cluster time T, ns: the latest instant known (R343); reset 0 -/
  now : Nat
  /-- Δ = mean of θ1 − θ0 over the last rounds (R356): samples, newest first; reset empty -/
  deltas : List Int
  /-- Δ in ns, as it stands and decays (R356, R357); reset 0 -/
  delta : Int
  /-- offset of the module's own time from the cluster's, as taken in INTEG or at cold start, ns (R354, R359); reset 0 -/
  lag : Int
  /-- round starts since the last SYNC of either domain (R358); reset 0 -/
  missed : Nat
  /-- EXTOFF, ns (R351); reset 0 -/
  extOff : Int
  /-- EXTRATE in 0.01 ppb (R351); reset 0 -/
  extRate : Int
  /-- RSTART of the last SYNC (R351); reset 0 -/
  rstart : Nat
  /-- T of the accepted PPS edges, newest first, at most 17 (R361, R362); reset empty -/
  edges : List Nat
  /-- consecutive edges at 1 s spacing after enable or loss (R361); reset 0 -/
  edgeRun : Nat
  /-- last edge seen, accepted or not (R361); reset none -/
  edgeLast : Option Nat
  /-- TAI of the next accepted edge (R362); reset none -/
  setTai : Option Nat
  /-- IEEE 1588 lock and the last offset TAI − T (R362, R364); reset none -/
  ptp : Option Int
  /-- seconds of hold started at T (R363); reset none -/
  holdFrom : Option Nat
  /-- PPS_OUT rises and falls at these T (R365); reset none -/
  ppsOut : Option (Nat × Nat)
  /-- step that the lanes make at the next boundary, ns (R359); reset 0 -/
  stepBy : Int
  /-- domain that the unit steered on in the last round: TIM_STAT.DOM codes (R357); reset 3 -/
  dom : Nat
  /-- holder of resource 0x0001 as applied at the last write close (R576): its feature, 0 for none; reset 0 -/
  pin : Nat
deriving DecidableEq, Repr

structure Conn where
  conn : Nat
  phase : ConnPhase
  seq : Nat
  tLast : Nat
  data : List Nat
  /-- a telegram was accepted in this gather set; bits 14:0 of its SCRC (R403) -/
  accepted : Option Nat
  /-- bytes 0x00–0x57 of the accepted telegram (R385) -/
  bytes : List Nat
  /-- a telegram failed check 7, 8 or 9 in this gather set (R387) -/
  failed : Bool
  /-- the state before this gather set, to which a withdrawal returns (R405); reset none -/
  before : Option (ConnPhase × Nat × Nat × List Nat × List Nat)
  /-- became RESTORING in this gather set (R393) -/
  fresh : Bool
deriving DecidableEq, Repr

structure Tele where
  /-- inbound connections (R394); reset empty, filled at the end of STARTING -/
  conns : List Conn
  /-- last EPOCH accepted per NODE (R385); reset empty -/
  epochs : List (Nat × Nat)
  /-- failed-check counts per check number (R384); reset empty -/
  fails : List (Nat × Nat)
  /-- duplicates discarded (R385); reset 0 -/
  dups : Nat
  /-- outbound connections withdrawn at the last dispatch (R391); reset empty -/
  withdrawn : List Nat
  /-- category 3 datagrams that left X13 in this round set: address, UDP port, 128 bytes (R378, R380); reset empty -/
  wanOut : List (Nat × Nat × List Nat)
deriving DecidableEq, Repr

structure Twin where
  /-- own input record handed over in this round set (R404); reset none -/
  sent : Option InputRec
  /-- twin's input record of this round set (R404); reset none -/
  got : Option InputRec
  /-- pair combination done with both records (R406); reset false -/
  paired : Bool
  /-- twin's input record of the previous round set came (R403, ALONE); reset false -/
  met : Bool
  /-- own compare record of this round set (R407); reset none -/
  own : Option CompareRec
  /-- twin's compare record of this round set (R408); reset none -/
  theirs : Option CompareRec
  /-- consecutive records missing while frames were seen (R409); reset 0 -/
  missRun : Nat
  /-- consecutive equal compare records (R414, R417); reset 0 -/
  equalRun : Nat
  /-- outcome that takes effect at the next boundary (R409); reset none -/
  outcome : Option Nat
  /-- operating minutes at which this module left (R411); reset empty -/
  leaves : List Nat
  /-- handover that left at the dispatch close of kc (R511, R512); reset none -/
  handover : Option HandoverRec
  /-- twin's HELLO last accepted (R400); reset none -/
  hello : Option Hello
  /-- tasks already transferred (R414); reset empty -/
  transferred : List Nat
  /-- operating minute of the last swap or pairing (R417); reset 0 -/
  since : Nat
  /-- swap requested or to be requested again (R417); reset false -/
  swapWanted : Bool
  /-- proofs of the new LEAD still open, by FN_FAIL bit (R418); reset empty -/
  proofs : List Nat
  /-- swaps suspended until reset by a failed proof (R419); reset false -/
  suspended : Bool
  /-- OUTREQ that an attaching module would have applied, which its compare records carry (R407, R414); reset 0 -/
  would : Nat
  /-- last HELLO of the twin showed COMMISSIONING (R480); reset false -/
  twinComm : Bool
  /-- cut-off notice handed to the twin link in this round set: k and the groups (R448); reset none -/
  notice : Option (Nat × Nat)
  /-- update record of the twin (R510); reset none -/
  upd : Option UpdRec
  /-- own update record of this round set (R510); reset none -/
  ownUpd : Option UpdRec
  /-- telegrams released in this round set: conn and bytes 0x00–0x57 (R408); reset empty -/
  released : List (Nat × List Nat)
  /-- transfer blocks handed to the twin link at the last dispatch close (R402, R414, R415); reset empty -/
  block : List Transfer
  /-- cluster time of the last frame from the twin on the twin link (R480); reset none -/
  lastFrame : Option Nat
  /-- runs without the twin link because block 14 is unusable (R481); reset false -/
  noLink : Bool
deriving DecidableEq, Repr

/-- A field-side controller (R427, R433). -/
structure Ctrl where
  /-- last good FSEQ and LSEQ; none before the first (R433); reset none -/
  last : Option (Nat × Nat)
  /-- candidate FSEQ and LSEQ of resynchronisation (R433); reset none -/
  cand : Option (Nat × Nat)
  /-- good frames still needed after a watchdog trip (R433); reset 2 -/
  need : Nat
  /-- link watchdog tripped (R433); reset true -/
  tripped : Bool
  /-- tripped since the last uplink frame (R434); reset false -/
  trippedRep : Bool
  /-- REQ of the last good frame (R431); reset 0 -/
  req : Nat
  /-- EN of the last good frame (R431); reset 0 -/
  en : Nat
  /-- SAFE of the last good frame (R431); reset false -/
  safe : Bool
  /-- dark pulse running: cell and branch (R442); reset none -/
  dark : Option (Nat × Nat)
  /-- result of the running dark pulse: cell, branch, failed; it counts when the dark-end frame comes (R443, R445); reset none -/
  pend : Option (Nat × Nat × Bool)
  /-- light pulse running: cell and position (R442); reset none -/
  light : Option (Nat × Nat)
  /-- sag latch (R451); reset false -/
  sag : Bool
  /-- values reported UNKNOWN by supply (R438); reset false -/
  unknown : Bool
  /-- field supply VF in 0.1 V; reset 240 DESIGN CHOICE, log entry 2 -/
  vf : Int
  /-- group supplies present, bit g; reset 0b111 DESIGN CHOICE, log entry 2 -/
  vg : Nat
  /-- debounced inputs 0–47, readbacks 48–74, feedback 75–80 (R437); reset UNKNOWN -/
  vals : List Tri
  /-- failed tests of each branch: bit 3·(3c + β) + t, t 0 a switch that stays closed, 1 the upper switch, 2 the lower
  switch that does not close (R443, R444); reset 0 -/
  faults : Nat
  /-- good frames in a row with REQ bit c zero, up to 50, which is 1 ms (R444); reset 0 -/
  restRun : List Nat
  /-- good frames in a row with VG_g present, up to 50 (R444); reset 0 -/
  vgRun : List Nat
  /-- switches opened by current limit: cell and branch (R429); reset empty -/
  limited : List (Nat × Nat)
  /-- page of the next uplink frame (R434); reset 0 -/
  page : Nat
  /-- configuration: channel and TYPE, debounce (R436); reset empty, which stands for the reset values -/
  cfg : List (Nat × Nat)
  /-- uplink frame sent in answer to the last good downlink frame (R434); reset none -/
  uplink : Option (BitVec 128)
deriving DecidableEq, Repr

structure Field where
  /-- field-side controllers FC-A, FC-B, FC-C -/
  ctrl : PerLane Ctrl
  /-- frame count FSEQ (R431); reset 0 -/
  fseq : Nat
  /-- lane sections sent, LSEQ per lane (R432); reset 0 -/
  lseq : PerLane Nat
  /-- RS of the lanes' last FIO_LEN change (R431); reset 0 -/
  lenRs : PerLane Nat
  /-- frames sent on the links in this slot (R430); reset none -/
  down : PerLane (Option (BitVec 128))
  /-- pulse running: dark, cell, position, discarded (R442, R445); reset none -/
  pulse : Option (Bool × Nat × Nat × Bool)
  /-- REQ bit withheld during a light pulse (R439); reset none -/
  withheld : Option (Nat × Bool)
  /-- pulse number within the test period, 27·j + c (R442); reset 0 -/
  next : Nat
  /-- configuration frames still to send: channel (R436); reset empty -/
  cfgOut : List Nat
  /-- dark-end frame due (R442); reset false -/
  darkEnd : Bool
  /-- a start of this pulse is due in the next frame (R442): kind and cell and position; reset none -/
  startDue : Option (Bool × Nat × Nat)
  /-- frames in a row with REQ bit c zero, up to 50, which is 1 ms (R444, R447); reset 0 -/
  restRun : List Nat
  /-- frames in a row with REQ bit c one, up to 50 (R447); reset 0 -/
  onRun : List Nat
  /-- cells of the last dispatch that energised exactly one cell (R447); reset none -/
  lone : Option Nat
  /-- readback HIGH counts with REQ 0: cell, consecutive sortings, partner (R447); reset empty -/
  rbHigh : List (Nat × Nat × Option Nat)
  /-- readback LOW counts with REQ 1 (R447); reset empty -/
  rbLow : List (Nat × Nat)
  /-- consecutive clean evaluations per cell (R449); reset empty -/
  clean : List (Nat × Nat)
  /-- groups cut off by own cells, bit g (R448); reset 0 -/
  cutOwn : Nat
  /-- groups cut off by notice, bit g (R448); reset 0 -/
  cutNotice : Nat
  /-- SETTLE has passed since the last change of CO_g, bit g (R450); reset 0 -/
  settled : Nat
  /-- consecutive mismatches and matches per group (R450); reset 0 -/
  fbRun : List (Nat × Nat × Nat)
  /-- field supply at sorting (R447): none in order; some 0 out of range; some (b + 1) in range again since the boundary b;
  reset none -/
  supplyOk : Option Nat
  /-- lanes whose sag latch was seen set at the last sorting, as a mask (R451); reset 0 -/
  sagSeen : Nat
deriving DecidableEq, Repr

/-- Where the module's supply stands above SYS_MODE (R459, R473). -/
inductive Supply where
  | off | standby | powerFail | resetHeld | on
deriving DecidableEq, Repr

/-- A pending or held stamp (R468 to R470): lane, tag, KIND, ARG, order of arrival. -/
structure Stamp where
  lane : Lane
  tag : Nat
  kind : Nat
  arg : Nat
  held : Bool
  order : Nat
deriving DecidableEq, Repr

structure Power where
  /-- OFF, STANDBY, power fail, held in reset, or running; reset on: State.reset is entry to STARTING (log entry 1) -/
  supply : Supply
  /-- SAFE latch of the power manager, D1 (R248); reset false -/
  safe1 : Bool
  /-- SAFE latch of the field interface, D6 (R248); reset false -/
  safe6 : Bool
  /-- next step of R475; reset 1 -/
  step : Nat
  /-- the start is a full start (R474); reset true -/
  full : Bool
  /-- RST_N low now, and time already low over 10 s (R488, R489); reset false -/
  rstLow : Bool
  /-- operating minutes of the last resets (R490); reset empty -/
  resets : List Nat
  /-- stamps (R468); reset empty -/
  stamps : List Stamp
  /-- stamps requested so far (R470); reset 0 -/
  order : Nat
  /-- orderly shutdown: 1 restart, 2 standby requested (R484); reset 0 -/
  shutdown : Nat
  /-- shutdown has begun and tests run (R485); reset false -/
  stopping : Bool
  /-- blocks whose failed test is being repeated (R483); reset empty -/
  retry : List Nat
  /-- self-test waits for its conditions (R482): block; reset none -/
  waiting : Option Nat
  /-- lamp-independent cause of the next start (R478); reset 0x0002 DESIGN CHOICE, log entry 2 -/
  cause : Nat
  /-- position coding read at entry to STARTING (R397, R594): TW_PA and TW_PB, true tied, false open, none in between; reset tied and
  open DESIGN CHOICE, log entry 2 -/
  pins : Option Bool × Option Bool
  /-- X and Y regulators of D5 on (R25); reset false -/
  d5 : Bool × Bool
  /-- Unowned or without image: SAFE-free stay in COMMISSIONING (R479); reset false -/
  bare : Bool
  /-- the lamp test runs (R600); reset true: State.reset is entry to STARTING (log entry 1) -/
  lampTest : Bool
deriving DecidableEq, Repr

/-- A record before SEQ and MAC (R524): CODE, FLAGS, PCYC, OPMIN, RS, T, DATA. -/
structure Rec where
  code : Nat
  flags : Nat
  pcyc : Nat
  opmin : Nat
  rs : Nat
  t : Nat
  data : List Nat
deriving DecidableEq, Repr

structure D0 where
  /-- ORDERLY: the last stop was an orderly shutdown that completed; cleared at each entry to STARTING (R465); reset false -/
  orderly : Bool
  /-- operating-time counter in minutes and power-cycle count have their home in PWR_D0; pending event records (R459, R465); reset empty -/
  pending : List Rec
  /-- repair candidates per lane: memory, cause, row (R293); reset empty -/
  cand : PerLane (List (Nat × Nat × Nat))
  /-- burnt SRAM fuse entries per lane: bank and row (R294); reset empty -/
  fuses : PerLane (List (Nat × Nat))
  /-- tamper event pending (R499); reset false -/
  tamper : Bool
  /-- signatures of the blocks' last tests (R481); reset empty -/
  sigs : List (Nat × Word)
deriving DecidableEq, Repr

structure Sec where
  /-- owner anchor key, none while unowned (R496); reset none -/
  anchor : Option Nat
  /-- connection keys: reference, key, previous key, ACT (R498); reset empty -/
  keys : List (Nat × Nat × Nat × Nat)
  /-- GEN of the last key package (R498); reset 0 -/
  gen : Nat
  /-- starts since that package (R382); reset 0 -/
  starts : Nat
  /-- EPOCH formed at this start, none where none is formed (R382); reset none -/
  epoch : Option Nat
  /-- fused minimum SECVER (R501); reset 0 DESIGN CHOICE, log entry 2 -/
  minSecver : Nat
  /-- Skefold key hash burnt into fuses (R500); reset 0 DESIGN CHOICE, log entry 2 -/
  skefold : Nat
  /-- active and inactive lane firmware (R505); reset none -/
  firmware : Option Image
  /-- inactive lane firmware slot; reset none -/
  firmwareIna : Option Image
  /-- lane firmware that runs, of either slot (R500); reset none -/
  booted : Option Image
  /-- inactive firmware slot holds an image to change over to (R516); reset false -/
  fwDue : Bool
  /-- copies of both counters in secure flash (R467): PCYC and OPMIN; reset 0 -/
  counters : Nat × Nat
  /-- TST_KEY challenge (R545); reset 0 DESIGN CHOICE, log entry 2 -/
  challenge : Word
  /-- identical writes of other lanes that take the outcome of a judged token value (R545); reset empty -/
  judged : List (Lane × Word)
  /-- diagnostic application running under this IDENT (R518); reset none -/
  app : Option Word
  /-- star firmware BODYHASH active per core (R502, R518); reset 0 -/
  starFw : PerChan Nat
deriving DecidableEq, Repr

structure Upd where
  /-- active station image (R506); reset none -/
  active : Option Image
  /-- inactive station image in flash (R506); reset none -/
  inactive : Option Image
  /-- lanes whose inactive DRAM copy is valid, as a mask (R507); reset 0 -/
  valid : Nat
  /-- owner's commit command agreed (R497, R511); reset false -/
  agreed : Bool
  /-- operating minute of the commit (R509); reset 0 -/
  since : Nat
  /-- READY of this module's update record (R511); reset false -/
  ready : Bool
  /-- conversion and change-over run alone (R515); reset false -/
  alone : Bool
  /-- the change-over of this module is S's (true) or L's (R511); reset false -/
  isS : Bool
  /-- S goes back to the old image at the next boundary (R513); reset false -/
  revert : Bool
deriving DecidableEq, Repr

/-- A submission of an event record to D7 (R526): submitting lane, SRC, CODE, RS, T, DATA. -/
structure Sub where
  lane : Nat
  src : Nat
  code : Nat
  rs : Nat
  t : Nat
  data : List Nat
deriving DecidableEq, Repr

/-- The non-safety settings record in secure flash (R517), its event rates apart. -/
structure Settings where
  /-- PMC_SELn, and PTP_DOM of TIM_PPS: lane code, register, value (R517); reset empty -/
  regs : List (Nat × Nat × Word)
  /-- a poste restante slot is claimed for DIAG traffic (R517); reset false -/
  slot : Bool
  /-- the claim that the record holds is still to be made after a start (R517); reset false -/
  again : Bool
deriving DecidableEq, Repr

structure Log where
  /-- records that a lane's firmware has yet to submit (R526), oldest first; reset empty -/
  outbox : List Sub
  /-- module submissions that wait for a match, with the round sets they have waited (R526); reset empty -/
  open_ : List (Sub × Nat)
  /-- matched submissions, whose further copies are discarded (R526); reset empty -/
  matched : List Sub
  /-- buffer of records to write, at most 4,096 (R527); reset empty -/
  buffer : List Rec
  /-- the store: records of 64 bytes in SEQ order (R528); reset empty -/
  store : List (List Nat)
  /-- MAC of the last record written (R525); reset 0 -/
  head : Nat
  /-- MAC of the record before SEQ 0, from which the chain of the store starts (R525); reset 0 -/
  chain0 : Nat
  /-- LIMIT and ALARM per code that differ from the defaults (R532, R605): code, LIMIT, ALARM; reset empty -/
  rates : List (Nat × Nat × Bool)
  /-- the rest of the non-safety settings record (R517); reset empty -/
  settings : Settings
  /-- window of 1 s that is being counted, in seconds of cluster time (R530); reset 0 -/
  winIdx : Nat
  /-- records per code in the window: code, count (R530); reset empty -/
  window : List (Nat × Nat)
  /-- dead letters of the window: code, count, T of the first and the last (R531); reset empty -/
  deadWin : List (Nat × Nat × Nat × Nat)
  /-- dead letters per code since the store was cleared (R531); reset empty -/
  dead : List (Nat × Nat)
  /-- cluster time at which the freeze began (R533); reset 0 -/
  frozenAt : Nat
  /-- an erase is running (R529); reset false -/
  erasing : Bool
  /-- records held while frozen or erasing (R533); reset empty -/
  held : List Rec
  /-- alarm entries of this round set: code, count, first DATA (R536); reset empty -/
  alarms : List (Nat × Nat × List Nat)
  /-- alarm queue: RS, code, count, DATA (R536); reset empty -/
  alarmQ : List (Nat × Nat × Nat × List Nat)
  /-- 0xD020 recorded in this round set (R536); reset false -/
  dropped : Bool
  /-- the store is closed by an orderly shutdown (R485); reset false -/
  closed : Bool
deriving DecidableEq, Repr

structure State where
  /-- the three lanes -/
  lanes : PerLane LaneState
  /-- shared registers and module-wide register fields that differ from their reset value (R31, R33) -/
  modRegs : List (Nat × Word)
  /-- the round set (chapters 05, 06) -/
  cyc : Cycle
  /-- Denras and the star cores (chapter 08) -/
  net : Net
  /-- time (chapter 09) -/
  time : Time
  /-- safe telegrams (chapter 10) -/
  tele : Tele
  /-- twin operation (chapter 11) -/
  twin : Twin
  /-- field interface (chapter 12) -/
  field : Field
  /-- power manager (chapter 13) -/
  power : Power
  /-- always-on domain (R465) -/
  d0 : D0
  /-- security element (chapter 14) -/
  sec : Sec
  /-- update engine (chapter 14) -/
  upd : Upd
  /-- event recorder (chapter 15) -/
  log : Log
  /-- the model's own: number of free values drawn; reset 0 DESIGN CHOICE, log entry 3 -/
  free : Nat
  /-- commands that wait, first in first out; reset empty -/
  pending : List Instr
deriving DecidableEq, Repr

/-- Why the machine stops with a fault. -/
inductive Fault where
  /-- Raised by the commands that bring a voltage from outside the module when it is beyond the absolute maximum
  ratings of R581, where no behaviour is specified. Safe: the model stops. -/
  | absoluteMaximum
deriving DecidableEq, Repr

/-- Why the model gives no meaning. -/
inductive Refusal where
  /-- A command that has no meaning yet; raised only by an arm of exec. Safe: the model stops. -/
  | notModelled (mnemonic : String)
deriving DecidableEq, Repr

/-! ## Reset -/

/-- A control core after reset (R48). -/
def resetCore : Core :=
  { gpr := Vector.replicate 32 0, pc := 0, psw := 2, epc := 0, epsw := 0, ecause := 0, eaddr := 0, kvec := 0, imask := 0
    ipend := 0, cyc := 0, kscr := Vector.replicate 4 0, rgnB := Vector.replicate 16 0, rgnL := Vector.replicate 16 0
    resv := none, wait := .none }

/-- The route engine after reset. -/
def resetEngine : Engine :=
  { queue := [], results := [], submitted := 0, bank := Vector.replicate 16 false, execPred := [], hints := []
    hintTask := none, hintArea := 0, hintUsed := false, areas := [], slots := Vector.replicate 3 false }

/-- No pass of the task has ended in this round set. -/
def resetTask : LaneTask := { plain := none, coded := none, sent := none, counted := false, ovr := false }

/-- A clock that is not steered (R354). -/
def resetSteer : Steer := { rate := 0, owed := 0, slew := 0 }

/-- A lane whose domain has just been switched on. -/
def resetLane : LaneState :=
  { core0 := resetCore, core1 := resetCore, running := false, mem := [], chk := [], regs := [], eng := resetEngine
    steer := resetSteer, rx := .all [], inbox := [], gather := [], samples := [], used := [], offsets := [], stepRun := 0, diverge := [], cfgBad := 0
    tasks := Vector.replicate 16 resetTask, uApp := false, closed := false, pend := [], stream := []
    mbox := none, chkFails := [], logWin := [], grant := none, revoked := none, waiting := [], scrubHits := [], scrubFrom := 0, haltReq := false
    resumeReq := false, shadow := [], sched := Vector.replicate 4 [], bus := [], burstIn := none, inject := none, injectNext := none
    tskPend := [], locked := [], clearReq := false, claims := [], imageId := 0, records := []
    shadowTab := Vector.replicate 4 [] }

/-- The round set before the first boundary marker. -/
def resetCycle : Cycle :=
  { active := false, kind := .normal, kt := 0, b := 0, bPrev := 0, rounds := 0, phase := 0, agreed := [], inputs := []
    prev := [], inst := 0, vf := .all 0, sag := .all false, cfgchk := .all 0, forces := [], forceRead := [], farRun := 0, skipped := 0, heldFlags := []
    posted := [], voted := 0, vseal := Vector.replicate 16 0, overran := 0, third := 0, named := 0, isolated := 0
    exports := [], lastSent := [], firstRun := 0, queue := [], sentCount := 0, copy := none, isoTimes := .all []
    prob := none, probBad := 0, cfgFail := [], haltAsk := none, commCmd := none, afterHalt := false, comm := false, fresh := 0, sealOff := 0, canary := 0
    heldOut := 0, injRuns := [] }

/-- A link without measurements. -/
def resetLink : LinkMeas := { t1 := none, good := [], bad := 9, answer := none }

/-- A star core that is OFF. -/
def resetStar : StarCore :=
  { tables := Vector.replicate 4 [], leader := 0, twin := 0, epoch := 0, round := 0, coldRounds := 8, noSync := 0
    coldTick := none, claims := [], seen := [], claimTick := none, sync01 := (false, false), slot0Empty := 0, forwarded := []
    inner := [], sfd := [], links := Vector.replicate 9 resetLink, steer := resetSteer, theta := (none, none)
    switch := none, swap := none }

/-- The protocol before it is enabled. -/
def resetNet : Net :=
  { star := .all resetStar, silent := 0, listen := none, cold := 0, heard := 0, heardNow := false, timing := 0
    noSync := .all 9, activeFor := 0, trunc := .all 0, truncNow := .all false, truncLast := .all false, quiet := .all 0
    sync01 := (false, false), slot0Empty := 0, requests := [], members := [], acks := [], annAge := 0, swapRound := none
    freeSlots := [], owes := [], tx := none, wire := .all none, octets := .all [], sent := .all [], coldAt := 0 }

/-- Time before the first round. -/
def resetTime : Time :=
  { now := 0, deltas := [], delta := 0, lag := 0, missed := 0, extOff := 0, extRate := 0, rstart := 0, edges := [], edgeRun := 0
    edgeLast := none, setTai := none, ptp := none, holdFrom := none, ppsOut := none, stepBy := 0, dom := 3, pin := 0 }

/-- No connection yet. -/
def resetTele : Tele := { conns := [], epochs := [], fails := [], dups := 0, withdrawn := [], wanOut := [] }

/-- No twin yet. -/
def resetTwin : Twin :=
  { sent := none, got := none, paired := false, met := false, own := none, theirs := none, missRun := 0, equalRun := 0
    outcome := none, leaves := [], handover := none, hello := none, transferred := [], since := 0, swapWanted := false, proofs := []
    suspended := false, would := 0, twinComm := false, notice := none, upd := none, ownUpd := none, released := [], block := [], lastFrame := none, noLink := false }

/-- A controller after its own reset: every switch open (R453). -/
def resetCtrl : Ctrl :=
  { last := none, cand := none, need := 2, tripped := true, trippedRep := false, req := 0, en := 0
    safe := false, dark := none, pend := none, light := none, sag := false, unknown := false, vf := 240, vg := 7
    vals := List.replicate 81 .unknown, faults := 0, restRun := List.replicate 27 0, vgRun := List.replicate 3 0, limited := [], page := 0, cfg := [], uplink := none }

/-- The field interface before its first frame. -/
def resetField : Field :=
  { ctrl := .all resetCtrl, fseq := 0, lseq := .all 0, lenRs := .all 0, down := .all none, pulse := none
    withheld := none, next := 0, cfgOut := [], darkEnd := false, startDue := none, restRun := List.replicate 27 0, onRun := List.replicate 27 0, lone := none
    rbHigh := [], rbLow := [], clean := [], cutOwn := 0, cutNotice := 0, settled := 0, fbRun := [], supplyOk := none
    sagSeen := 0 }

/-- The power manager at entry to STARTING. -/
def resetPower : Power :=
  { supply := .on, safe1 := false, safe6 := false, step := 1, full := true, rstLow := false, resets := [], stamps := []
    order := 0, shutdown := 0, stopping := false, retry := [], waiting := none, cause := 2, pins := (some true, some false)
    d5 := (false, false), bare := false, lampTest := true }

/-- D0 with nothing pending. -/
def resetD0 : D0 := { orderly := false, pending := [], cand := .all [], fuses := .all [], tamper := false, sigs := [] }

/-- An unowned security element. -/
def resetSec : Sec :=
  { anchor := none, keys := [], gen := 0, starts := 0, epoch := none, minSecver := 0, skefold := 0, firmware := none
    firmwareIna := none, booted := none, fwDue := false, counters := (0, 0), challenge := 0, judged := [], app := none, starFw := .all 0 }

/-- No image, no change-over. -/
def resetUpd : Upd :=
  { active := none, inactive := none, valid := 0, agreed := false, since := 0, ready := false, alone := false
    isS := false, revert := false }

/-- An empty store. -/
def resetLog : Log :=
  { outbox := [], open_ := [], matched := [], buffer := [], store := [], head := 0, chain0 := 0, rates := []
    settings := { regs := [], slot := false, again := false }, winIdx := 0, window := []
    deadWin := [], dead := [], frozenAt := 0, erasing := false, held := [], alarms := [], alarmQ := [], dropped := false
    closed := false }

/-- The module right after reset: at entry to STARTING, all switched domains off, every register at its reset value
(R33, SYS_MODE.STATE = STARTING). -/
def State.reset : State :=
  { lanes := .all resetLane, modRegs := [], cyc := resetCycle, net := resetNet, time := resetTime, tele := resetTele
    twin := resetTwin, field := resetField, power := resetPower, d0 := resetD0, sec := resetSec, upd := resetUpd
    log := resetLog, free := 0, pending := [] }

end Sys2Proof.Machine
end

