-- ==== Sys2Proof/Machine/Ops.lean ====
section
/-! DEFINITION. Machine/Ops.lean: the named operations that every meaning uses: access to lanes, cores, registers and
memory, the event recorder's submissions, interrupts, taking an exception and returning from one, and the frame of
every control-core instruction. -/
namespace Sys2Proof.Machine

/-! ## Lanes and cores -/

/-- A lane's state. -/
def State.lane (s : State) (l : Lane) : LaneState := s.lanes.get l

/-- One lane's state changed. -/
def State.onLane (s : State) (l : Lane) (f : LaneState → LaneState) : State :=
  { s with lanes := s.lanes.set l (f (s.lanes.get l)) }

/-- Every lane's state changed. -/
def State.onLanes (s : State) (f : LaneState → LaneState) : State :=
  { s with lanes := ⟨f s.lanes.a, f s.lanes.b, f s.lanes.c⟩ }

/-- One of a lane's two cores. -/
def LaneState.core (x : LaneState) : CoreId → Core
  | .c0 => x.core0
  | .c1 => x.core1

/-- One of a lane's two cores changed. -/
def LaneState.onCore (x : LaneState) (c : CoreId) (f : Core → Core) : LaneState :=
  match c with
  | .c0 => { x with core0 := f x.core0 }
  | .c1 => { x with core1 := f x.core1 }

/-- A core of a lane. -/
def State.core (s : State) (l : Lane) (c : CoreId) : Core := (s.lane l).core c

/-- A core of a lane changed. -/
def State.onCore (s : State) (l : Lane) (c : CoreId) (f : Core → Core) : State := s.onLane l fun x => x.onCore c f

/-- A general register; g0 is held as zero (R47). -/
def Core.g (c : Core) (r : GReg) : Word := c.gpr[r.toNat]'r.isLt

/-- A write to a general register; a write to g0 is discarded (R47). -/
def Core.setG (c : Core) (r : GReg) (v : Word) : Core :=
  if r = 0 then c else { c with gpr := c.gpr.set r.toNat v r.isLt }

/-- sext(imm16). -/
def sext16 (i : BitVec 16) : Word := i.signExtend 64

/-- The effective address ga + sext(imm16). -/
def Core.ea (x : Core) (ga : GReg) (imm : BitVec 16) : Word := x.g ga + sext16 imm

/-- PSW.LVL (R53); the code 0b11 cannot be set (R50). -/
def Core.level (c : Core) : Level :=
  match bits c.psw.toNat 1 0 with
  | 0 => .u
  | 1 => .s
  | _ => .k

/-- PSW.EXL. -/
def Core.exl (c : Core) : Bool := bit c.psw.toNat 3

/-- PSW.IE. -/
def Core.ie (c : Core) : Bool := bit c.psw.toNat 2

/-! ## Registers -/

/-- The bits of a register whose one home is the module. -/
def modMask (a : Nat) : Word :=
  match rowOf a with
  | some r => BitVec.ofNat 64 r.mod
  | none => 0

/-- The lane's part of a register. -/
def State.laneReg (s : State) (l : Lane) (a : Nat) : Word := mapGet resetOf (s.lane l).regs a

/-- The module's part of a register. -/
def State.modReg (s : State) (a : Nat) : Word := mapGet resetOf s.modRegs a

/-- A register as it is held: the lane's bits and the module's bits. -/
def State.regRaw (s : State) (l : Lane) (a : Nat) : Word :=
  (s.laneReg l a &&& ~~~(modMask a)) ||| (s.modReg a &&& modMask a)

/-- The lane's part of a register replaced. -/
def State.setLaneReg (s : State) (l : Lane) (a : Nat) (w : Word) : State :=
  s.onLane l fun x => { x with regs := mapSet resetOf x.regs a w }

/-- The module's part of a register replaced. -/
def State.setModReg (s : State) (a : Nat) (w : Word) : State := { s with modRegs := mapSet resetOf s.modRegs a w }

/-- A whole register replaced: each bit goes to its home. -/
def State.regSet (s : State) (l : Lane) (a : Nat) (w : Word) : State :=
  (s.setLaneReg l a ((w &&& ~~~(modMask a)) ||| (resetOf a &&& modMask a))).setModReg a
    ((w &&& modMask a) ||| (resetOf a &&& ~~~(modMask a)))

/-- A field whose home is the lane. -/
def State.rd (s : State) (l : Lane) (f : RField) : Nat := f.of (s.laneReg l f.addr)

/-- A field whose home is the module. -/
def State.rdM (s : State) (f : RField) : Nat := f.of (s.modReg f.addr)

/-- A write to a field whose home is the lane. -/
def State.wr (s : State) (l : Lane) (f : RField) (v : Nat) : State :=
  s.setLaneReg l f.addr (f.put (s.laneReg l f.addr) v)

/-- A write to a field whose home is the module. -/
def State.wrM (s : State) (f : RField) (v : Nat) : State := s.setModReg f.addr (f.put (s.modReg f.addr) v)

/-- A lane field written in every lane. -/
def State.wrAll (s : State) (f : RField) (v : Nat) : State := Lane.list.foldl (fun s l => s.wr l f v) s

/-- A saturating counter of a lane advanced. -/
def State.inc (s : State) (l : Lane) (f : RField) : State := s.wr l f (satAdd (s.rd l f) 1 f.max)

/-- A saturating counter of the module advanced. -/
def State.incM (s : State) (f : RField) : State := s.wrM f (satAdd (s.rdM f) 1 f.max)

/-- A wrapping counter of the module advanced. -/
def State.incWrapM (s : State) (f : RField) : State := s.wrM f (s.rdM f + 1)

/-- The field with its place moved n registers of 8 bytes up: an element of an array of registers. -/
def RField.at (f : RField) (n : Nat) : RField := { f with addr := f.addr + 8 * n }

/-! ## The model's own free values -/

/-- A fresh number that nothing constrains; the counter advances with `State.drawn`. -/
def State.freshNat (s : State) : Nat := Config.freeNat s.free

/-- A fresh word that nothing constrains. -/
def State.freshWord (s : State) : Word := Config.freeWord s.free

/-- One free value has been drawn. -/
def State.drawn (s : State) : State := { s with free := s.free + 1 }

/-! ## Module state, round set and vote set -/

/-- SYS_MODE.STATE values (R33). -/
def mStarting : Nat := 2
def mIntegrating : Nat := 3
def mRunning : Nat := 4
def mDegraded : Nat := 5
def mCommissioning : Nat := 6
def mHalted : Nat := 7
def mSafe : Nat := 8

/-- The module state (R33). -/
def State.mode (s : State) : Nat := s.rdM R.SYS_MODE_STATE

/-- The module state set. -/
def State.setMode (s : State) (m : Nat) : State := s.wrM R.SYS_MODE_STATE m

/-- The round set number k (TSK_RSNUM). -/
def State.k (s : State) : Nat := s.rdM R.TSK_RSNUM_K

/-- The number that stands in records: bits 31:0 of k, or kt in a test round set (R186). -/
def State.rs (s : State) : Nat := if s.cyc.kind = .test then s.cyc.kt else s.k % 2 ^ 32

/-- Whether the SAFE latch is set in either place that holds it (R248). -/
def State.safe (s : State) : Bool := s.power.safe1 || s.power.safe6

/-- The module's vote set as a lane mask (R241). -/
def State.vset (s : State) : Nat := s.rdM R.CMP_VOTE_VSET

/-- Whether a lane is in the vote set. -/
def State.inVote (s : State) (l : Lane) : Bool := bit s.vset l.bit

/-- The lanes of the vote set in lane-code order. -/
def State.voters (s : State) : List Lane := Lane.list.filter s.inVote

/-- The field of CMP_VOTE that holds the state of a lane (R242). -/
def stField : Lane → RField
  | .a => R.CMP_VOTE_ST_A
  | .b => R.CMP_VOTE_ST_B
  | .c => R.CMP_VOTE_ST_C

/-- The field of CMP_VOTE that holds the isolation count of a lane. -/
def isoField : Lane → RField
  | .a => R.CMP_VOTE_ISO_A
  | .b => R.CMP_VOTE_ISO_B
  | .c => R.CMP_VOTE_ISO_C

/-- State of a lane: 0 OUT, 1 ISOLATED, 2 PROBATION, 3 VOTING (R242). -/
def State.st (s : State) (l : Lane) : Nat := s.rdM (stField l)

/-- The state of a lane set. -/
def State.setSt (s : State) (l : Lane) (v : Nat) : State := s.wrM (stField l) v

/-- The view that a lane drives: empty when it is not VOTING (R241). -/
def State.view (s : State) (l : Lane) : Nat := if s.st l = 3 then s.rd l R.CMP_VOTE_VIEW else 0

/-- The vote set recomputed: a lane that at least two views include (R241). -/
def State.revote (s : State) : State :=
  let inc (l : Lane) : Bool := decide (2 ≤ (Lane.list.filter fun v => bit (s.view v) l.bit).length)
  s.wrM R.CMP_VOTE_VSET (ofBool (inc .a) + 2 * ofBool (inc .b) + 4 * ofBool (inc .c))

/-- The lanes of a mask. -/
def maskLanes (m : Nat) : List Lane := Lane.list.filter fun l => bit m l.bit

/-- The lane of a lane code. -/
def laneOfCode : Nat → Option Lane
  | 1 => some .a
  | 2 => some .b
  | 3 => some .c
  | _ => none

/-- The lane whose registers stand for what the lanes set alike: the first of the vote set, else the first that runs. -/
def State.mainLane (s : State) : Lane :=
  (s.voters.head?.orElse fun _ => (Lane.list.filter fun l => (s.lane l).running).head?).getD .a

/-- Length P of the round set in rounds of 1 ms (R184, TSK_RSET). Reset value 0 stands for no image. -/
def State.period (s : State) : Nat := s.rd s.mainLane R.TSK_RSET_PERIOD

/-! ## Events (R526) -/

/-- A record's DLEN and DATA: at most 20 bytes (R524). -/
def dataBytes (d : List Nat) : List Nat := d.take 20

/-- A lane's firmware has a record to submit, with its instant (R526). -/
def State.eventAtL (s : State) (l : Lane) (t : Nat) (code : Nat) (data : List Nat) : State :=
  { s with log := { s.log with outbox := s.log.outbox ++
      [{ lane := l.code, src := l.code, code := code, rs := s.rs, t := t, data := dataBytes data }] } }

/-- An event of one lane: its firmware has a record to submit (R526). -/
def State.eventL (s : State) (l : Lane) (code : Nat) (data : List Nat) : State := s.eventAtL l s.time.now code data

/-- A record kept in D0 while no lane runs, with the counters of the instant at which it arose (R459, R527). -/
def State.pendRecord (s : State) (code : Nat) (data : List Nat) : State :=
  { s with d0 := { s.d0 with pending := s.d0.pending ++
      [{ code := code, flags := 8, pcyc := s.rdM R.PWR_D0_PCYC, opmin := s.rdM R.PWR_D0_OPMIN, rs := s.rs
         t := s.time.now, data := dataBytes data }] } }

/-- An event of the module: every lane of the vote set submits it; before there is a vote set, every running lane;
with no lane running it is kept in D0 (R526, R459). -/
def State.event (s : State) (code : Nat) (data : List Nat) : State :=
  let from' := if s.voters.isEmpty then Lane.list.filter fun l => (s.lane l).running else s.voters
  if from'.isEmpty then s.pendRecord code data else from'.foldl (fun s l => s.eventL l code data) s

/-- An event of the module that bears an instant of its own (R203). -/
def State.eventAt (s : State) (t : Nat) (code : Nat) (data : List Nat) : State := s.voters.foldl (fun s l => s.eventAtL l t code data) s

/-! ## The order code (R2) -/

/-- The module carries a field interface: it is a CB-TX3-F (SYS_ID.FIO_FITTED). -/
def State.fitted (s : State) : Bool := decide (s.rdM R.SYS_ID_FIO_FITTED = 1)

/-- The hardware type: the bit of the order code is set (R503, R504). -/
def State.hwType (s : State) : Nat := 0xCB730000 + if s.fitted then 1 else 2

/-- A FIO register other than FIO_VW, on a CB-TX3-N (R425). -/
def State.fioAbsent (s : State) (a : Nat) : Bool := decide (a / 65536 = 0xF00B) && decide (a ≠ R.FIO_VW) && !s.fitted

/-! ## The SAFE latch (R248) -/

/-- A lane mask. -/
def maskOf (ls : List Lane) : Nat := ls.foldl (fun m l => m ||| l.mask) 0

/-- Lanes in the vote set. -/
def State.votes (s : State) : Nat := s.voters.length

/-- CMP_MISMATCH bits 17:4 of a lane, as records carry them. -/
def State.mismatchBits (s : State) (l : Lane) : Nat := bits (s.laneReg l R.CMP_MISMATCH).toNat 17 4

/-- Both halves of the SAFE latch set (R248); the module is SAFE. -/
def State.safeOn (s : State) : State :=
  ((({ s with power := { s.power with safe1 := true, safe6 := true } }).wrM R.CMP_VOTE_SAFE 1).wrM R.XLE_STAT_HALTED 0).setMode
    mSafe

/-- SAFE latched with an event, unless it is latched already (R9, R248). -/
def State.setSafe (s : State) (code : Nat) (data : List Nat) : State := if s.safe then s else s.safeOn.event code data

/-- SAFE latched by vote or naming: event 0x4010 (R248, R269). -/
def State.latchSafe (s : State) : State :=
  s.setSafe 0x4010 (bytesBE (s.mismatchBits .a ||| s.mismatchBits .b ||| s.mismatchBits .c) 2 ++ [s.cyc.named, s.vset])

/-- With boundary markers running, a vote set of fewer than two lanes latches SAFE (R248). -/
def State.judgeVset (s : State) : State := if s.cyc.active ∧ s.votes < 2 then s.latchSafe else s

/-! ## Interrupts (R80) -/

/-- An interrupt source raised on one core. -/
def State.raiseOn (s : State) (l : Lane) (c : CoreId) (n : Nat) : State :=
  s.onCore l c fun x => { x with ipend := x.ipend ||| BitVec.ofNat 64 (1 <<< n) }

/-- An interrupt source raised on both cores of a lane. -/
def State.raise (s : State) (l : Lane) (n : Nat) : State := (s.raiseOn l .c0 n).raiseOn l .c1 n

/-- An interrupt source raised on both cores of every lane. -/
def State.raiseAll (s : State) (n : Nat) : State := Lane.list.foldl (fun s l => s.raise l n) s

/-- The lowest pending enabled source, if there is one. -/
def Core.pendingSource (c : Core) : Option Nat :=
  (List.range 64).find? fun n => bit (c.ipend &&& c.imask).toNat n

/-- Whether an interrupt is to be taken before the next instruction (R80). -/
def Core.takesInterrupt (c : Core) : Bool := c.ie && !c.exl && decide (c.ipend &&& c.imask ≠ 0)

/-! ## Performance counters (R537 to R541) -/

/-- What an event carries for PMC_FILT: nothing, a level, or a master with its level and an address (R539). -/
inductive PmcAttr where
  | plain
  | level (lvl : Nat)
  | access (master : Nat) (lvl : Option Nat) (addr : Nat)
deriving DecidableEq, Repr

/-- Whether PMC_FILTn lets an event through (R539). -/
def filterPass (f : Word) : PmcAttr → Bool
  | .plain => true
  | .level v => bit f.toNat (60 + v)
  | .access m v a =>
    bit f.toNat (52 + m)
      && (match v with | some v => bit f.toNat (60 + v) | none => true)
      && (!(bit f.toNat 63) || (decide (bits f.toNat 51 32 ≤ a / 4096) && decide (a / 4096 ≤ bits f.toNat 31 12)))

/-- Counter n advances by k; a wrap sets PMC_OVF or carries into counter n + 1 (R540). -/
def State.pmcBump (s : State) (l : Lane) (n k : Nat) : Nat → State
  | 0 => s
  | fuel + 1 =>
    let c := s.rd l (R.PMC_CNT_COUNT n)
    let s1 := s.wr l (R.PMC_CNT_COUNT n) ((c + k) % 2 ^ 48)
    if c + k < 2 ^ 48 then s1
    else if s.rd l (R.PMC_SEL_CHAIN n) = 1 ∧ n < 31 then
      if s.rd l (R.PMC_SEL_EN (n + 1)) = 1 ∧ s.rd l (R.PMC_SEL_EVENT (n + 1)) = 0 then s1.pmcBump l (n + 1) ((c + k) / 2 ^ 48) fuel else s1
    else s1.wr l R.PMC_OVF_OVF (s1.rd l R.PMC_OVF_OVF ||| (1 <<< n))

/-- The counters that select an event; a PMC_SEL register at its reset value is not enabled. -/
def State.pmcSelected (s : State) (l : Lane) (cls num : Nat) : List Nat :=
  ((s.lane l).regs.filter fun p =>
    decide (R.PMC_SEL 0 ≤ p.1) && decide (p.1 < R.PMC_SEL 32) && bit p.2.toNat 63
      && decide (bits p.2.toNat 9 6 = cls) && (decide (bits p.2.toNat 5 0 = num)
        || (decide (bits p.2.toNat 5 0 = 0x3F) && decide (cls ≠ 0)))).map fun p => (p.1 - R.PMC_SEL 0) / 8

/-- k events of a class and number are counted (R537). -/
def State.pmcMany (s : State) (l : Lane) (cls num : Nat) (attr : PmcAttr) (k : Nat) : State :=
  (s.pmcSelected l cls num).foldl
    (fun s n => if filterPass (s.laneReg l (R.PMC_FILT n)) attr then s.pmcBump l n k 32 else s) s

/-- An event of a class and number is counted (R537). -/
def State.pmc (s : State) (l : Lane) (cls num : Nat) (attr : PmcAttr) : State := s.pmcMany l cls num attr 1

/-! ## Check-value units (R542, R543) -/

/-- The units that take a stream in: enabled, with that SEL, and for SEL 0x1 to 0x4 with the address in range. -/
def State.crcUnits (s : State) (l : Lane) (sel : Nat) (addr : Option Nat) : List Nat :=
  (((s.lane l).regs.filter fun p => decide (R.CRC_CFG 0 ≤ p.1) && decide (p.1 < R.CRC_CFG 8) && bit p.2.toNat 63).map
    fun p => (p.1 - R.CRC_CFG 0) / 8).filter fun u =>
      decide (s.rd l (R.CRC_SRC_SEL u) = sel) &&
        (match addr with
         | none => true
         | some a => decide (s.rd l (R.CRC_SRC_BASE u) ≤ a / 64) && decide (a / 64 ≤ s.rd l (R.CRC_SRC_LIMIT u)))

/-- The bytes of a stream are folded by every unit that takes it in. -/
def State.snoop (s : State) (l : Lane) (sel : Nat) (addr : Option Nat) (bs : List Nat) : State :=
  (s.crcUnits l sel addr).foldl
    (fun s u => s.wr l (R.CRC_VAL_VAL u) (bs.foldl (crcUnitByte (s.rd l (R.CRC_CFG_POLY u))) (s.rd l (R.CRC_VAL_VAL u)))) s

/-- A read that returns no good word contributes nothing and sets ERR (R543). -/
def State.snoopErr (s : State) (l : Lane) (sel : Nat) (addr : Option Nat) : State :=
  (s.crcUnits l sel addr).foldl (fun s u => s.wr l (R.CRC_CFG_ERR u) 1) s

/-! ## The DRAM channel (R556 to R559) -/

/-- The bit of a requester in ARB_FLAG.CUT (R579). -/
def requesterBit : Requester → Nat
  | .mac => 6
  | .xle => 5
  | .scrubber => 4
  | .core0 => 3
  | .engine => 2
  | .core1 => 1

/-- DRAM priority of a requester; the scrubber has one for each regime. -/
def State.dramPrio (s : State) (l : Lane) (r : Requester) (urgent : Bool) : Nat :=
  match r with
  | .mac => s.rd l R.ARB_PRIO_MAC
  | .xle => s.rd l R.ARB_PRIO_XLE
  | .scrubber => if urgent then s.rd l R.ARB_PRIO_SCRUB_U else s.rd l R.ARB_PRIO_SCRUB_N
  | .core0 => s.rd l R.ARB_PRIO_CORE0
  | .engine => s.rd l R.ARB_PRIO_ENGINE
  | .core1 => s.rd l R.ARB_PRIO_CORE1

/-- A request stands and waits (R559). -/
def LaneState.wait (x : LaneState) (r : Requester) (urgent : Bool) : LaneState :=
  { x with waiting := (x.waiting.filter fun w => w.1 != r) ++ [(r, urgent)] }

/-- The channel passes to the requester that revoked the grant, else to the highest that waits (R558, R559). -/
def State.passGrant (s : State) (l : Lane) : State :=
  let x := s.lane l
  let best : Option (Requester × Bool) := x.waiting.foldl (fun (b : Option (Requester × Bool)) w =>
    match b with
    | some v => if s.dramPrio l v.1 v.2 < s.dramPrio l w.1 w.2 then some w else some v
    | none => some w) none
  let next := x.revoked.orElse fun _ => best.map (·.1)
  let s1 := s.onLane l fun x => { x with grant := next, revoked := none, waiting := x.waiting.filter fun w => some w.1 != next }
  if next.isSome then s1.pmc l 6 0 .plain else s1

/-- A transfer over the DRAM channel ends, and with it the grant that covered it (R556). -/
def State.transferEnds (s : State) (l : Lane) (r : Requester) : State := if (s.lane l).grant = some r then s.passGrant l else s

/-! ## Memory (chapter 07) -/

/-- What a byte of memory that is not listed reads as: the fill (R280). -/
def memDefault (_ : Nat) : BitVec 8 := 0

/-- A byte of a lane's memory as it is stored. -/
def LaneState.byte (x : LaneState) (a : Nat) : BitVec 8 := mapGet memDefault x.mem a

/-- The data symbols stored at a word address, as a number: byte j of the word in bits 8j+7:8j (R274). -/
def LaneState.data (x : LaneState) (a : Nat) : Nat :=
  ((List.range 8).map fun j => (x.byte (a + j)).toNat <<< (8 * j)).foldl (· + ·) 0

/-- The check field stored for a word address (R274). -/
def LaneState.check (x : LaneState) (a : Nat) : Nat :=
  ((List.range 4).map fun j => (mapGet memDefault x.chk (4 * (a / 8) + j)).toNat <<< (8 * j)).foldl (· + ·) 0

/-- n little-endian bytes of a number written into a byte map. -/
def putBytes (m : List Host.Cell) (a v : Nat) : Nat → List Host.Cell
  | 0 => m
  | n + 1 => mapSet memDefault (putBytes m a v n) (a + n) (BitVec.ofNat 8 (v >>> (8 * n)))

/-- A stored word replaced: its data symbols and its check field. -/
def LaneState.putStored (x : LaneState) (a data chk : Nat) : LaneState :=
  { x with mem := putBytes x.mem a data 8, chk := putBytes x.chk (4 * (a / 8)) chk 4 }

/-- The word that the decoder gives for a word address, when it is good (R276). -/
def LaneState.good (x : LaneState) (a : Nat) : Option Word :=
  match rsDecode (x.data a) (x.check a) with
  | .clean w => some w
  | .corrected w _ => some w
  | .poisoned => none
  | .uncorrectable => none

/-- A whole word written with its check field (R285). -/
def LaneState.putWord (x : LaneState) (a : Nat) (w : Word) : LaneState := x.putStored a w.toNat (rsCheck w)

/-- Whether a word address lies in the lane's DRAM (R28). -/
def isDram (a : Nat) : Bool := decide (0x40000000 ≤ a) && decide (a < 0xC0000000)

/-- Whether a word address lies in the lane's SRAM (R28). -/
def isSram (a : Nat) : Bool := decide (a < 0x1000000)

/-- Whether an address lies in a register block (R28). -/
def isBlock (a : Nat) : Bool := decide (0xF0000000 ≤ a) && decide (a < 0xF0150000)

/-- The row of a word as MEM_CAND shows it (R272, R273): SRAM bank and row, or the DRAM address of the row. -/
def rowOfWord (a : Nat) : Nat :=
  if isDram a then a / 8192 * 8192 else bits (a / 8) 3 0 * 1024 + bits (a / 8) 20 11

/-- A repair candidate is listed, or counted when the list is full (R293). -/
def State.candidate (s : State) (l : Lane) (a cause : Nat) : State :=
  let m := ofBool (isDram a)
  let row := rowOfWord a
  let cs := s.d0.cand.get l
  if cs.any fun c => c.1 == m && c.2.2 == row then s
  else if 64 ≤ cs.length then s.inc l R.MEM_SPARE_CAND_LOST
  else ({ s with d0 := { s.d0 with cand := s.d0.cand.set l (cs ++ [(m, cause, row)]) } }).eventL l 0x5020
    ([m, cause] ++ bytesBE row 4)

/-- MEM_ECC_ADDR takes an event: an uncorrectable one always, a correction only while it holds no uncorrectable one. -/
def State.eccAddr (s : State) (l : Lane) (memory src kind sym1 sym2 a : Nat) : State :=
  if kind < 3 ∧ 3 ≤ s.rd l R.MEM_ECC_ADDR_KIND then s
  else (((((s.wr l R.MEM_ECC_ADDR_MEMORY memory).wr l R.MEM_ECC_ADDR_SOURCE src).wr l R.MEM_ECC_ADDR_KIND kind).wr l
    R.MEM_ECC_ADDR_SYM1 sym1).wr l R.MEM_ECC_ADDR_SYM2 sym2).wr l R.MEM_ECC_ADDR_ADDR (a / 8)

/-- DATA of the records 0x5001 to 0x5005 (R606). -/
def eccData (memory src kind sym1 sym2 a : Nat) : List Nat := [memory, src, kind, sym1, sym2] ++ bytesBE a 8

/-- A correction is counted, shown and recorded (R282, R287). -/
def State.corrected (s : State) (l : Lane) (src a : Nat) (syms : List Nat) (counter : RField) : State :=
  let m := ofBool (isDram a)
  let kind := if syms.length = 1 then 1 else 2
  let s1 := syms.headD 0
  let s2 := if syms.length = 1 then 0xFF else (syms.drop 1).headD 0
  ((((s.inc l counter).wr l R.MEM_ECC_STAT_CORR 1).eccAddr l m src kind s1 (s2 % 16) a).pmc l 2 5 .plain).eventL l 0x5001
    (eccData m src kind s1 s2 a)

/-- A full-word write of a word is queued: the command that waits next is an SD of the lane to it (R298, log entry 167). -/
def State.writeQueued (s : State) (l : Lane) (a : Nat) : Bool :=
  match s.pending with
  | .sd l' c _ ga imm :: _ => decide (l' = l) && decide (((s.core l c).ea ga imm).toNat = a)
  | _ => false

/-- An uncorrectable word is reported and poisoned: its data symbols as read, with the check field of those symbols
XORed with the poison mask (R283). No poison is written while a full-word write of the word is queued (R298). -/
def State.poison (s : State) (l : Lane) (src a : Nat) : State :=
  let m := ofBool (isDram a)
  let d := (s.lane l).data a
  let s1 := ((s.inc l R.MEM_ECC_STAT_UNCORR_CNT).wr l R.MEM_ECC_STAT_UNCORR 1).eccAddr l m src 3 0 0 a
  let s2 := if s.writeQueued l a then s1
    else (s1.wr l R.MEM_ECC_STAT_POISON_SET 1).onLane l fun x =>
      x.putStored a d (rsCheck (BitVec.ofNat 64 d) ^^^ poisonMask)
  (s2.eventL l 0x5002 (eccData m src 3 0xFF 0xFF a)).candidate l a 3

/-- A poisoned word is met: counted, shown and recorded; the word stays as it is (R284). -/
def State.poisonMet (s : State) (l : Lane) (src a : Nat) : State :=
  let m := ofBool (isDram a)
  ((s.inc l R.MEM_ECC_STAT_POISON_RD).eccAddr l m src 4 0 0 a).eventL l 0x5003 (eccData m src 4 0xFF 0xFF a)

/-- A word read through the decoder by a source of MEM_ECC_ADDR.SOURCE (R276, R282 to R284): its value when it is good. -/
def State.readStored (s : State) (l : Lane) (src a : Nat) : Option Word × State :=
  match rsDecode ((s.lane l).data a) ((s.lane l).check a) with
  | .clean w => (some w, s)
  | .corrected w syms =>
    (some w, (s.corrected l src a syms R.MEM_ECC_STAT_CORR_CNT).onLane l fun x => x.putWord a w)
  | .poisoned => (none, s.poisonMet l src a)
  | .uncorrectable => (none, s.poison l src a)

/-- A detected bus-code error is counted, shown and recorded (R279, R299, R300). -/
def State.busDetected (s : State) (l : Lane) (src a : Nat) : State :=
  ((s.inc l R.MEM_ECC_STAT_BUS_DET).eccAddr l 2 src 5 0 0 a).eventL l 0x5005 (eccData 2 src 5 0xFF 0xFF a)

/-- What the end of a path makes of a word that damage has struck: its value, or none when the damage is detected and not
corrected. A correction is counted (R277, R538). -/
def State.busEnd (s : State) (l : Lane) (src a : Nat) (x : Arrival) : Option Word × State :=
  match x with
  | .clean w => (some w, s)
  | .corrected w => (some w, (s.inc l R.MEM_ECC_STAT_BUS_CORR).pmc l 2 6 .plain)
  | .detected => (none, s.busDetected l src a)

/-- A word crosses a path; the first damage that waits for the path strikes it (R277, R279). The memory word stays as it is. -/
def State.cross (s : State) (l : Lane) (p : BusPath) (src a : Nat) (w : Word) : Option Word × State :=
  match (s.lane l).bus.find? fun h => h.path == p with
  | none => (some w, s)
  | some h => (s.onLane l fun x => { x with bus := x.bus.erase h }).busEnd l src a (busArrive w h.pat)

/-- The masters of PMC_FILT.MASTER (chapter 15). -/
def mCore0 : Nat := 0
def mEngine : Nat := 2
def mScrub : Nat := 3
def mXle : Nat := 4
def mMac : Nat := 5

/-- The bytes of a number, lowest first. -/
def bytesLE (v n : Nat) : List Nat := (List.range n).map fun j => (v >>> (8 * j)) % 256

/-- A memory access is counted: event 0x00 to 0x04 of class 0x2 (R538). -/
def State.countAccess (s : State) (l : Lane) (master : Nat) (lvl : Option Nat) (a : Nat) (write : Bool) : State :=
  let s1 := s.pmc l 2 ((if isDram a then 2 else 0) + ofBool write) (.access master lvl a)
  if isDram a then (if master = mCore0 then s1.transferEnds l .core0 else if master = mCore0 + 1 then s1.transferEnds l .core1 else s1)
  else s1

/-- The path that a master's read data take: a core's own loads and the engine's reads (log entry 145). -/
def readPath (master : Nat) (lvl : Option Nat) : Option BusPath :=
  match master, lvl with
  | 0, some _ => some (.load .c0)
  | 1, some _ => some (.load .c1)
  | 2, _ => some .engineRead
  | _, _ => none

/-- The value of a stored word as it reaches the master. -/
def readBus (l : Lane) (master : Nat) (lvl : Option Nat) (src a : Nat) (r : Option Word × State) : Option Word × State :=
  match r.1, readPath master lvl with
  | some v, some p => r.2.cross l p src a v
  | _, _ => r

/-- A read of n bytes at an address by a master: the word it lies in, brought to the master, counted and snooped; the
scrubber's reads are not snooped (R277, R282 to R284, R543). -/
def State.readMem (s : State) (l : Lane) (master : Nat) (lvl : Option Nat) (src a n : Nat) : Option Word × State :=
  let w := a / 8 * 8
  let q := s.readStored l src w
  let r := readBus l master lvl src w q
  let sel := if isDram a then 4 else 2
  let s1 := r.2.countAccess l master lvl a false
  if master = mScrub then (r.1, if q.1.isSome then s1 else s1.pmc l 2 7 (.access master lvl a))
  else
    match r.1 with
    | some v => (some v, s1.snoop l sel (some a) (bytesLE (v.toNat >>> (8 * (a % 8))) n))
    | none => (none, (if q.1.isSome then s1 else s1.pmc l 2 7 (.access master lvl a)).snoopErr l sel (some a))

/-- A lane's firmware reads words whose values are used next: a damaged word is corrected in place, or poisoned and reported (R282 to
R284). -/
def State.visit (s : State) (l : Lane) (as : List Nat) : State :=
  as.foldl (fun (s : State) (a : Nat) => (s.readMem l mCore0 none 0 a 8).2) s

/-- A core loses its reservation when another master writes the reserved word (R65). -/
def State.breakResv (s : State) (l : Lane) (except : Option CoreId) (a : Nat) : State :=
  let clr (c : CoreId) (x : Core) : Core :=
    if except ≠ some c ∧ x.resv = some (BitVec.ofNat 64 a) then { x with resv := none } else x
  s.onLane l fun x => { x with core0 := clr .c0 x.core0, core1 := clr .c1 x.core1 }

/-- A whole word written by a master (R285). `who` is the core, if a core writes. -/
def State.writeWord (s : State) (l : Lane) (who : Option CoreId) (master : Nat) (lvl : Option Nat) (a : Nat) (w : Word) :
    State :=
  (((s.onLane l fun x => x.putWord a w).breakResv l who a).countAccess l master lvl a true).snoop l
    (if isDram a then 3 else 1) (some a) (bytesLE w.toNat 8)

/-- The word with n bytes at byte offset o replaced. -/
def mergeBytes (w : Word) (o n : Nat) (v : Word) : Word :=
  let m : Word := BitVec.ofNat 64 ((2 ^ (8 * n) - 1) <<< (8 * o))
  (w &&& ~~~m) ||| ((v <<< (8 * o)) &&& m)

/-- A narrow write of n bytes, a locked read–modify–write (R287); false when it is refused. -/
def State.writeNarrow (s : State) (l : Lane) (who : CoreId) (lvl a n : Nat) (v : Word) : Bool × State :=
  let wa := a / 8 * 8
  let s0 := s.pmc l 2 4 (.access who.num (some lvl) a)
  let fin (s : State) (w : Word) : Bool × State :=
    let s1 := ((s.onLane l fun x => x.putWord wa (mergeBytes w (a % 8) n v)).breakResv l (some who) wa)
    (true, s1.snoop l (if isDram a then 3 else 1) (some a) (bytesLE v.toNat n))
  match rsDecode ((s.lane l).data wa) ((s.lane l).check wa) with
  | .clean w => fin s0 w
  | .corrected w syms => fin (s0.corrected l 2 wa syms R.MEM_ECC_STAT_RMW_CORR) w
  | .poisoned => (false, (s0.poisonMet l 2 wa).eventL l 0x5004 (eccData (ofBool (isDram a)) 2 4 0xFF 0xFF a))
  | .uncorrectable => (false, (s0.poison l 2 wa).eventL l 0x5004 (eccData (ofBool (isDram a)) 2 3 0xFF 0xFF a))

/-! ## Exceptions (R76 to R85) -/

/-- Exception cause codes (R76). -/
def exIllegal : Nat := 1
def exPriv : Nat := 2
def exFetchAlign : Nat := 3
def exFetchBus : Nat := 4
def exDataAlign : Nat := 5
def exDataBus : Nat := 6
def exProt : Nat := 7
def exUncorr : Nat := 8
def exArith : Nat := 9
def exSyscall : Nat := 10
def exBrk : Nat := 11

/-- Exception entry on one core (R79): the saved registers, level K with IE = 0 and EXL = 1, and the jump to KVEC. -/
def Core.enter (c : Core) (cause eaddr : Word) : Core :=
  { c with
    epsw := c.psw, epc := c.pc, ecause := cause, eaddr := eaddr, resv := none, wait := .none
    psw := (c.psw &&& ~~~(0xF : Word)) ||| 0xA, pc := c.kvec }

/-- Return from an exception (R79, ERET): the PSW saved with EXL cleared (its reserved bits read zero, R14), and the pc
saved. DESIGN CHOICE: an EPC that is not a multiple of 4 is taken as it is and raises nothing; the fetch takes the word that
holds it (log entry 155). -/
def Core.leave (c : Core) : Core := { c with psw := c.epsw &&& 0xF007, pc := c.epc, resv := none }

/-- A task has been due and has sent no seal record yet: it sends one with a failure CLASS (R236). -/
def LaneTask.fail (t : LaneTask) (cls : Nat) : LaneTask := if t.sent.isNone then { t with sent := some (cls, 0, 0) } else t

/-- The tasks due in this round set, as a mask (TSK_STAT.DUE). -/
def State.due (s : State) : Nat := s.rdM R.TSK_STAT_DUE

/-- The seal record that a lane sends for a task: CLASS, the statuses of its passes (0 for one that has not ended), SEAL and
NRES (R235, R239). -/
def LaneTask.record (t : LaneTask) (rs no : Nat) (prob : Bool) : XleRec :=
  let status (r : Option SealRec) : Nat := match r with | some x => x.status | none => 0
  let out := t.sent.getD (0, 0, 0)
  { rs := rs, type := 1, task := no, prob := prob, ovr := t.ovr, cls := out.1, pstat := status t.plain, qstat := status t.coded
    w1 := out.2.1, w2 := BitVec.ofNat 64 out.2.2 }

/-- The close marker is sent: of the round set's records only those sent before it count (R191). -/
def LaneState.close (x : LaneState) : LaneState :=
  { x with closed := true, tasks := x.tasks.map fun t => if t.ovr then t else { t with counted := t.sent.isSome } }

/-- The records of the outcomes that are new since `old` go out on the XLE; with the last due task's record the lane sends its
close marker (R191, R239). -/
def LaneState.sendSeals (x : LaneState) (old : Vector LaneTask 16) (due rs : Nat) (prob : Bool) : LaneState :=
  let fresh := (List.finRange 16).filter fun i => (old[i]).sent.isNone && (x.tasks[i]).sent.isSome
  let x1 := { x with records := x.records ++ fresh.map fun i => (x.tasks[i]).record rs i.val prob }
  let all := (List.finRange 16).all fun i => !bit due i.val || (x1.tasks[i]).sent.isSome
  if decide (due = 0) || !all || x1.closed then x1 else x1.close

/-- An exception fails the lane's cycle: outcome F with CLASS 0x3 for every due task (R84, R236). -/
def LaneState.failCycle (x : LaneState) (due rs : Nat) (prob : Bool) : LaneState :=
  let failed := { x with tasks := Vector.ofFn fun i => if bit due i.val then (x.tasks[i]).fail 3 else x.tasks[i] }
  failed.sendSeals x.tasks due rs prob

/-- The lane stops both cores, withdraws its output enables and its votes, and stops its heartbeat (R81); it drives an empty
view, and SAFE latches when fewer than two lanes are left in the vote set (R241, R248). -/
def State.stopLane (s : State) (l : Lane) : State :=
  (((s.onLane l fun x => { x with running := false, pend := [], stream := [], mbox := none }).setLaneReg l R.FIO_LEN 0).wr
    l R.CMP_VOTE_VIEW 0).revote.judgeVset

/-- A synchronous exception on a core (R79), with the double fault of R81 and what the K firmware does for an exception
raised at S in the course of a round set (R84) or at U (R85). -/
def State.exception (s : State) (l : Lane) (c : CoreId) (code : Nat) (eaddr : Word) : State :=
  let x := s.core l c
  if x.exl then s.stopLane l
  else
    let s1 := (s.onCore l c fun y => y.enter (BitVec.ofNat 64 code) eaddr).pmc l 1 1 (.level x.level.code)
    let data := bytesBE code 2 ++ bytesBE x.pc.toNat 8 ++ bytesBE eaddr.toNat 8
    match x.level with
    | .k => s1
    | .s =>
      if code = exSyscall ∨ !s.cyc.active then s1
      else (s1.onLane l fun y => y.failCycle s.due s.rs (decide (s.st l = 2))).eventL l 0x2001 data
    | .u => if code = exSyscall then s1 else (s1.onLane l fun y => { y with uApp := false }).eventL l 0x2002 data

/-- The lowest pending enabled interrupt is taken (R80). -/
def State.interrupt (s : State) (l : Lane) (c : CoreId) : State :=
  match (s.core l c).pendingSource with
  | some n =>
    (s.onCore l c fun y => y.enter (BitVec.ofNat 64 (2 ^ 15 + n)) 0).pmc l 1 2 (.level (s.core l c).level.code)
  | none => s

/-- Cores of a lane are released at KVEC (R48), whose bits 5:0 read as zero (R53). -/
def LaneState.release (x : LaneState) (entry : Word) : LaneState :=
  let at' := entry &&& ~~~(0x3F : Word)
  let core : Core := { resetCore with kvec := at', pc := at' }
  { x with core0 := core, core1 := core, running := true }

/-! ## Regions, levels and fetch -/

/-- The access kinds that a region grants (R56). -/
inductive Access where
  | read | write | exec
deriving DecidableEq, Repr

/-- Whether the first enabled region that matches grants an access; none matching refuses it (R56). -/
def Core.regionOk (x : Core) (a : Nat) (k : Access) : Bool :=
  let hit := (List.finRange 16).find? fun i =>
    bit (x.rgnL[i]).toNat 0 && decide (bits (x.rgnB[i]).toNat 31 6 ≤ bits a 31 6)
      && decide (bits a 31 6 ≤ bits (x.rgnL[i]).toNat 31 6)
  let p := (match k with | .read => 0 | .write => 1 | .exec => 2) + (match x.level with | .s => 3 | _ => 0)
  match x.level, hit with
  | .k, _ => true
  | _, some i => bit (x.rgnB[i]).toNat p
  | _, none => false

/-- The fetch of the instruction at pc (R56, R76, R77): the exception it raises, if any. A word in memory is read
through the decoder; the fetch is neither counted nor snooped, since the instruction cache may have served it. -/
def State.fetch (s : State) (l : Lane) (c : CoreId) : Option (Nat × Word) × State :=
  let x := s.core l c
  let a := x.pc.toNat
  if x.regionOk a .exec = false then (some (exProt, x.pc), s)
  else if isSram a || isDram a then
    let q := s.readStored l 0 (a / 8 * 8)
    let r := match q.1 with
      | some v => q.2.cross l (.fetch c) 0 (a / 8 * 8) v
      | none => q
    match r.1 with
    | some _ => (none, r.2)
    | none => (some (exUncorr, BitVec.ofNat 64 (a / 8 * 8)), r.2)
  else (some (exFetchBus, x.pc), s)

/-- The core can issue an instruction: its lane's cores are released and it does not wait. -/
def State.canIssue (s : State) (l : Lane) (c : CoreId) : Bool :=
  (s.lane l).running && decide ((s.core l c).wait = .none)

/-- The frame of every control-core instruction: a pending enabled interrupt is taken first (R80); then the fetch is
checked (R77); then, unless the level is below the lowest one the instruction may run at (R69), the body runs. -/
def State.issue (s : State) (l : Lane) (c : CoreId) (lowest : Level) (body : State → State) : State :=
  if s.canIssue l c = false then s
  else if (s.core l c).takesInterrupt then s.interrupt l c
  else
    match s.fetch l c with
    | (some e, s1) => s1.exception l c e.1 e.2
    | (none, s1) => if lowest.le (s1.core l c).level then body s1 else s1.exception l c exPriv 0

/-- The instruction has completed: pc + 4, and one instruction retired. -/
def State.retire (s : State) (l : Lane) (c : CoreId) : State :=
  (s.onCore l c fun x => { x with pc := x.pc + 4 }).pmc l 1 0 (.level (s.core l c).level.code)

/-- An instruction whose only effect is on its core. -/
def State.coreOp (s : State) (l : Lane) (c : CoreId) (lowest : Level) (f : Core → Core) : State :=
  s.issue l c lowest fun s => (s.onCore l c f).retire l c

/-! ## The settings record (R517) -/

/-- The non-safety settings record changed (R517). -/
def State.onSettings (s : State) (f : Settings → Settings) : State := { s with log := { s.log with settings := f s.log.settings } }

/-- The settings record takes the value of a lane's register, as the register stands (R517; log entry 182). -/
def State.keepSetting (s : State) (l : Lane) (a : Nat) : State :=
  s.onSettings fun x => { x with regs := (x.regs.filter fun r => r.1 != l.code || r.2.1 != a) ++ [(l.code, a, s.laneReg l a)] }

end Sys2Proof.Machine
end

