-- ==== Sys2Proof/Machine/Flags.lean ====
section
/-! DEFINITION. Machine/Flags.lean: the flags N, Z, C and V of the control cores, the tests of BC, and the arithmetic
conditions that trap (chapter 02). -/
namespace Sys2Proof.Machine

/-- The four flags of PSW 15:12 (R53). -/
structure FlagSet where
  n : Bool
  z : Bool
  c : Bool
  v : Bool
deriving DecidableEq, Repr

/-- The flags of the 64-bit addition a + b + cin (R59 and the paragraph above it). -/
def addFlags (a b : Word) (cin : Nat) : FlagSet :=
  let r : Word := a + b + BitVec.ofNat 64 cin
  { n := r.msb, z := decide (r = 0), c := decide (2 ^ 64 ≤ a.toNat + b.toNat + cin)
    v := a.msb == b.msb && r.msb != a.msb }

/-- The flags of a comparison or subtraction: ga + ~gb + 1 (R59). -/
def subFlags (a b : Word) : FlagSet := addFlags a (~~~b) 1

/-- PSW with the flags replaced; every other bit stays. -/
def pswWithFlags (psw : Word) (f : FlagSet) : Word :=
  (psw &&& ~~~(0xF000 : Word)) |||
    BitVec.ofNat 64 (ofBool f.n * 0x8000 + ofBool f.z * 0x4000 + ofBool f.c * 0x2000 + ofBool f.v * 0x1000)

/-- The flags that a PSW holds. -/
def Core.flags (x : Core) : FlagSet :=
  { n := bit x.psw.toNat 15, z := bit x.psw.toNat 14, c := bit x.psw.toNat 13, v := bit x.psw.toNat 12 }

/-- Flags set on a core. -/
def Core.setFlags (x : Core) (f : FlagSet) : Core := { x with psw := pswWithFlags x.psw f }

/-- The eight tests of BC by bits 2:0 of cond (chapter 02, "Branches and jumps"). -/
def FlagSet.test (f : FlagSet) : Nat → Bool
  | 0 => f.z
  | 1 => f.c
  | 2 => f.n
  | 3 => f.v
  | 4 => f.c && !f.z
  | 5 => f.n == f.v
  | 6 => !f.z && f.n == f.v
  | _ => true

/-- Whether cond holds: bit 3 negates the test that bits 2:0 select. -/
def FlagSet.holds (f : FlagSet) (cond : BitVec 4) : Bool :=
  if bit cond.toNat 3 then !(f.test (bits cond.toNat 2 0)) else f.test (bits cond.toNat 2 0)

/-- Whether an integer lies outside the signed 64-bit range. -/
def outsideInt64 (v : Int) : Bool := decide (v < -(2 ^ 63)) || decide (2 ^ 63 ≤ v)

/-- The operands on which DIV and REM trap. -/
def divTraps (a b : Word) : Bool := decide (b = 0) || (decide (a = BitVec.intMin 64) && decide (b = -1))

end Sys2Proof.Machine
end

