-- ==== Sys2Proof/Machine/Logic.lean ====
section
/-! DEFINITION. Machine/Logic.lean: element logic. State codes, operand references, coded values, the encoding of logic
words and what each instruction computes (chapter 03). -/
namespace Sys2Proof.Machine

/-! ## State codes (R98 to R100) -/

/-- The five patterns H1 to H5. -/
def codePattern : Nat → Nat
  | 0 => 0x55555555
  | 1 => 0x33333333
  | 2 => 0x0F0F0F0F
  | 3 => 0x00FF00FF
  | _ => 0x0000FFFF

/-- The state code with index i (R98). -/
def stateCode (i : Nat) : Nat :=
  let x := (List.range 5).foldl (fun a j => if bit i j then a ^^^ codePattern j else a) 0
  if bit i 5 then x ^^^ 0xFFFFFFFF else x

/-- Whether an index names a state code: 1 to 63 but not 32. -/
def codeIndexOk (i : Nat) : Bool := decide (1 ≤ i) && decide (i ≤ 63) && decide (i ≠ 32)

/-- FALSE and TRUE (R99). -/
def codeFalse : Nat := stateCode 6
def codeTrue : Nat := stateCode 38

/-- TRUE or FALSE. -/
def boolCode (b : Bool) : Nat := if b then codeTrue else codeFalse

/-- UNKNOWN (R100). -/
def codeUnknown : Nat := stateCode 2

/-! ## Operand references (R114) -/

def refId (r : Ref) : Nat := bits r.toNat 31 18
def refWord (r : Ref) : Nat := bits r.toNat 17 14
def refSpace (r : Ref) : Nat := bits r.toNat 13 12
def refExp (r : Ref) : Nat := bits r.toNat 11 6
def refMode (r : Ref) : Nat := bits r.toNat 5 0

/-- The reference with EXP and MODE cleared. -/
def refBare (r : Ref) : Ref := r &&& 0xFFFFF000

/-- A reference from SPACE, ID and WORD. -/
def mkRef (space id word : Nat) : Ref := BitVec.ofNat 32 (id * 2 ^ 18 + word * 2 ^ 14 + space * 2 ^ 12)

/-- Another word of the same record. -/
def refAt (r : Ref) (word : Nat) : Ref := mkRef (refSpace r) (refId r) word

/-- The form that every reference must have (R114). -/
def refLegal (r : Ref) : Bool :=
  match refSpace r with
  | 0 => true
  | 1 => decide (refId r < 0x2000) && decide (refWord r < 8)
  | 2 => decide (refId r < 64) && decide (refWord r = 0)
  | _ => false

/-- Whether a reference names a temporary. -/
def refTemp (r : Ref) : Bool := decide (refSpace r = 2)

/-- A legal reference with EXP and MODE zero. -/
def refPlain (r : Ref) : Bool := refLegal r && decide (refExp r = 0) && decide (refMode r = 0)

/-- The offset of a state word's plain word from STATE_BASE (R93). -/
def refOffset (r : Ref) : Nat :=
  if refSpace r = 1 then 0x400000 + 128 * refId r + 16 * refWord r else 256 * refId r + 16 * refWord r

/-! ## Footprint, scratch words and static signatures (R94, R97, R106) -/

/-- The record of a footprint that holds a word. -/
def footRec (t : TaskImage) (r : Ref) : Option FootRec :=
  t.footprint.find? fun f => f.route == decide (refSpace r = 1) && f.id == refId r

/-- Whether a state word lies in the footprint. -/
def inFoot (t : TaskImage) (r : Ref) : Bool := (footRec t r).isSome

/-- Whether a word of the footprint is scratch. -/
def isScratch (t : TaskImage) (r : Ref) : Bool :=
  match footRec t r with
  | some f => bit f.scratch (refWord r)
  | none => false

/-- The words of a footprint record in word order. -/
def footWords (f : FootRec) : List Ref :=
  (List.range (if f.route then 8 else 16)).map fun w => mkRef (ofBool f.route) f.id w

/-- The static signature B of a state word, from the image. -/
def sigB (t : TaskImage) (r : Ref) : Nat :=
  match t.words.find? fun w => w.1 == refBare r with
  | some w => w.2.2
  | none => 0

/-! ## Coded values (R103, R104) -/

/-- The coded word A·n + B + D mod 2^64. -/
def encodeWord (a n b d : Nat) : Word := BitVec.ofNat 64 (a * n + b + d)

/-- The functional value of a coded word read with B and D, when it is valid. -/
def decodeCoded (a : Nat) (c : Word) (b d : Nat) : Option Nat :=
  let x := (c - BitVec.ofNat 64 (b + d)).toNat
  if x % a = 0 ∧ x < a * 2 ^ 32 then some (x / a) else none

/-! ## Encoding of logic instructions (R113, R115, R116) -/

/-- The opcode byte. -/
def Op.byte : Op → Nat
  | .mov => 0x01 | .ldi => 0x02 | .add => 0x03 | .sub => 0x04 | .not => 0x05 | .sel => 0x06
  | .all => 0x10 | .any => 0x11 | .conf => 0x12 | .flank => 0x13 | .flreq => 0x14
  | .lock => 0x18 | .unlock => 0x19 | .route => 0x20 | .rrel => 0x21 | .tmr => 0x28 | .edge => 0x29
  | .carry => 0x30 | .seal => 0x31 | .skipf => 0x38 | .skipt => 0x39 | .endp => 0x3F

/-- The opcode of a byte; every other byte is not assigned. -/
def opOfByte (b : Nat) : Option Op :=
  [.mov, .ldi, .add, .sub, .not, .sel, .all, .any, .conf, .flank, .flreq, .lock, .unlock, .route, .rrel, .tmr, .edge,
    .carry, .seal, .skipf, .skipt, .endp].find? fun o => Op.byte o == b

/-- The words of an instruction: its head word and ⌈NOPS/2⌉ operand words. -/
def LogicIns.size (i : LogicIns) : Nat := 1 + (i.slots.length + 1) / 2

/-- The NOPS range of an opcode (R116). -/
def Op.nops : Op → Nat × Nat
  | .mov | .ldi | .not | .tmr | .skipf | .skipt => (1, 1)
  | .add | .sub | .edge => (2, 2)
  | .sel => (3, 3)
  | .all | .any | .carry | .seal => (1, 8)
  | .conf | .flank | .flreq | .lock | .unlock | .rrel => (2, 8)
  | .route => (7, 7)
  | .endp => (0, 0)

/-- A slot that names a word w of an element. -/
def slotElement (w : Nat) (r : Ref) : Bool := refLegal r && decide (refSpace r = 0) && decide (refWord r = w)

/-- A slot that names word 0 of a route, with EXP zero. -/
def slotRoute (r : Ref) : Bool :=
  refLegal r && decide (refSpace r = 1) && decide (refWord r = 0) && decide (refExp r = 0)

/-- The checks on the slots of an opcode (R115, R116, R121 and the descriptions of chapter 03). DESIGN CHOICE: a word of the wrong
kind is told by SPACE and WORD; the KIND of the element that it belongs to is not looked at (log entry 159). -/
def slotsOk (o : Op) (slots : List Ref) : Bool :=
  match o, slots with
  | .ldi, _ => true
  | .all, s | .any, s => s.all fun r => refLegal r && codeIndexOk (refExp r) && decide (refMode r = 0)
  | .conf, s => s.all fun r => slotRoute r && decide (refMode r = 0)
  | .flank, own :: s | .flreq, own :: s =>
    slotRoute own && decide (refMode own = 0) &&
      s.all fun r => slotElement 2 r && (decide (refExp r = 3) || decide (refExp r = 4)) && decide (refMode r = 0)
  | .lock, own :: s | .unlock, own :: s =>
    slotRoute own && decide (refMode own ≤ 1) &&
      s.all fun r => slotElement 4 r && decide (refExp r = 0) && decide (refMode r = 0)
  | .route, own :: s => slotRoute own && decide (refMode own = 0) && s.all refPlain
  | .rrel, own :: s =>
    slotRoute own && decide (refMode own = 0) &&
      s.all fun r => slotElement 2 r && decide (refExp r = 0) && decide (refMode r ≤ 2)
  | .edge, [src, mem] =>
    refLegal src && decide (refMode src = 0) && refLegal mem && decide (refExp mem = 0) &&
      ((decide (refSpace mem = 0) && (decide (refWord mem = 14) || decide (refWord mem = 15)))
        || (decide (refSpace mem = 1) && decide (refWord mem = 6))) &&
      (if refMode mem = 4 then decide (refExp src = 0)
       else decide (1 ≤ refMode mem) && decide (refMode mem ≤ 3) && codeIndexOk (refExp src))
  | .carry, s => s.all fun r => refPlain r && !(refTemp r) && decide (refWord r = 0)
  | _, s => s.all refPlain

/-- The checks on DST and IMM20 of an opcode. A temporary destination needs a nonzero signature (R106). -/
def dstOk (o : Op) (imm : Nat) (dst : Ref) : Bool :=
  match o with
  | .mov | .ldi | .add | .sub | .not | .sel => refPlain dst && (if refTemp dst then decide (imm ≠ 0) else decide (imm = 0))
  | .all | .any | .conf | .flank | .lock | .edge => refPlain dst && refTemp dst && decide (imm ≠ 0)
  | .flreq | .unlock | .route | .carry | .seal | .endp => decide (dst = 0) && decide (imm = 0)
  | .rrel | .skipf | .skipt => decide (dst = 0)
  | .tmr =>
    refPlain dst && ((decide (refSpace dst = 0) && (decide (refWord dst = 10) || decide (refWord dst = 12)))
      || (decide (refSpace dst = 1) && decide (refWord dst = 4)))

/-- Whether an instruction is a legal encoding (R115), its skip target apart. -/
def LogicIns.legal (i : LogicIns) : Bool :=
  decide (i.op.nops.1 ≤ i.slots.length) && decide (i.slots.length ≤ i.op.nops.2) && decide (i.imm < 2 ^ 20) &&
    slotsOk i.op i.slots && dstOk i.op i.imm i.dst

/-- The head word of an instruction (R113). -/
def LogicIns.head (i : LogicIns) : Word :=
  BitVec.ofNat 64 (i.op.byte * 2 ^ 56 + i.slots.length * 2 ^ 52 + i.imm * 2 ^ 32 + i.dst.toNat)

/-- Operand words: slot 2j in bits 63:32, slot 2j + 1 in bits 31:0. -/
def packSlots : List Ref → List Word
  | [] => []
  | [r] => [BitVec.ofNat 64 (r.toNat * 2 ^ 32)]
  | r :: q :: rs => BitVec.ofNat 64 (r.toNat * 2 ^ 32 + q.toNat) :: packSlots rs

/-- The words of an instruction as they stand in DRAM (R113). -/
def LogicIns.encode (i : LogicIns) : List Word := i.head :: packSlots i.slots

/-- The first n slots of operand words; none when a word is missing or the unused slot of the last word is not zero. -/
def unpackSlots : Nat → List Word → Option (List Ref)
  | 0, _ => some []
  | _, [] => none
  | 1, w :: _ => if bits w.toNat 31 0 = 0 then some [BitVec.ofNat 32 (bits w.toNat 63 32)] else none
  | n + 2, w :: ws =>
    (unpackSlots n ws).map fun rs => BitVec.ofNat 32 (bits w.toNat 63 32) :: BitVec.ofNat 32 (bits w.toNat 31 0) :: rs

/-- The instruction that a list of words begins with, from its opcode and NOPS (R113); none when the opcode is not
assigned or a word is missing. -/
def decodeLogic (ws : List Word) : Option LogicIns :=
  match ws with
  | [] => none
  | h :: rest =>
    match opOfByte (bits h.toNat 63 56) with
    | none => none
    | some o =>
      (unpackSlots (bits h.toNat 55 52) rest).map fun slots =>
        { op := o, imm := bits h.toNat 51 32, dst := BitVec.ofNat 32 (bits h.toNat 31 0), slots := slots }

/-! ## Evaluation -/

/-- What evaluation knows of the pass: lane, kind, STATE_BASE, the task's image, D, D_prev, the lane's A, the task
period in ms, committed temporaries and written map, and the older instructions in the window, youngest first. -/
structure Ctx where
  lane : Lane
  kind : PassKind
  base : Nat
  image : TaskImage
  d : Nat
  dprev : Nat
  a : Nat
  period : Nat
  temps : List (Nat × Val)
  written : List Ref
  older : List Held
deriving DecidableEq, Repr

/-- Evaluation in progress: machine state, words assigned so far in first-assignment order with their plain values and
raw words, references read, and the deferred error met. -/
structure Ev where
  st : State
  out : List (Ref × Nat × Word)
  reads : List Ref
  err : Option Nat
deriving Repr

/-- A value read: plain value, coded word for the current D, and the signature that reads it. -/
structure RVal where
  n : Nat
  c : Word
  b : Nat
deriving DecidableEq, Repr

/-- The status of a code failure, a non-boolean or an unwritten temporary: 0x5 plain, 0x2 coded (R96, R99). -/
def Ctx.codeErr (c : Ctx) : Nat := if c.kind = .coded then 2 else 5

/-- An error is kept; the first one stands. -/
def Ev.fail (e : Ev) (status : Nat) : Ev := { e with err := some (e.err.getD status) }

/-- The youngest non-null held-post entry of an earlier instruction with the reference (R147). -/
def heldEntry (older : List Held) (r : Ref) : Option Entry :=
  older.findSome? fun h => h.entries.find? fun x => x.ref == r && !x.null

/-- The guards that a read of the reference inherits: those of its source and of younger instructions that name the
word as a destination (R139, R147). -/
def heldGuards (older : List Held) (r : Ref) : List Nat :=
  match older with
  | [] => []
  | h :: hs =>
    match h.entries.find? fun x => x.ref == r with
    | some x => if x.null then h.guards ++ heldGuards hs r else h.guards
    | none => heldGuards hs r

/-- The signature with which a reference is read or written: B of a state word, IMM20 for a temporary. -/
def Ctx.sig (c : Ctx) (r : Ref) : Nat := sigB c.image r

/-- A value from a raw word in the form of the pass. -/
def Ctx.take (c : Ctx) (e : Ev) (raw : Word) (b : Nat) : RVal × Ev :=
  match c.kind with
  | .coded =>
    match decodeCoded c.a raw b c.d with
    | some n => (⟨n, raw, b⟩, e)
    | none => (⟨0, raw, b⟩, e.fail 2)
  | _ => (⟨raw.toNat % 2 ^ 32, raw, b⟩, if 2 ^ 32 ≤ raw.toNat then e.fail 5 else e)

/-- The committed value of a state word, read from SRAM by the engine (R95, R108, R283). -/
def Ctx.committed (c : Ctx) (e : Ev) (r : Ref) : RVal × Ev :=
  let a := c.base + refOffset r + (if c.kind = .coded then 8 else 0)
  let m := e.st.readMem c.lane mEngine none 1 a 8
  let e1 := { e with st := m.2 }
  match m.1 with
  | none => (⟨0, 0, 0⟩, e1.fail 5)
  | some w =>
    c.take e1 (if c.kind = .coded ∧ !c.written.contains r then w + BitVec.ofNat 64 c.d - BitVec.ofNat 64 c.dprev else w)
      (c.sig r)

/-- A read of an operand: what the instruction itself assigned (R607), else the held post, else the committed value. -/
def Ctx.read (c : Ctx) (e : Ev) (ref : Ref) : RVal × Ev :=
  let r := refBare ref
  let e := { e with reads := e.reads ++ [r] }
  if e.err.isSome then (⟨0, 0, 0⟩, e)
  else
    match e.out.find? fun o => o.1 == r with
    | some o => (⟨o.2.1, o.2.2, c.sig r⟩, e)
    | none =>
      match heldEntry c.older r with
      | some x => c.take e x.val.raw x.val.sig
      | none =>
        if refTemp r then
          match assoc c.temps (refId r) with
          | some v => c.take e v.raw v.sig
          | none => (⟨0, 0, 0⟩, e.fail c.codeErr)
        else if inFoot c.image r then c.committed e r
        else (⟨0, 0, 0⟩, e.fail 5)

/-- A read of a boolean (R99). -/
def Ctx.readBool (c : Ctx) (e : Ev) (ref : Ref) : Bool × RVal × Ev :=
  let r := c.read e ref
  if r.1.n = codeTrue then (true, r)
  else if r.1.n = codeFalse then (false, r)
  else (false, r.1, r.2.fail c.codeErr)

/-- Reads of a list of operands in order. -/
def Ctx.readAll (c : Ctx) (e : Ev) : List Ref → List (Ref × RVal) × Ev
  | [] => ([], e)
  | r :: rs =>
    let x := c.read e r
    let y := c.readAll x.2 rs
    ((r, x.1) :: y.1, y.2)

/-- Reads of a list of booleans in order. -/
def Ctx.readBools (c : Ctx) (e : Ev) : List Ref → List Bool × Ev
  | [] => ([], e)
  | r :: rs =>
    let x := c.readBool e r
    let y := c.readBools x.2.2 rs
    (x.1 :: y.1, y.2)

/-- An assignment of a raw word; a word assigned twice keeps its first place and its last value (R607). -/
def Ev.put (e : Ev) (r : Ref) (n : Nat) (raw : Word) : Ev :=
  let r := refBare r
  if e.out.any fun o => o.1 == r then { e with out := e.out.map fun o => if o.1 == r then (r, n, raw) else o }
  else { e with out := e.out ++ [(r, n, raw)] }

/-- The raw word of a plain value: the value itself, or A·n + B + D. -/
def Ctx.enc (c : Ctx) (n b : Nat) : Word :=
  if c.kind = .coded then encodeWord c.a n b c.d else BitVec.ofNat 64 n

/-- An assignment of a plain value to a state word. -/
def Ctx.assign (c : Ctx) (e : Ev) (r : Ref) (n : Nat) : Ev := e.put r n (c.enc n (c.sig (refBare r)))

/-- The signature Bd of a destination: IMM20 for a temporary, B otherwise. -/
def Ctx.bd (c : Ctx) (dst : Ref) (imm : Nat) : Nat := if refTemp dst then imm else c.sig (refBare dst)

/-- An assignment of a plain value to DST. -/
def Ctx.assignDst (c : Ctx) (e : Ev) (i : LogicIns) (n : Nat) : Ev := e.put i.dst n (c.enc n (c.bd i.dst i.imm))

/-- An assignment to DST with the coded formula of its instruction. -/
def Ctx.assignFormula (c : Ctx) (e : Ev) (i : LogicIns) (n : Nat) (coded : Word) : Ev :=
  e.put i.dst n (if c.kind = .coded then coded else BitVec.ofNat 64 n)

/-- A number as a word, for the coded formulas. -/
def wd (n : Nat) : Word := BitVec.ofNat 64 n

/-- MOV: c0 − B0 + Bd. -/
def Ctx.movFormula (_c : Ctx) (x : RVal) (bd : Nat) : Word := x.c - wd x.b + wd bd
/-- ADD: c0 + c1 − B0 − B1 + Bd − D. -/
def Ctx.addFormula (c : Ctx) (x y : RVal) (bd : Nat) : Word := x.c + y.c - wd x.b - wd y.b + wd bd - wd c.d
/-- SUB: c0 − c1 − B0 + B1 + Bd + D. -/
def Ctx.subFormula (c : Ctx) (x y : RVal) (bd : Nat) : Word := x.c - y.c - wd x.b + wd y.b + wd bd + wd c.d
/-- NOT: A·0xFFFFFFFF − c0 + B0 + Bd + 2D. -/
def Ctx.notFormula (c : Ctx) (x : RVal) (bd : Nat) : Word := wd (c.a * 0xFFFFFFFF) - x.c + wd x.b + wd bd + wd (2 * c.d)

/-- det(EXP) of FLANK (R121). -/
def detCode (exp : Nat) : Nat := if exp = 3 then stateCode 1 else stateCode 4

/-- FLANK's test of one point: detection and flank requirement. DESIGN CHOICE: both words are read in every case (log entry 158). -/
def Ctx.flankSlot (c : Ctx) (e : Ev) (r : Ref) : Bool × Ev :=
  let d := c.read e r
  let f := c.read d.2 (refAt r 6)
  (d.1.n == detCode (refExp r) && (f.1.n == stateCode 1 || f.1.n == stateCode (refExp r)), f.2)

/-- FLANK over its points. -/
def Ctx.flankAll (c : Ctx) (e : Ev) : List Ref → Bool × Ev
  | [] => (true, e)
  | r :: rs =>
    let x := c.flankSlot e r
    let y := c.flankAll x.2 rs
    (x.1 && y.1, y.2)

/-- FLREQ at one point. -/
def Ctx.flreqSlot (c : Ctx) (e : Ev) (r : Ref) : Ev :=
  let f := c.read e (refAt r 6)
  let want := stateCode (refExp r)
  c.assign f.2 (refAt r 6) (if f.1.n = stateCode 1 ∨ f.1.n = want then want else stateCode 5)

/-- The lock kind of MODE: ROUTE for 0, OVERLAP for 1. -/
def lockKind (mode : Nat) : Nat := if mode = 0 then stateCode 3 else stateCode 4

/-- LOCK's test of one element: free, or held by the route with the same kind. DESIGN CHOICE: both words are read in every case
(log entry 158). -/
def Ctx.lockFree (c : Ctx) (e : Ev) (own kind : Nat) : List Ref → Bool × Ev
  | [] => (true, e)
  | r :: rs =>
    let a := c.read e (refAt r 4)
    let b := c.read a.2 (refAt r 5)
    let y := c.lockFree b.2 own kind rs
    ((a.1.n == stateCode 1 || (b.1.n == own && a.1.n == kind)) && y.1, y.2)

/-- UNLOCK at one element. DESIGN CHOICE: both words are read in every case (log entry 158). -/
def Ctx.unlockSlot (c : Ctx) (own kind : Nat) (e : Ev) (r : Ref) : Ev :=
  let a := c.read e (refAt r 4)
  let b := c.read a.2 (refAt r 5)
  if b.1.n = own ∧ a.1.n = kind then c.assign (c.assign b.2 (refAt r 4) (stateCode 1)) (refAt r 5) 0x2000 else b.2

/-- The transition of a route (R126): the new state, and whether RELPTR is set to 0. -/
def routeNext (s q : Nat) (c1 c2 c3 c4 c5 c6 : Bool) : Nat × Bool :=
  let idle := stateCode 1
  let requested := stateCode 3
  let calling := stateCode 4
  let locked := stateCode 5
  let opened := stateCode 6
  let inUse := stateCode 7
  let cancelling := stateCode 8
  let set := stateCode 3
  let cancel := stateCode 4
  if s = idle ∧ q = set then (requested, true)
  else if s = requested ∨ s = calling ∨ s = locked then
    if q = cancel then (idle, false)
    else if s = requested ∧ c1 then (calling, false)
    else if s = calling ∧ c2 then (locked, false)
    else if s = locked ∧ c3 then (opened, false)
    else (s, false)
  else if s = opened then
    if c4 then (inUse, false)
    else if q = cancel ∧ c5 then (idle, false)
    else if q = cancel then (cancelling, false)
    else (s, false)
  else if s = cancelling then
    if c4 then (inUse, false) else if c6 then (idle, false) else (s, false)
  else (s, false)

/-- RREL: every section slot found occupied is marked seen. -/
def Ctx.rrelSeen (c : Ctx) (e : Ev) : List Ref → Ev
  | [] => e
  | r :: rs =>
    if refMode r = 0 then
      let d := c.read e r
      c.rrelSeen (if d.1.n = stateCode 3 then c.assign d.2 (refAt r 6) (stateCode 3) else d.2) rs
    else c.rrelSeen e rs

/-- The slots from the n-th section slot on (MODE 0), that slot first. -/
def sectionFrom (slots : List Ref) (n : Nat) : List Ref :=
  match slots with
  | [] => []
  | r :: rs =>
    if refMode r = 0 then
      match n with
      | 0 => r :: rs
      | m + 1 => sectionFrom rs m
    else sectionFrom rs n

/-- The elements released with a section: the MODE 2 slots whose nearest preceding section slot it is. -/
def releasedWith : List Ref → List Ref
  | [] => []
  | r :: rs => if refMode r = 0 then [] else if refMode r = 2 then r :: releasedWith rs else releasedWith rs

/-- RREL releases the section at the head of the list (R127). -/
def Ctx.rrelRelease (c : Ctx) (e : Ev) (own : Ref) (i : Nat) (last : Bool) (j : Ref) (rest : List Ref) : Ev :=
  let e1 := (j :: releasedWith rest).foldl
    (fun e r => c.assign (c.assign e (refAt r 4) (stateCode 1)) (refAt r 5) 0x2000) e
  let e2 := c.assign (c.assign e1 (refAt j 6) (stateCode 1)) (refAt own 2) (i + 1)
  if last then c.assign e2 own (stateCode 1) else e2

/-- RREL (R127 and its pseudocode). -/
def Ctx.rrel (c : Ctx) (e : Ev) (own : Ref) (first : Nat) (slots : List Ref) : Ev :=
  let s := c.read e own
  if s.1.n ≠ stateCode 7 then s.2
  else
    let e1 := c.rrelSeen s.2 slots
    let p := c.read e1 (refAt own 2)
    let i := p.1.n
    match (if i < first then [] else sectionFrom slots (i - first)) with
    | [] => p.2
    | j :: rest =>
      let n := c.read p.2 (refAt own 3)
      let last := decide (i + 1 = n.1.n)
      let rls := c.read n.2 (refAt j 6)
      if rls.1.n ≠ stateCode 3 then rls.2
      else if last then c.rrelRelease rls.2 own i true j rest
      else
        match rest.find? fun r => decide (refMode r ≤ 1) with
        | none => rls.2
        | some nxt =>
          let d := c.read rls.2 j
          let x := c.read d.2 nxt
          if d.1.n = stateCode 1 ∧ x.1.n = stateCode 3 then c.rrelRelease x.2 own i false j rest else x.2

/-- TMR (R128). -/
def Ctx.tmr (c : Ctx) (e : Ev) (i : LogicIns) (run : Ref) : Ev :=
  let idle := stateCode 1
  let running := stateCode 3
  let expired := stateCode 4
  let trem := refAt i.dst (refWord i.dst + 1)
  let b := c.readBool e run
  if !b.1 then c.assign (c.assign b.2.2 i.dst idle) trem 0
  else
    let t := c.read b.2.2 i.dst
    if t.1.n = idle then
      c.assign (c.assign t.2 trem i.imm) i.dst (if i.imm = 0 then expired else running)
    else if t.1.n = running then
      let m := c.read t.2 trem
      let left := m.1.n - c.period
      let e1 := c.assign m.2 trem left
      if left = 0 then c.assign e1 i.dst expired else e1
    else t.2

/-- EDGE (R130). -/
def Ctx.edge (c : Ctx) (e : Ev) (i : LogicIns) (src mem : Ref) : Ev :=
  let p := c.read e mem
  let v := c.read p.2 src
  let x := stateCode (refExp src)
  let prev := p.1.n
  let cur := v.1.n
  let rise := cur == x && prev != x
  let fall := prev == x && cur != x
  let hit := match refMode mem with
    | 1 => rise
    | 2 => fall
    | 3 => rise || fall
    | _ => cur != prev
  c.assign (c.assignDst v.2 i (boolCode hit)) mem cur

/-- CARRY: every non-scratch word of a record written again with its current value (R131). -/
def Ctx.carryRec (c : Ctx) (e : Ev) (r : Ref) : Ev :=
  match footRec c.image r with
  | none => e.fail 5
  | some f =>
    ((footWords f).filter fun w => !isScratch c.image w).foldl
      (fun e w =>
        let x := c.read e w
        c.assign x.2 w x.1.n) e

/-- SEAL: the value of each slot, to be folded (R133); a scratch word is never folded (R97). -/
def Ctx.sealSlots (c : Ctx) (e : Ev) : List Ref → List (Ref × Nat) × Ev
  | [] => ([], e)
  | r :: rs =>
    let x := c.read e r
    let y := c.sealSlots x.2 rs
    ((if !refTemp r && isScratch c.image r then y.1 else (refBare r, x.1.n) :: y.1), y.2)

/-- What an instruction computes on a legal encoding: the evaluation, the values SEAL folds, and whether a skip is
taken. DESIGN CHOICE: ROUTE reads its six conditions in every execution (log entry 158). -/
def Ctx.compute (c : Ctx) (e : Ev) (i : LogicIns) : Ev × List (Ref × Nat) × Bool :=
  let bd := c.bd i.dst i.imm
  match i.op, i.slots with
  | .mov, [s] =>
    let x := c.read e s
    (c.assignFormula x.2 i x.1.n (c.movFormula x.1 bd), [], false)
  | .ldi, [lit] => (c.assignDst e i lit.toNat, [], false)
  | .add, [s0, s1] =>
    let x := c.read e s0
    let y := c.read x.2 s1
    let n := x.1.n + y.1.n
    if 2 ^ 32 ≤ n then (y.2.fail c.codeErr, [], false)
    else (c.assignFormula y.2 i n (c.addFormula x.1 y.1 bd), [], false)
  | .sub, [s0, s1] =>
    let x := c.read e s0
    let y := c.read x.2 s1
    if x.1.n < y.1.n then (y.2.fail c.codeErr, [], false)
    else (c.assignFormula y.2 i (x.1.n - y.1.n) (c.subFormula x.1 y.1 bd), [], false)
  | .not, [s] =>
    let x := c.readBool e s
    (c.assignFormula x.2.2 i (0xFFFFFFFF - x.2.1.n) (c.notFormula x.2.1 bd), [], false)
  | .sel, [cond, t, f] =>
    let b := c.readBool e cond
    let x := c.read b.2.2 t
    let y := c.read x.2 f
    let v := if b.1 then x.1 else y.1
    (c.assignFormula y.2 i v.n (c.movFormula v bd), [], false)
  | .all, s =>
    let x := c.readAll e s
    (c.assignDst x.2 i (boolCode (x.1.all fun p => p.2.n == stateCode (refExp p.1))), [], false)
  | .any, s =>
    let x := c.readAll e s
    (c.assignDst x.2 i (boolCode (x.1.any fun p => p.2.n == stateCode (refExp p.1))), [], false)
  | .conf, own :: s =>
    let x := c.readAll e s
    let ok := x.1.all fun p => p.2.n == stateCode 1 || (p.2.n == stateCode 3 && decide (refId own < refId p.1))
    (c.assignDst x.2 i (boolCode ok), [], false)
  | .flank, _ :: s =>
    let x := c.flankAll e s
    (c.assignDst x.2 i (boolCode x.1), [], false)
  | .flreq, own :: s =>
    let r := c.read e own
    if [stateCode 5, stateCode 6, stateCode 7, stateCode 8].contains r.1.n then (s.foldl c.flreqSlot r.2, [], false)
    else (r.2, [], false)
  | .lock, own :: s =>
    let kind := lockKind (refMode own)
    let x := c.lockFree e (refId own) kind s
    let e1 := if x.1 then s.foldl (fun e r => c.assign (c.assign e (refAt r 4) kind) (refAt r 5) (refId own)) x.2 else x.2
    (c.assignDst e1 i (boolCode x.1), [], false)
  | .unlock, own :: s => (s.foldl (c.unlockSlot (refId own) (lockKind (refMode own))) e, [], false)
  | .route, [own, r1, r2, r3, r4, r5, r6] =>
    let s := c.read e own
    let q := c.read s.2 (refAt own 1)
    let b := c.readBools q.2 [r1, r2, r3, r4, r5, r6]
    let g (k : Nat) : Bool := b.1.getD k false
    let nx := routeNext s.1.n q.1.n (g 0) (g 1) (g 2) (g 3) (g 4) (g 5)
    let e1 := if nx.2 then c.assign b.2 (refAt own 2) 0 else b.2
    (c.assign (c.assign e1 own nx.1) (refAt own 1) (stateCode 1), [], false)
  | .rrel, own :: s => (c.rrel e own i.imm s, [], false)
  | .tmr, [run] => (c.tmr e i run, [], false)
  | .edge, [src, mem] => (c.edge e i src mem, [], false)
  | .carry, s => (s.foldl c.carryRec e, [], false)
  | .seal, s =>
    let x := c.sealSlots e s
    (x.2, x.1, false)
  | .skipf, [cond] =>
    let b := c.readBool e cond
    (b.2.2, [], !b.1)
  | .skipt, [cond] =>
    let b := c.readBool e cond
    (b.2.2, [], b.1)
  | _, _ => (e, [], false)

/-- Whether an opcode has a destination in DST (R116). -/
def Op.hasDst : Op → Bool
  | .flreq | .unlock | .route | .rrel | .carry | .seal | .skipf | .skipt | .endp => false
  | _ => true

/-- The destination of an instruction, if it has one. -/
def LogicIns.dests (i : LogicIns) : List Ref := if i.op.hasDst then [i.dst] else []

/-- The words that an instruction may write beside those it assigned (R146). -/
def mayWrite (i : LogicIns) : List Ref :=
  match i.op, i.slots with
  | .flreq, _ :: s => s.map fun r => refAt r 6
  | .lock, _ :: s | .unlock, _ :: s => s.flatMap fun r => [refAt r 4, refAt r 5]
  | .route, own :: _ => [refAt own 2]
  | .rrel, own :: s =>
    [refAt own 0, refAt own 2] ++ s.flatMap fun r =>
      if refMode r = 0 then [refAt r 4, refAt r 5, refAt r 6] else if refMode r = 2 then [refAt r 4, refAt r 5] else []
  | .tmr, _ => [i.dst, refAt i.dst (refWord i.dst + 1)]
  | _, _ => []

/-- Every word that an instruction may write. -/
def writesOf (t : TaskImage) (i : LogicIns) : List Ref :=
  i.dests.map refBare ++ mayWrite i ++
    match i.op, i.slots with
    | .route, own :: _ => [refAt own 0, refAt own 1]
    | .edge, [_, mem] => [refBare mem]
    | .carry, s => s.flatMap fun r =>
      match footRec t r with
      | some f => (footWords f).filter fun w => !isScratch t w
      | none => []
    | _, _ => []

/-- The state words that an instruction names, for the footprint check (R94). -/
def namedWords (i : LogicIns) : List Ref :=
  let slots := if i.op = .ldi then [] else i.slots
  (slots ++ i.dests).filter fun r => !refTemp r

/-- The entries of an evaluated instruction: the words assigned, in first-assignment order, then null entries. -/
def Ctx.entriesOf (c : Ctx) (i : LogicIns) (e : Ev) : List Entry :=
  let sg (r : Ref) : Nat := if refTemp r then i.imm else c.sig r
  let full := e.out.map fun o => { ref := o.1, val := ⟨o.2.2, sg o.1⟩, plain := o.2.1, null := false : Entry }
  let null := (mayWrite i).eraseDups.filter fun r => !(e.out.any fun o => o.1 == r)
  full ++ null.map fun r => { ref := r, val := ⟨0, sg r⟩, plain := 0, null := true }

/-- An instruction evaluated in a pass: the state after its reads, and what the window holds of it. `past` says that its words
reach past LOGIC_END. -/
def Ctx.eval (c : Ctx) (s : State) (off : Nat) (i : LogicIns) (past : Bool) (own : List Nat) : State × Held :=
  let e0 : Ev := { st := s, out := [], reads := [], err := none }
  let bad := past || !i.legal || (namedWords i).any fun r => !(inFoot c.image (refBare r))
  let r := if bad then (e0.fail 5, [], false) else c.compute e0 i
  let e := r.1
  let guards := (own ++ e.reads.flatMap fun x => heldGuards c.older x).eraseDups
  (e.st,
   { off := off, size := i.size, ins := i
     entries := if e.err.isSome then [] else c.entriesOf i e
     folds := if e.err.isSome then [] else r.2.1
     reads := e.reads, err := e.err, predicted := false, taken := r.2.2, guards := guards })

end Sys2Proof.Machine
end

