-- ==== Sys2Proof/Machine/Operands.lean ====
section
/-! DEFINITION. Machine/Operands.lean: the operand forms of the control-core instructions: register values, immediates,
effective addresses, branch targets and shifts (chapter 02), and the encoding of format B. -/
namespace Sys2Proof.Machine

/-- zext(imm16). -/
def zext16 (i : BitVec 16) : Word := i.zeroExtend 64

/-- The target of a branch: pc + sext(off16) × 4. -/
def Core.target16 (x : Core) (off : BitVec 16) : Word := x.pc + off.signExtend 64 * 4

/-- The target of J and JAL: pc + sext(off26) × 4. -/
def Core.target26 (x : Core) (off : BitVec 26) : Word := x.pc + off.signExtend 64 * 4

/-- The shift types of SHI: 0 SLL, 1 SRL, 2 SRA, 3 ROR. -/
def shiftBy (t : BitVec 2) (a : Word) (n : Nat) : Word :=
  match t.toNat with
  | 0 => a <<< n
  | 1 => a >>> n
  | 2 => a.sshiftRight n
  | _ => a.rotateRight n

/-- The shift amount that a register gives: its bits 5:0. -/
def shiftAmount (b : Word) : Nat := b.toNat % 64

/-- Count of leading zero bits, 64 for zero. -/
def clz (a : Word) : Nat := 64 - (if a = 0 then 0 else Nat.log2 a.toNat + 1)

/-- The quarter k of a word replaced. -/
def insertQuarter (w : Word) (k : BitVec 2) (i : BitVec 16) : Word := mergeBytes w (2 * k.toNat) 2 (zext16 i)

/-- The word of BC cond, off, which an illegal cond reports in EADDR (format B, opcode 0x26; R58, R76). -/
def bcWord (cond : BitVec 4) (off : BitVec 16) : Word := BitVec.ofNat 64 (0x26 * 2 ^ 26 + cond.toNat * 2 ^ 21 + off.toNat)

/-- The function codes of opcode 0x01 (R58). -/
def aluFunctions : List Nat :=
  [0, 1, 2, 3, 4, 5, 6, 8, 9, 0xA, 0xB, 0xC, 0xD, 0x10, 0x11, 0x12, 0x13, 0x18, 0x19, 0x1A, 0x1B, 0x1C, 0x1D, 0x1E, 0x1F,
   0x20, 0x21]

/-- Whether a 32-bit word is an encoding that R58 lets through: a listed opcode and function with every field marked
"must be zero" zero, and no BC with cond 0b1111. -/
def legalWord (w : BitVec 32) : Bool :=
  let v := w.toNat
  let op := bits v 31 26
  let gd := bits v 25 21
  let ga := bits v 20 16
  let gb := bits v 15 11
  let fn := bits v 10 0
  if op = 0x01 then
    aluFunctions.contains fn && (decide (fn ≠ 6) || decide (gd = 0)) && (decide (fn < 0x20) || decide (gb = 0))
  else if op = 0x08 ∨ op = 0x09 then decide (bits v 20 18 = 0)
  else if op = 0x0A then decide (bits v 15 8 = 0)
  else if op = 0x0B then decide (gd = 0)
  else if 2 ≤ op ∧ op ≤ 7 then true
  else if 0x10 ≤ op ∧ op ≤ 0x1B then decide (op ≠ 0x17)
  else if op = 0x1C then (decide (fn = 0) && decide (gb = 0)) || decide (fn = 1)
  else if 0x20 ≤ op ∧ op ≤ 0x25 then true
  else if op = 0x26 then !(bit v 25) && decide (ga = 0) && decide (bits v 24 21 ≠ 15)
  else if 0x28 ≤ op ∧ op ≤ 0x2A then true
  else if op = 0x30 then decide (fn ≤ 6) && decide (gd = 0) && decide (ga = 0) && decide (gb = 0)
  else if op = 0x32 then decide (ga = 0) && decide (bits v 15 12 = 0)
  else if op = 0x33 then decide (gd = 0) && decide (bits v 15 12 = 0)
  else if op = 0x34 then decide (fn ≤ 3) && decide (gb = 0)
  else false

/-- The words of ERET, MFC and MTC, which an illegal use reports in EADDR (R50, R53, R70, R76). -/
def eretWord : Word := BitVec.ofNat 64 (0x30 * 2 ^ 26 + 5)
def mfcWord (gd : GReg) (cn : BitVec 12) : Word := BitVec.ofNat 64 (0x32 * 2 ^ 26 + gd.toNat * 2 ^ 21 + cn.toNat)
def mtcWord (ga : GReg) (cn : BitVec 12) : Word := BitVec.ofNat 64 (0x33 * 2 ^ 26 + ga.toNat * 2 ^ 16 + cn.toNat)

end Sys2Proof.Machine
end

