-- ==== Sys2Proof/Machine/Engine.lean ====
section
/-! DEFINITION. Machine/Engine.lean: the route engine. Descriptors and tickets, the seal accumulator, starting, ending,
preempting and resuming a pass, look-ahead and hints, prediction and the held post (chapters 02 and 04). -/
namespace Sys2Proof.Machine

/-! ## Images and spans -/

/-- The station image in force. -/
def State.station (s : State) : Option StationBody := s.upd.active.bind fun i => i.station

/-- A task of the station image in force. -/
def State.taskImage (s : State) (t : Nat) : Option TaskImage := s.station.bind fun b => b.tasks.find? fun x => x.task == t

/-- A task without image: no footprint. -/
def noTask (t : Nat) : TaskImage :=
  { task := t, cfg := 0, stateBase := 0, logicBase := 0, logic := [], footprint := [], words := [], marks := []
    timers := [], imports := [], exports := [], index := [], control := 0, nW := 0, nI := 0, nWr := 0, cDep := 0
    rtSize := 0 }

/-- A task's image, or an empty one. -/
def State.taskImg (s : State) (t : Nat) : TaskImage := (s.taskImage t).getD (noTask t)

/-- The A of a lane (R105). -/
def State.codingA (s : State) (l : Lane) : Nat := match s.station with | some b => b.codingA.get l | none => 0

/-- First address and end address of a record in a task's state image. -/
def recSpan (base : Nat) (f : FootRec) : Nat × Nat :=
  if f.route then (base + 0x400000 + 128 * f.id, base + 0x400000 + 128 * f.id + 128)
  else (base + 256 * f.id, base + 256 * f.id + 256)

/-- The footprint span: from the lowest to the highest record address (R94, R153); none when empty. -/
def footSpan (base : Nat) (t : TaskImage) : Option (Nat × Nat) :=
  match t.footprint with
  | [] => none
  | f :: fs =>
    some (fs.foldl (fun a g => (min a.1 (recSpan base g).1, max a.2 (recSpan base g).2)) (recSpan base f))

/-- Whether two address ranges overlap. -/
def overlap (a b : Nat × Nat) : Bool := decide (a.1 < b.2) && decide (b.1 < a.2)

/-- Whether an optional span overlaps a range. -/
def spanHits (sp : Option (Nat × Nat)) (r : Nat × Nat) : Bool := match sp with | some x => overlap x r | none => false

/-- The footprint spans of every task of the image. -/
def State.allSpans (s : State) : List (Nat × Nat) :=
  match s.station with
  | some b => b.tasks.filterMap fun t => footSpan t.stateBase t
  | none => []

/-- The context slots of a lane: BASE to BASE + 144 KB, when valid (R166). -/
def State.ctxArea (s : State) (l : Lane) : Option (Nat × Nat) :=
  if s.rd l R.RTE_CTX_BASE_VALID = 1 then
    let b := s.rd l R.RTE_CTX_BASE_BASE * 0x10000
    some (b, b + 3 * 0xC000)
  else none

/-! ## Descriptors and tickets (R86 to R89) -/

/-- A descriptor's KIND. -/
def Desc.kind (d : Desc) : PassKind := if d.kindRaw = 2 then .coded else if d.kindRaw = 3 then .look else .plain

/-- The descriptor that eight words spell (R86). -/
def descOfWords (w : List Word) (alignedOk : Bool) : Desc :=
  let g (k : Nat) : Nat := (w.getD k 0).toNat
  { prio := bits (g 0) 19 16, task := bits (g 0) 11 8, kindRaw := bits (g 0) 3 0, logicBase := g 1, logicEnd := g 2
    stateBase := g 3, dsig := g 4, sealOut := g 5, hintOut := g 6
    reservedOk := alignedOk && decide (bits (g 0) 63 20 = 0) && decide (bits (g 0) 15 12 = 0)
      && decide (bits (g 0) 7 4 = 0) && decide (g 7 = 0) }

/-- The words of a descriptor, as a context record holds them. -/
def Desc.words (d : Desc) : List Word :=
  [d.prio * 2 ^ 16 + d.task * 2 ^ 8 + d.kindRaw, d.logicBase, d.logicEnd, d.stateBase, d.dsig, d.sealOut, d.hintOut, 0].map
    fun n => BitVec.ofNat 64 n

/-- The fields that R86 constrains, and the ranges of the addresses (R89, status 0x3). DESIGN CHOICE: HINT_OUT has to be 8-byte
aligned (log entry 156). -/
def Desc.fieldsOk (d : Desc) : Bool :=
  d.reservedOk && decide (1 ≤ d.kindRaw) && decide (d.kindRaw ≤ 3)
    && decide (d.logicBase % 8 = 0) && isDram d.logicBase && decide (d.logicBase < d.logicEnd)
    && decide (d.logicEnd ≤ 0xC0000000)
    && decide (d.stateBase % 64 = 0) && isSram d.stateBase
    && (if d.kindRaw = 2 then decide (d.dsig < 2 ^ 29) else decide (d.dsig = 0))
    && decide (d.sealOut % 64 = 0) && isSram d.sealOut
    && (if d.kindRaw = 3 then isSram d.hintOut && decide (d.hintOut % 8 = 0) else decide (d.hintOut = 0))

/-- The engine of a lane changed. -/
def State.onEng (s : State) (l : Lane) (f : Engine → Engine) : State := s.onLane l fun x => { x with eng := f x.eng }

/-- The engine of a lane. -/
def State.eng (s : State) (l : Lane) : Engine := (s.lane l).eng

/-- The pass that runs (R136). -/
def Engine.running (e : Engine) : Option (Pass × Run) :=
  e.queue.findSome? fun p => match p.phase with | .running r => some (p, r) | _ => none

/-- The progress of a held pass replaced. -/
def Engine.setPhase (e : Engine) (ticket : Word) (ph : Phase) : Engine :=
  { e with queue := e.queue.map fun p => if p.ticket == ticket then { p with phase := ph } else p }

/-- The progress of the running pass replaced. -/
def State.setRun (s : State) (l : Lane) (p : Pass) (r : Run) : State := s.onEng l fun e => e.setPhase p.ticket (.running r)

/-- The order level of a held pass: its PRIO, raised while it waits (R562). -/
def Pass.order (p : Pass) : Nat := min 15 (p.desc.prio + p.raised)

/-- The first of the highest passes by a measure; ties go to the earlier submission (R90). -/
def topPass (m : Pass → Nat) (ps : List Pass) : Option Pass :=
  ps.foldl (fun a p => match a with | none => some p | some q => if m q < m p then some p else some q) none

/-! ## The seal (R231 to R235) -/

/-- A fresh accumulator. -/
def accZero : SealAcc := { wcrc := 0, wpos := 0, nwin := 0, sacc := 0, nres := 0 }

/-- close() of R231; the trail entry it writes is `trailWrite`. -/
def SealAcc.close (a : SealAcc) : SealAcc :=
  { wcrc := 0, wpos := 0, nwin := a.nwin + 1, sacc := crc64 a.sacc a.wcrc, nres := a.nres }

/-- The address of trail entry n for a pass (R234). -/
def trailAddr (base : Nat) (k : PassKind) (n : Nat) : Nat := base + 8 * n + (if k = .coded then 0x8000 else 0)

/-- A closed window's WCRC is written to the trail when it is enabled for the task (R234). -/
def State.trailWrite (s : State) (l : Lane) (p : Pass) (a : SealAcc) : State :=
  if s.rd l R.CMP_SCOPE_TRAIL_EN = 1 ∧ s.rd l R.CMP_SCOPE_TRAIL_TASK = p.desc.task ∧ a.nwin < 4096 then
    s.writeWord l none mEngine none (trailAddr (s.rd l R.CMP_SCOPE_TRAIL_BASE * 0x10000) p.desc.kind a.nwin) a.wcrc
  else s

/-- fold(v) of R231. -/
def State.fold (s : State) (l : Lane) (p : Pass) (a : SealAcc) (v : Word) : State × SealAcc :=
  let a1 := { a with wcrc := crc64 a.wcrc v, wpos := a.wpos + 1, nres := a.nres + 1 }
  if a1.wpos = 4096 then (s.trailWrite l p a1, a1.close) else (s, a1)

/-- The value folded for a reference and a plain value: ref × 2^32 + n (R118). -/
def foldValue (r : Ref) (n : Nat) : Word := BitVec.ofNat 64 ((refBare r).toNat * 2 ^ 32 + n)

/-- A list of values folded in order. -/
def State.foldAll (s : State) (l : Lane) (p : Pass) (a : SealAcc) : List (Ref × Nat) → State × SealAcc
  | [] => (s, a)
  | v :: vs =>
    let r := s.fold l p a (foldValue v.1 v.2)
    r.1.foldAll l p r.2 vs

/-- The eight words of a seal record (R233). -/
def sealWords (status kind task dsig : Nat) (a : SealAcc) (final : Word) : List Word :=
  [BitVec.ofNat 64 (status * 2 ^ 60 + kind * 2 ^ 56 + task * 2 ^ 52 + dsig), a.wcrc
   , BitVec.ofNat 64 (a.nwin * 2 ^ 32 + a.wpos), a.sacc, BitVec.ofNat 64 a.nres, final, 0, 0]

/-- Words written by the engine from an address on. -/
def State.engWrite (s : State) (l : Lane) (a : Nat) : List Word → State
  | [] => s
  | w :: ws => (s.writeWord l none mEngine none a w).engWrite l (a + 8) ws

/-- The outcome that CMP gives for a task: what is sent as CLASS, V and NRES (R235, R236). -/
def LaneTask.judge (t : LaneTask) : LaneTask :=
  if t.sent.isSome then t
  else
    let bad (r : Option SealRec) : Bool := match r with | some x => decide (x.status ≠ 1) | none => false
    if bad t.plain || bad t.coded then { t with sent := some (2, 0, 0) }
    else match t.plain, t.coded with
      | some p, some q =>
        { t with sent := some ((if p.acc.nwin = q.acc.nwin ∧ p.acc.nres = q.acc.nres ∧ p.final = q.final then 0 else 1)
                              , p.final, p.acc.nres) }
      | _, _ => t

/-- A lane's knowledge of a task changed; a task number of 16 or more names none. -/
def LaneState.onTask (x : LaneState) (t : Nat) (f : LaneTask → LaneTask) : LaneState :=
  if h : t < 16 then { x with tasks := x.tasks.set t (f x.tasks[t]) h } else x

/-- What a lane knows of a task. -/
def LaneState.task (x : LaneState) (t : Nat) : LaneTask := if h : t < 16 then x.tasks[t] else resetTask

/-- The seal record of an ended plain or coded pass reaches CMP (R235); the lane's outcome follows when the task is due or
overran, or is the built-in test task of a test round set (R186), and its record goes out. DEDUCED: a pass that fails makes its
own task's outcome F and records nothing of its own, where R84 fails every due task (R92, R236; log entry 157). -/
def State.sealToCmp (s : State) (l : Lane) (r : SealRec) : State :=
  let coded := decide (r.kind = 2)
  let s1 := s.onLane l fun x =>
    (x.onTask r.task fun t =>
      let t1 := if coded then { t with coded := some r } else { t with plain := some r }
      if bit s.due r.task || t.ovr || decide (s.cyc.kind = RsKind.test) then t1.judge else t1).sendSeals x.tasks s.due s.rs
        (decide (s.st l = 2))
  if r.status = 3 then s1 else s1.setLaneReg l (if coded then R.CMP_SEAL_Q else R.CMP_SEAL_P) r.final

/-! ## Hints (R159 to R161) -/

/-- Every hint of a lane discarded. -/
def State.dropHints (s : State) (l : Lane) : State :=
  if (s.eng l).hints.isEmpty then s.onEng l fun e => { e with hintTask := none, hintUsed := false }
  else (s.onEng l fun e => { e with hints := [], hintTask := none, hintUsed := false }).pmc l 3 9 .plain

/-- The prediction of a skip at a word offset (R141): the hint's outcome, else the predictor's. True is BYPASS. The second
value says whether a hint gave it. -/
def Engine.predict (e : Engine) (useHint : Bool) (task off : Nat) : Bool × Bool :=
  let hinted := if useHint ∧ e.hintTask = some task then
      e.hints.findSome? fun h =>
        match h.skips.findIdx? fun o => o == off with
        | some i => if i < 64 ∧ bit h.known i then some (bit h.taken i) else none
        | none => none
    else none
  match hinted with
  | some t => (t, true)
  | none => (!(e.execPred.contains ((off ^^^ (task <<< 13)) % 2 ^ 17)), false)

/-- A committed skip writes its predictor entry (R142). -/
def Engine.learn (e : Engine) (task off : Nat) (taken : Bool) : Engine :=
  let i := (off ^^^ (task <<< 13)) % 2 ^ 17
  { e with execPred := if taken then e.execPred.filter (· != i) else if e.execPred.contains i then e.execPred else i :: e.execPred }

/-! ## Ending a pass -/

/-- Locks handed to an engine pass are released when it ends with status 0x1 or 0x4 (R569). -/
def State.releaseHanded (s : State) (l : Lane) (ticket : Word) : State :=
  let mine := (s.lane l).regs.filter fun p =>
    decide (R.SEM_LOCK 0 ≤ p.1) && decide (p.1 < R.SEM_LOCK 64) && decide (bits p.2.toNat 59 57 = 3)
      && decide (bits p.2.toNat 47 32 = bits ticket.toNat 63 48)
  mine.foldl (fun s p => s.setLaneReg l p.1 0) s

/-- A pass ends with a final status (R89): seal record, CMP, bank bit, D_prev, hints, locks, ticket and interrupt. The
accumulator is the one the pass ends with. -/
def State.endPass (s : State) (l : Lane) (p : Pass) (run : Option Run) (status : Nat) : State :=
  let d := p.desc
  let seals := decide (d.kindRaw = 1) || decide (d.kindRaw = 2)
  let acc0 := match run with | some r => r.acc | none => accZero
  -- END closes the open window; a status other than 0x1 leaves the accumulator as it stands
  let closing := decide (status = 1) && decide (0 < acc0.wpos)
  let s1 := if seals && closing then s.trailWrite l p acc0 else s
  let acc := if closing then acc0.close else acc0
  let final : Word := if status = 1 then crc64 acc.sacc (BitVec.ofNat 64 acc.nres) else 0
  let rec' : SealRec := { status := status, kind := d.kindRaw, task := d.task, dsig := d.dsig, acc := acc, final := final }
  let s2 := if seals && decide (status ≠ 3) then
      s1.engWrite l d.sealOut (sealWords status d.kindRaw d.task d.dsig acc final) else s1
  let s3 := if seals then s2.sealToCmp l rec' else s2
  let s4 := if d.kindRaw = 2 then
      (s3.onEng l fun e => { e with bank := Vector.ofFn fun i => if i.val = d.task then !e.bank[i] else e.bank[i] }) else s3
  let s5 := if seals then
      if status = 1 then if d.kindRaw = 2 then s4.wr l (R.RTE_DPREV_DPREV d.task) d.dsig else s4
      else s4.wr l (R.RTE_DPREV_VALID d.task) 0
    else s4
  let s6 := if (d.kindRaw = 2 ∧ (s5.eng l).hintTask = some d.task) ∨ (d.kindRaw = 3 ∧ status ≠ 1) then s5.dropHints l else s5
  let s7 := if status = 1 ∨ status = 4 then s6.releaseHanded l p.ticket else s6
  let s8 := if seals && decide (status = 1) then
      ((s7.wr l R.RTE_PASS_WORDS (match run with | some r => min r.streamed 0xFFFFFFFF | none => 0)).wr l R.RTE_PASS_CLOCKS
        s7.freshNat).drawn
    else s7
  let s9 := s8.onEng l fun e =>
    { e with
      queue := e.queue.filter fun q => q.ticket != p.ticket
      results := e.results ++ [(p.ticket, status)]
      slots := match p.phase with
        | .preempted (some n) _ => Vector.ofFn fun i => if i.val = n then false else e.slots[i]
        | _ => e.slots }
  (((s9.wr l R.RTE_STAT_LAST_STATUS status).raiseOn l p.core 3).pmc l 3 (if status = 1 then 0 else 1) .plain).transferEnds l .engine

/-- The run of a pass that has started. -/
def Pass.run (p : Pass) : Option Run :=
  match p.phase with
  | .waiting => none
  | .running r => some r
  | .preempted _ r => some r

/-- A held pass ended by its place in the queue. -/
def State.endHeld (s : State) (l : Lane) (p : Pass) (status : Nat) : State := s.endPass l p p.run status

/-- RTE_CTRL.FLUSH: every held pass ends with status 0x4, the slots are freed, hints discarded and every DPREV VALID
cleared (R177). -/
def State.flush (s : State) (l : Lane) : State :=
  let s1 := (s.eng l).queue.foldl (fun s p => s.endHeld l p 4) s
  let s2 := (s1.dropHints l).onEng l fun e => { e with slots := Vector.replicate 3 false }
  (List.range 16).foldl (fun s t => s.wr l (R.RTE_DPREV_VALID t) 0) s2

/-- Lane reset, and the start of a resynchronisation: a flush after which every earlier ticket is unknown (R183), and the
locks free and clean (R572). -/
def State.resetEngineLane (s : State) (l : Lane) : State :=
  let s1 := (s.flush l).onEng l fun e => { e with results := [] }
  s1.onLane l fun x => { x with regs := x.regs.filter fun p => !(decide (R.SEM_LOCK 0 ≤ p.1) && decide (p.1 < R.SEM_LOCK 64)) }

/-! ## Starting a pass (R94, R136, R173) -/

/-- Whether a hint header and its area meet R159. The header words are read by the engine. -/
def State.hintOk (s : State) (l : Lane) (d : Desc) (indexBase count : Nat) : Bool :=
  let own := footSpan d.stateBase (s.taskImg d.task)
  let b := s.rd l R.RTE_IMG_BASE_BASE * 0x100000
  let e := b + s.rd l R.RTE_IMG_BASE_SIZE * 0x100000
  let area := (d.hintOut, d.hintOut + 0x40 + 64 * count)
  decide (1 ≤ count) && decide (count ≤ 1024) && decide (indexBase % 16 = 0) && decide (b ≤ indexBase)
    && decide (indexBase + 16 * count ≤ e) && decide (area.2 ≤ 0x1000000)
    && !(s.allSpans.any fun x => overlap x area) && !(spanHits own area) && !(spanHits (s.ctxArea l) area)

/-- Whether a descriptor may start, hint header apart (R86, R94, R173). -/
def State.descOk (s : State) (l : Lane) (d : Desc) : Bool :=
  let b := s.rd l R.RTE_IMG_BASE_BASE * 0x100000
  let e := b + s.rd l R.RTE_IMG_BASE_SIZE * 0x100000
  let own := footSpan d.stateBase (s.taskImg d.task)
  let rec' := (d.sealOut, d.sealOut + 64)
  d.fieldsOk && (match own with | some x => decide (x.2 ≤ 0x1000000) | none => true)
    && decide (b ≤ d.logicBase) && decide (d.logicEnd ≤ e)
    && (decide (d.kindRaw ≠ 2) || decide (s.rd l (R.RTE_DPREV_VALID d.task) = 1))
    && !(s.allSpans.any fun x => overlap x rec') && !(spanHits own rec') && !(spanHits (s.ctxArea l) rec')

/-- The run of a pass at its start. -/
def State.newRun (s : State) (l : Lane) (p : Pass) : Run :=
  let bank := if h : p.desc.task < 16 then (s.eng l).bank[p.desc.task] else false
  { off := 0, window := [], temps := [], written := [], acc := accZero
    bank := if p.desc.kindRaw = 2 then !bank else bank
    dprev := s.rd l (R.RTE_DPREV_DPREV p.desc.task), streamed := 0, idone := 0, nhints := 0, look := (0, 0, 0) }

/-- The context in which an instruction of a pass is evaluated. -/
def State.ctx (s : State) (l : Lane) (p : Pass) (r : Run) (older : List Held) : Ctx :=
  { lane := l, kind := p.desc.kind, base := p.desc.stateBase, image := s.taskImg p.desc.task, d := p.desc.dsig
    dprev := r.dprev, a := s.codingA l, period := s.rd l (R.TSK_CFG_MULT p.desc.task) * s.rd l R.TSK_RSET_PERIOD
    temps := r.temps, written := r.written, older := older }

/-- Words read in order by a master: their values, or none when one of them is bad. -/
def State.readWords (s : State) (l : Lane) (master : Nat) (lvl : Option Nat) (src a : Nat) : Nat → Option (List Word) × State
  | 0 => (some [], s)
  | n + 1 =>
    let x := s.readMem l master lvl src a 8
    let y := x.2.readWords l master lvl src (a + 8) n
    (match x.1, y.1 with | some w, some ws => some (w :: ws) | _, _ => none, y.2)

/-- Words read by the engine. -/
def State.engRead (s : State) (l : Lane) (a n : Nat) : Option (List Word) × State := s.readWords l mEngine none 1 a n

/-- The first of n words from an address on that the decoder gives no value for. -/
def LaneState.firstBad (x : LaneState) (a n : Nat) : Nat :=
  (((List.range n).map fun k => a + 8 * k).find? fun w => (x.good w).isNone).getD a

/-! ### Look-ahead (R157 to R160) -/

/-- What a look-ahead segment has found: evaluated instructions, youngest first, words that are unknown, elements read,
KNOWN and TAKEN, skip offsets. -/
structure Seg where
  st : State
  held : List Held
  unknown : List Ref
  elems : List Nat
  known : Nat
  taken : Nat
  skips : List Nat
  /-- the outcome of the last skip, when it is known -/
  last : Option Bool
deriving Repr

/-- One instruction of a segment evaluated on plain values; what depends on an unknown value is unknown. `dead` says that
an earlier skip of unknown outcome covers it. -/
def Seg.step (g : Seg) (c : Ctx) (off : Nat) (i : LogicIns) (dead : Bool) : Seg :=
  let r := ({ c with older := g.held }).eval g.st off i false []
  let h := r.2
  let isSkip := decide (i.op = .skipf) || decide (i.op = .skipt)
  let unk := dead || h.err.isSome || h.reads.any fun x => g.unknown.contains x
  let n := g.skips.length
  { st := r.1
    held := if unk then g.held else h :: g.held
    unknown := if unk then g.unknown ++ writesOf c.image i
      else g.unknown.filter fun x => !(h.entries.any fun e => e.ref == x && !e.null)
    elems := g.elems ++ (h.reads.filter fun x => decide (refSpace x = 0)).map refId
    known := if isSkip && !unk && decide (n < 64) then g.known ||| (1 <<< n) else g.known
    taken := if isSkip && !unk && h.taken && decide (n < 64) then g.taken ||| (1 <<< n) else g.taken
    skips := if isSkip then g.skips ++ [off] else g.skips
    last := if isSkip && !unk then some h.taken else none }

/-- The instructions of a segment in stream order, up to an END that is not passed over (R135). `passed` is the offset up to which a taken skip passes over; `deadTo`
the offset up to which a skip of unknown outcome reaches. -/
def Seg.run (g : Seg) (c : Ctx) (off fin passed deadTo : Nat) (ws : List Word) : Nat → Seg
  | 0 => g
  | fuel + 1 =>
    if fin ≤ off then g
    else match decodeLogic ws with
      | none => g
      | some i =>
        let next := off + i.size
        let rest := ws.drop i.size
        if off < passed then
          let isSkip := decide (i.op = .skipf) || decide (i.op = .skipt)
          ({ g with skips := if isSkip then g.skips ++ [off] else g.skips }).run c next fin passed deadTo rest fuel
        else
          let g1 := g.step c off i (decide (off < deadTo))
          if i.op = .endp then g1
          else if i.op = .skipf ∨ i.op = .skipt then
            match g1.last with
            | none => g1.run c next fin passed (max deadTo (next + i.imm)) rest fuel
            | some true => g1.run c next fin (next + i.imm) deadTo rest fuel
            | some false => g1.run c next fin passed deadTo rest fuel
          else g1.run c next fin passed deadTo rest fuel

/-- The change-filter halves of a list of elements (R159, R161). -/
def filterHalves (es : List Nat) : Word × Word :=
  es.foldl (fun a e => (a.1 ||| BitVec.ofNat 64 (1 <<< (e % 64)), a.2 ||| BitVec.ofNat 64 (1 <<< ((e >>> 6) % 64)))) (0, 0)

/-- The words of a hint entry (R159). -/
def hintWords (segOff nskip route known taken : Nat) (flt : Word × Word) : List Word :=
  [BitVec.ofNat 64 (segOff * 2 ^ 32 + (min nskip 64) * 2 ^ 24 + route), BitVec.ofNat 64 known, BitVec.ofNat 64 taken, flt.1
   , flt.2, 0, 0, 0]

/-- The index entry at which a look-ahead pass stands (R157, R158): the segment of a waiting route is evaluated and its hint
entry written; DONE follows. The status is 0 while the pass goes on and 0x5 when a word it reads is bad. No word at or beyond
LOGIC_END is read (R171). -/
def State.lookEntry (s : State) (l : Lane) (p : Pass) (r : Run) : State × Run × Nat :=
  let x := s.engRead l (r.look.1 + 16 * r.idone) 2
  match x.1 with
  | some [w0, w1] =>
    let segOff := bits w0.toNat 63 32
    let segLen := min (bits w0.toNat 31 0) ((p.desc.logicEnd - p.desc.logicBase) / 8 - segOff)
    let route := bits w1.toNat 12 0
    let c := x.2.ctx l p r []
    let rs := c.read { st := x.2, out := [], reads := [], err := none } (mkRef 1 route 0)
    let done (s : State) : State := s.engWrite l (p.desc.hintOut + 0x28) [BitVec.ofNat 64 (r.idone + 1)]
    let go := rs.2.err.isNone && [stateCode 3, stateCode 4, stateCode 5].contains rs.1.n
    if go then
      let y := rs.2.st.engRead l (p.desc.logicBase + 8 * segOff) segLen
      match y.1 with
      | none => (y.2, r, 5)
      | some ws =>
        let g := ({ st := y.2, held := [], unknown := [], elems := [], known := 0, taken := 0, skips := [], last := none : Seg }).run
          c segOff (segOff + segLen) 0 0 ws (segLen + 1)
        let flt := filterHalves g.elems
        let s1 := g.st.engWrite l (p.desc.hintOut + 0x40 + 64 * r.nhints)
          (hintWords segOff g.skips.length route g.known g.taken flt)
        let s2 := if r.nhints < 1024 then
            s1.onEng l fun e => { e with hints := e.hints ++
              [{ segOff := segOff, nskip := min g.skips.length 64, skips := g.skips.take 64, known := g.known
                 taken := g.taken, fltLo := flt.1, fltHi := flt.2 }] }
          else s1
        (done s2, { r with idone := r.idone + 1, nhints := r.nhints + 1, streamed := r.streamed + segLen }, 0)
    else (done rs.2.st, { r with idone := r.idone + 1 }, 0)
  | _ => (x.2, r, 5)

/-- A running look-ahead pass goes on by one index entry. It ends with status 0x1 at the end of the index; when the words
streamed have reached BUDGET it waits for its end under R160. -/
def State.lookStep (s : State) (l : Lane) (p : Pass) (r : Run) : State :=
  if r.look.2.2 ≤ r.idone then s.endPass l p (some r) 1
  else if r.look.2.1 ≤ r.streamed then s
  else
    let x := s.lookEntry l p r
    if x.2.2 = 0 then x.1.setRun l p x.2.1 else x.1.endPass l p (some x.2.1) x.2.2

/-- A look-ahead pass starts: its header is read, earlier hints go, and DONE is zero. A header that does not meet R159 is
refused with status 0x3, and so is one with a bad word (log entry 152). -/
def State.startLook (s : State) (l : Lane) (p : Pass) (r : Run) : State :=
  let h := s.engRead l p.desc.hintOut 2
  match h.1 with
  | some [w0, w1] =>
    let count := bits w1.toNat 31 0
    if h.2.hintOk l p.desc w0.toNat count = false then h.2.endPass l p none 3
    else
      let s1 := (h.2.dropHints l).onEng l fun e =>
        { e with hintTask := some p.desc.task, hintArea := p.desc.hintOut, areas := mapInsert e.areas p.desc.task p.desc.hintOut }
      (s1.engWrite l (p.desc.hintOut + 0x28) [0]).setRun l p { r with look := (w0.toNat, bits w1.toNat 63 32, count) }
  | _ => h.2.endPass l p none 3

/-- The hints that a plain pass finds at its start: discarded as R161 lists, and after one plain pass has used them; else thinned
by the change filter. -/
def State.startHints (s : State) (l : Lane) (p : Pass) : State :=
  let e := s.eng l
  if e.hintTask ≠ some p.desc.task ∨ e.hintUsed = true ∨ s.rd l R.RTE_CTRL_HINT = 0 then s.dropHints l
  else
    let x := s.engRead l (e.hintArea + 0x18) 4
    match x.1 with
    | some [lo, hi, _, valid] =>
      if bits valid.toNat 0 0 = 1 then
        let stale (h : Hint) : Bool := decide (h.fltLo &&& lo ≠ 0) && decide (h.fltHi &&& hi ≠ 0)
        let n := (x.2.eng l).hints.countP stale
        iter (fun s => s.pmc l 3 9 .plain) n (x.2.onEng l fun e =>
          { e with hints := e.hints.filter (fun h => !stale h), hintUsed := true })
      else x.2.dropHints l
    | _ => x.2.dropHints l

/-- The highest held pass that could have the engine, when it is free. -/
def Engine.next (e : Engine) : Option Pass := if e.running.isSome then none else topPass Pass.order e.queue

/-- The highest waiting pass starts, when the engine is free and no preempted pass is higher (R90, R136, R167). A look-ahead pass
that runs goes on by one index entry (R157). -/
def State.passStart (s : State) (l : Lane) : State :=
  match (s.eng l).next with
  | none =>
    match (s.eng l).running with
    | some (p, r) => if p.desc.kindRaw = 3 then s.lookStep l p r else s
    | none => s
  | some p =>
    match p.phase with
    | .waiting =>
      if s.descOk l p.desc = false then s.endPass l p none 3
      else
        let r := s.newRun l p
        let s1 := s.onEng l fun e =>
          { e with queue := e.queue.map fun q => if q.ticket == p.ticket then { q with phase := .running r, raised := 0 } else q }
        if p.desc.kindRaw = 3 then s1.startLook l p r
        else if p.desc.kindRaw = 1 then s1.startHints l p
        else s1
    | _ => s

/-! ## The window, evaluation and commit (R139 to R152) -/

/-- Whether an instruction is a skip. -/
def LogicIns.isSkip (i : LogicIns) : Bool := decide (i.op = .skipf) || decide (i.op = .skipt)

/-- The end of an instruction, or of the region of a skip. -/
def Held.endOff (h : Held) : Nat := h.off + h.size

/-- The target of a skip (R134). -/
def Held.target (h : Held) : Nat := h.off + h.size + h.ins.imm

/-- How the stream goes on after an instruction of the window: past the region of a skip that is passed over. -/
def Held.nextOff (h : Held) : Nat := if h.ins.isSkip && h.predicted then h.target else h.endOff

/-- The first word offset that the window does not cover, from the commit point on. -/
def uncovered (off : Nat) : List Held → Nat
  | [] => off
  | h :: hs => if h.off = off then uncovered h.nextOff hs else if h.off < off then uncovered off hs else off

/-- The older instructions a new one at an offset sees, youngest first, regions that are passed over left out. -/
def olderOf (off : Nat) (w : List Held) : List Held :=
  let skips := w.filter fun h => h.ins.isSkip && h.predicted
  (w.filter fun h => decide (h.off < off) &&
    !(skips.any fun k => decide (k.endOff ≤ h.off) && decide (h.off < k.target) && decide (k.target ≤ off))).reverse

/-- The guards of the regions that an offset lies in: unresolved skips of the window. -/
def regionGuards (off : Nat) (w : List Held) : List Nat :=
  (w.filter fun h => h.ins.isSkip && decide (h.endOff ≤ off) && decide (off < h.target)).map Held.off

/-- The logic word at a word offset of a pass, as the stream unit takes it: corrected by the decoder; none when it is bad or
stands at or beyond LOGIC_END (R171, R172). -/
def State.logicWord (s : State) (l : Lane) (p : Pass) (off : Nat) : Option Word :=
  if p.desc.logicBase + 8 * off < p.desc.logicEnd then (s.lane l).good (p.desc.logicBase + 8 * off) else none

/-- The logic words from an offset on, up to the first that the stream does not give; n is the most that are taken. -/
def State.logicWords (s : State) (l : Lane) (p : Pass) (off : Nat) : Nat → List Word
  | 0 => []
  | n + 1 => match s.logicWord l p off with | some w => w :: s.logicWords l p (off + 1) n | none => []

/-- Whether the words in DRAM at an offset spell an instruction. Operand words at or beyond LOGIC_END are not read (R171). -/
def State.spells (s : State) (l : Lane) (p : Pass) (off : Nat) (i : LogicIns) : Bool :=
  i.encode.zipIdx.all fun w => decide (p.desc.logicEnd ≤ p.desc.logicBase + 8 * (off + w.2)) || s.logicWord l p (off + w.2) == some w.1

/-- The words and temporaries that the instructions of a region name as destinations, walked in the stream (R139). -/
def State.regionDests (s : State) (l : Lane) (p : Pass) (off fin : Nat) : Nat → List Ref
  | 0 => []
  | fuel + 1 =>
    if fin ≤ off then []
    else match decodeLogic (s.logicWords l p off 9) with
      | some i => writesOf (s.taskImg p.desc.task) i ++ s.regionDests l p (off + i.size) fin fuel
      | none => []

/-- The guards of the exposed reads of an instruction: unresolved skips whose region lies before it and names a word that it
reads (R139). -/
def State.exposedGuards (s : State) (l : Lane) (p : Pass) (w : List Held) (h : Held) : List Nat :=
  (w.filter fun k => k.ins.isSkip && decide (k.target ≤ h.off)
    && (let ds := s.regionDests l p k.endOff k.target k.ins.imm; h.reads.any fun x => ds.contains x)).map Held.off

/-- Entries of the held post in use. -/
def entriesUsed (w : List Held) : Nat := (w.map fun h => h.entries.length).foldl (· + ·) 0

/-- Sorted insertion into the window. -/
def insertHeld (w : List Held) (h : Held) : List Held :=
  (w.filter fun x => decide (x.off < h.off)) ++ h :: w.filter fun x => decide (h.off < x.off)

/-- Instructions that hold a guard. -/
def Held.holds (h : Held) (g : Nat) : Bool := h.guards.contains g

/-- A squash: the instructions that a test picks leave the window, each counted (R143). -/
def State.squash (s : State) (l : Lane) (r : Run) (pick : Held → Bool) : State × Run :=
  let n := r.window.countP pick
  let s1 := s.wr l R.RTE_SQUASH_CNT_SQUASHED (satAdd (s.rd l R.RTE_SQUASH_CNT_SQUASHED) n R.RTE_SQUASH_CNT_SQUASHED.max)
  (iter (fun s => s.pmc l 3 5 .plain) n s1, { r with window := r.window.filter fun h => !pick h })

/-- Instructions that read a word that an instruction writes, and all that read what those write, after an offset. -/
def dependents (off : Nat) (words : List Ref) : List Held → List Nat
  | [] => []
  | h :: hs =>
    if off < h.off ∧ h.reads.any fun x => words.contains x then
      h.off :: dependents off (words ++ h.entries.map Entry.ref) hs
    else dependents off words hs

/-- PEAK follows the occupancy of the held post (R181). -/
def State.peak (s : State) (l : Lane) (r : Run) : State :=
  let n := entriesUsed r.window
  if s.rd l R.RTE_HELD_LVL_PEAK < n then s.wr l R.RTE_HELD_LVL_PEAK n else s

/-- The stream waits: the engine's DRAM grant is revoked (R171). -/
def LaneState.streamWaits (x : LaneState) : Bool := decide (x.grant = some .engine) && x.revoked.isSome

/-- Whether an instruction at an offset has to wait at S: it would run more than 64 KB ahead of the oldest one (R171), follows
an END that is not resolved (R135), follows a skip that found no free guard (R144), or finds no room in the held post (R152).
The oldest instruction never waits. -/
def Run.holdsBack (r : Run) (off : Nat) (h : Held) : Bool :=
  decide (off ≠ r.off) && (decide (8192 < off + h.size - r.off) || r.window.any (fun y => decide (y.ins.op = .endp) && decide (y.off < off))
    || decide (64 < r.window.countP fun y => y.ins.isSkip) || decide (4096 - 128 < entriesUsed r.window + h.entries.length))

/-- A logic word of the running pass is decoded and evaluated: it enters the window and the held post. The instruction is the
one that the words in DRAM spell; operand words that reach past LOGIC_END are an illegal encoding (R115). Nothing changes when
it is not the next one that the stream needs, or has to wait. -/
def State.logicStep (s : State) (l : Lane) (off : Nat) (i : LogicIns) : State :=
  match (s.eng l).running with
  | none => s
  | some (p, r) =>
    if p.desc.kindRaw = 3 ∨ off ≠ uncovered r.off r.window ∨ p.desc.logicEnd ≤ p.desc.logicBase + 8 * off
        ∨ (s.lane l).streamWaits = true ∨ s.spells l p off i = false then s
    else
      let past := decide (p.desc.logicEnd < p.desc.logicBase + 8 * (off + i.size))
      let x := (s.ctx l p r (olderOf off r.window)).eval s off i past (regionGuards off r.window)
      if r.holdsBack off x.2 then s
      else
        let pr := (s.eng l).predict (decide (s.rd l R.RTE_CTRL_HINT = 1)) p.desc.task off
        let usePred := decide (s.rd l R.RTE_CTRL_PRED = 1)
        let h0 := { x.2 with guards := (x.2.guards ++ s.exposedGuards l p r.window x.2).eraseDups }
        let h := if i.isSkip then { h0 with predicted := if usePred then pr.1 else h0.taken } else h0
        let s1 := if i.isSkip && usePred && pr.2 then x.1.pmc l 3 8 .plain else x.1
        -- work that a re-issued instruction's results reach is issued again
        let deps := dependents off (h.entries.map Entry.ref ++ writesOf (s.taskImg p.desc.task) i) r.window
        let q := s1.squash l r fun y => deps.contains y.off || (i.isSkip && y.holds off)
        let r2 := { q.2 with window := insertHeld q.2.window h }
        (q.1.peak l r2).setRun l p r2

/-- The entries of a committing instruction are written, marked and folded, in order (R148). -/
def State.commitEntries (s : State) (l : Lane) (p : Pass) (r : Run) : List Entry → State × Run
  | [] => (s, r)
  | e :: es =>
    if e.null then s.commitEntries l p r es
    else if refTemp e.ref then
      s.commitEntries l p { r with temps := mapInsert r.temps (refId e.ref) e.val } es
    else
      let s1 := s.writeWord l none mEngine none (p.desc.stateBase + refOffset e.ref + (if p.desc.kindRaw = 2 then 8 else 0))
        e.val.raw
      let r1 := { r with written := if r.written.contains e.ref then r.written else e.ref :: r.written }
      if isScratch (s.taskImg p.desc.task) e.ref then s1.commitEntries l p r1 es
      else
        let f := s1.fold l p r1.acc (foldValue e.ref e.plain)
        f.1.commitEntries l p { r1 with acc := f.2 } es

/-- The logic words of a range pass the commit point: each is read, and a bad one ends the pass (R172). -/
def State.passWords (s : State) (l : Lane) (p : Pass) (off n : Nat) : Bool × State :=
  let x := s.engRead l (p.desc.logicBase + 8 * off) n
  (x.1.isSome, iter (fun s => s.pmc l 3 2 .plain) n x.2)

/-- Whether a skip's target is a head word before LOGIC_END (R134): the words from the skip on, as the decoder corrects them, are
walked by NOPS. A bad word on the way is found when the commit point reaches or passes it (R172). -/
def State.targetOk (s : State) (l : Lane) (p : Pass) (off target : Nat) : Nat → Bool
  | 0 => false
  | fuel + 1 =>
    if off = target then decide (p.desc.logicBase + 8 * target < p.desc.logicEnd)
    else if target < off ∨ p.desc.logicEnd ≤ p.desc.logicBase + 8 * off then false
    else match s.logicWord l p off with
      | some w => s.targetOk l p (off + 1 + (bits w.toNat 55 52 + 1) / 2) target fuel
      | none => true

/-- Whether every non-scratch word of the footprint has been written (R132). -/
def allWritten (t : TaskImage) (written : List Ref) : Bool :=
  t.footprint.all fun f => (footWords f).all fun w => isScratch t w || written.contains w

/-- An armed injection of R261, points 0x1 and 0x2: one bit of WCRC in the plain or the coded pass. -/
def State.injectWcrc (s : State) (l : Lane) (p : Pass) (r : Run) : State × Run :=
  match (s.lane l).inject with
  | some (pt, b, _) =>
    if pt = p.desc.kindRaw then
      let s1 := s.onLane l fun x => { x with inject := none }
      (if s.cyc.kind = .test then s1 else s1.wr l R.TST_STAT_INJ_DONE 1
       , { r with acc := { r.acc with wcrc := r.acc.wcrc ^^^ BitVec.ofNat 64 (1 <<< b) } })
    else (s, r)
  | none => (s, r)

/-- The stream is looked at where the commit point finds no evaluated instruction: LOGIC_END reached without END, a bad word and an
illegal encoding end the pass with status 0x5 (R115, R150, R172). A legal instruction is awaited. -/
def State.lookAtCommit (s : State) (l : Lane) (p : Pass) (r : Run) : State :=
  if p.desc.logicEnd ≤ p.desc.logicBase + 8 * r.off then s.endPass l p (some r) 5
  else if (s.lane l).streamWaits then s
  else
    let x := s.engRead l (p.desc.logicBase + 8 * r.off) 1
    match x.1 with
    | some (w :: _) =>
      let n := bits w.toNat 55 52
      let range := match opOfByte (bits w.toNat 63 56) with | some o => o.nops | none => (1, 0)
      if n < range.1 ∨ range.2 < n ∨ p.desc.logicEnd < p.desc.logicBase + 8 * (r.off + 1 + (n + 1) / 2) then
        x.2.endPass l p (some r) 5
      else
        let y := x.2.engRead l (p.desc.logicBase + 8 * r.off) (1 + (n + 1) / 2)
        match (y.1.bind decodeLogic).map LogicIns.legal with
        | some true => s
        | _ => y.2.endPass l p (some r) 5
    | _ => x.2.endPass l p (some r) 5

/-- A skip commits: its predictor entry, and what its outcome does to the window (R142, R143). -/
def State.commitSkip (s : State) (l : Lane) (p : Pass) (r : Run) (h : Held) : State :=
  let s2 := s.onEng l fun e => e.learn p.desc.task h.off h.taken
  let region (y : Held) : Bool := decide (y.off < h.target)
  if h.predicted ≠ h.taken then
    let s3 := (s2.inc l R.RTE_SQUASH_CNT_MISPRED).pmc l 3 4 .plain
    let q := s3.squash l r fun y => y.holds h.off || (h.taken && region y)
    q.1.setRun l p q.2
  else
    let r2 := { r with window := (r.window.filter fun y => !(h.taken && region y)).map fun y =>
      { y with guards := y.guards.filter (· != h.off) } }
    s2.setRun l p r2

/-- END commits: the pass is complete when every non-scratch word of its footprint has been written (R132, R135). -/
def State.commitEnd (s : State) (l : Lane) (p : Pass) (r : Run) : State :=
  let j := s.injectWcrc l p r
  let status := if allWritten (s.taskImg p.desc.task) j.2.written then 1 else if p.desc.kindRaw = 2 then 2 else 5
  j.1.endPass l p (some j.2) status

/-- The oldest evaluated instruction commits, or ends the pass with its deferred error (R150) or because of a bad logic word
(R172). -/
def State.commitHeld (s : State) (l : Lane) (p : Pass) (r : Run) (h : Held) (rest : List Held) : State :=
  let passed := if h.ins.isSkip && h.taken && h.err.isNone then h.ins.imm else 0
  let n := min (h.size + passed) ((p.desc.logicEnd - p.desc.logicBase) / 8 - h.off)
  let w := s.passWords l p h.off n
  let r0 := { r with streamed := r.streamed + n }
  if w.1 = false then w.2.endPass l p (some r0) 5
  else match h.err with
  | some e => w.2.endPass l p (some r0) e
  | none =>
    if h.ins.isSkip && !(w.2.targetOk l p h.endOff h.target (h.ins.imm + 1)) then w.2.endPass l p (some r0) 5
    else
      let c := w.2.commitEntries l p { r0 with window := rest } h.entries
      let f := c.1.foldAll l p c.2.acc h.folds
      let s1 := f.1.pmc l 3 3 .plain
      let r1 := { c.2 with acc := f.2, off := if h.ins.isSkip && h.taken then h.target else h.endOff }
      if h.ins.op = .endp then s1.commitEnd l p r1
      else if h.ins.isSkip then s1.commitSkip l p r1 h
      else s1.setRun l p r1

/-- The oldest instruction commits (R148). -/
def State.commitNext (s : State) (l : Lane) : State :=
  match (s.eng l).running with
  | none => s
  | some (p, r) =>
    if p.desc.kindRaw = 3 then s
    else
      match r.window with
      | h :: rest => if h.off = r.off then s.commitHeld l p r h rest else s.lookAtCommit l p r
      | [] => s.lookAtCommit l p r

/-! ## Preemption and resumption (R164 to R168) -/

/-- The bit of a state word in the written map: elements first, then routes, in ID and word order (R166). -/
def mapBit (r : Ref) : Nat := if refSpace r = 1 then 0x40000 + 8 * refId r + refWord r else 16 * refId r + refWord r

/-- The state word of a bit of the written map. -/
def mapRef (b : Nat) : Ref :=
  if b < 0x40000 then mkRef 0 (b / 16) (b % 16) else mkRef 1 ((b - 0x40000) / 8) ((b - 0x40000) % 8)

/-- The progress count (R166). -/
def progress (p : Pass) (r : Run) : Word :=
  BitVec.ofNat 64 (p.desc.task * 2 ^ 60 + p.desc.kindRaw * 2 ^ 56 + r.acc.wpos * 2 ^ 44 + r.off % 2 ^ 32)

/-- The words of the temporaries in a context record. -/
def tempWords (temps : List (Nat × Val)) : List Word :=
  (List.range 64).flatMap fun t =>
    match assoc temps t with
    | some v => [v.raw, BitVec.ofNat 64 (v.sig + 2 ^ 63)]
    | none => [0, 0]

/-- The words of the written map in a context record: 40 KB. -/
def writtenWords (written : List Ref) : List Word :=
  (List.range 5120).map fun k =>
    BitVec.ofNat 64 (written.foldl (fun a r => if mapBit r / 64 = k then a ||| (1 <<< (mapBit r % 64)) else a) 0)

/-- A context record (R166); its reserved areas are left as they are. -/
def State.saveCtx (s : State) (l : Lane) (slot : Nat) (p : Pass) (r : Run) : State :=
  let b := s.rd l R.RTE_CTX_BASE_BASE * 0x10000 + 0xC000 * slot
  let s1 := s.engWrite l b (progress p r :: (sealWords 0 p.desc.kindRaw p.desc.task p.desc.dsig r.acc 0).drop 1)
  let s2 := s1.engWrite l (b + 0x40) (p.desc.words ++ [BitVec.ofNat 64 (ofBool r.bank)])
  (s2.engWrite l (b + 0x400) (tempWords r.temps)).engWrite l (b + 0x800) (writtenWords r.written)

/-- The temporaries that a context record spells. -/
def tempsOfWords : Nat → List Word → List (Nat × Val)
  | n, v :: g :: ws => if bit g.toNat 63 then (n, ⟨v, bits g.toNat 19 0⟩) :: tempsOfWords (n + 1) ws else tempsOfWords (n + 1) ws
  | _, _ => []

/-- The written words that a map spells, from its k-th word on. -/
def writtenOfWords : Nat → List Word → List Ref
  | _, [] => []
  | k, w :: ws =>
    (if w = 0 then [] else ((List.range 64).filter fun b => bit w.toNat b).map fun b => mapRef (64 * k + b))
      ++ writtenOfWords (k + 1) ws

/-- A context record restored over the run that the engine keeps of the pass: progress, accumulator, bank, temporaries and
written map come from the record; none when a word of it is bad. -/
def State.loadCtx (s : State) (l : Lane) (slot : Nat) (r : Run) : Option Run × State :=
  let b := s.rd l R.RTE_CTX_BASE_BASE * 0x10000 + 0xC000 * slot
  let h := s.engRead l b 17
  let t := h.2.engRead l (b + 0x400) 128
  let m := t.2.engRead l (b + 0x800) 5120
  match h.1, t.1, m.1 with
  | some hw, some tw, some mw =>
    let g (k : Nat) : Word := hw.getD k 0
    (some { r with
      off := bits (g 0).toNat 31 0
      acc := { wcrc := g 1, nwin := bits (g 2).toNat 63 32, wpos := bits (g 2).toNat 11 0, sacc := g 3, nres := (g 4).toNat }
      bank := bit (g 16).toNat 0, window := [], temps := tempsOfWords 0 tw, written := writtenOfWords 0 mw }, m.2)
  | _, _, _ => (none, m.2)

/-- A waiting pass that may preempt the running one (R164): the highest descriptor PRIO above the running pass's. -/
def Engine.preempter (e : Engine) (run : Pass) : Option Pass :=
  topPass (fun p => p.desc.prio) (e.queue.filter fun p => decide (p.phase = .waiting) && decide (run.desc.prio < p.desc.prio))

/-- The running pass is preempted at a commit boundary (R164, R165). A look-ahead pass needs neither slot nor span. -/
def State.preempt (s : State) (l : Lane) : State :=
  let e := s.eng l
  match e.running with
  | none => s
  | some (p, r) =>
    match e.preempter p with
    | none => s
    | some q =>
      let bump (s : State) : State :=
        ((s.wr l R.RTE_STAT_PREEMPT_CNT (satAdd (s.rd l R.RTE_STAT_PREEMPT_CNT) 1 0xFFFF)).setLaneReg l R.ARB_PROGRESS
          (progress p r)).pmc l 3 7 .plain
      if p.desc.kindRaw = 3 then (bump s).onEng l fun e => e.setPhase p.ticket (.preempted none r)
      else
        let sp := footSpan p.desc.stateBase (s.taskImg p.desc.task)
        let sq := footSpan q.desc.stateBase (s.taskImg q.desc.task)
        let clash := decide (q.desc.kindRaw ≠ 3) && (match sq with | some x => spanHits sp x | none => false)
        match (List.finRange 3).find? fun i => !e.slots[i] with
        | none => s
        | some i =>
          if s.rd l R.RTE_CTRL_PREEMPT = 0 ∨ s.rd l R.RTE_CTX_BASE_VALID = 0 ∨ clash then s
          else
            let q := (bump s).squash l r fun _ => true
            (q.1.saveCtx l i.val p q.2).onEng l fun e =>
              { e.setPhase p.ticket (.preempted (some i.val) q.2) with slots := e.slots.set i true }

/-- A preempted pass resumes when it is the highest held and the engine is free (R167); a look-ahead pass goes on at index
entry DONE (R168). A bad word of the record ends it with status 0x5 and frees its slot (R170). -/
def State.resume (s : State) (l : Lane) : State :=
  match (s.eng l).next with
  | none => s
  | some p =>
    match p.phase with
    | .preempted none r => s.onEng l fun e =>
        { e with queue := e.queue.map fun q => if q.ticket == p.ticket then { q with phase := .running r, raised := 0 } else q }
    | .preempted (some n) r =>
      let x := s.loadCtx l n r
      match x.1 with
      | none => x.2.endPass l p (some r) 5
      | some r1 =>
        x.2.onEng l fun e =>
          { e with
            queue := e.queue.map fun q => if q.ticket == p.ticket then { q with phase := .running r1, raised := 0 } else q
            slots := Vector.ofFn fun i => if i.val = n then false else e.slots[i] }
    | _ => s

/-! ## Engine instructions of the control cores (R86 to R91) -/

/-- The status of a ticket: its final status when it has ended, 0 while it is held, 0x7 when it is unknown. DESIGN CHOICE: once
the count has wrapped, a ticket that names two passes names the older one, whose final status stands (log entry 153). -/
def Engine.status (e : Engine) (t : Word) : Nat :=
  match e.results.find? fun r => r.1 == t with
  | some r => r.2
  | none => if e.queue.any fun p => p.ticket == t then 0 else 7

/-- The final status of a ticket has been returned: the ticket is no longer valid (R88). -/
def Engine.consume (e : Engine) (t : Word) : Engine := { e with results := e.results.filter fun r => r.1 != t }

/-- The count of submitted passes that a new ticket carries: it wraps, and passes over zero where the ticket would be zero (R88;
log entry 153). -/
def nextCount (n kind : Nat) : Nat := if (n + 1) % 2 ^ 16 = 0 ∧ kind = 0 then 1 else (n + 1) % 2 ^ 16

/-- EPASS: the descriptor's 64 bytes are read as a data access of the core, copied into the queue, and a ticket given; 0
when EN = 0 or four passes are held. A plain pass of a task ends every look-ahead pass of that task (R162). DESIGN CHOICE: a
descriptor that is not 64-byte aligned in SRAM is accepted and refused at its start with status 0x3; where no word can be read
there it counts as KIND 0; a word that is bad raises UNCORR with its address (log entry 156). -/
def State.epass (s : State) (l : Lane) (c : CoreId) (gd : GReg) (a : Word) : State :=
  let x := s.core l c
  let give (s : State) (v : Word) : State := (s.onCore l c fun y => y.setG gd v).retire l c
  if s.rd l R.RTE_CTRL_EN = 0 ∨ 4 ≤ (s.eng l).queue.length then give s 0
  else if x.regionOk a.toNat .read = false then s.exception l c exProt a
  else
    let placed := decide (a.toNat % 64 = 0) && isSram a.toNat
    let readable := decide (a.toNat % 8 = 0) && ((isSram a.toNat && isSram (a.toNat + 56)) || (isDram a.toNat && isDram (a.toNat + 56)))
    let r : Option (List Word) × State :=
      if readable then s.readWords l c.num (some x.level.code) 0 a.toNat 8 else (some [], s)
    match r.1 with
    | none => r.2.exception l c exUncorr (BitVec.ofNat 64 ((s.lane l).firstBad a.toNat 8))
    | some ws =>
      let d := descOfWords ws placed
      let n := nextCount (s.eng l).submitted d.kindRaw
      let t := BitVec.ofNat 64 (n * 2 ^ 48 + d.kindRaw)
      let s1 := r.2.onEng l fun e =>
        { e with
          submitted := n
          queue := e.queue ++ [{ ticket := t, core := c, desc := d, seq := n, raised := 0, phase := .waiting }] }
      let looks := (s1.eng l).queue.filter fun p => decide (p.desc.kindRaw = 3) && decide (p.desc.task = d.task)
      let s2 := if d.kindRaw = 1 then looks.foldl (fun s p => s.endHeld l p 4) s1 else s1
      give s2 t

/-- A status returned by EWAIT or EPOLL: written to gd, and the ticket consumed when the status is final. -/
def State.giveStatus (s : State) (l : Lane) (c : CoreId) (gd : GReg) (t : Word) (status : Nat) : State :=
  let s1 := if status = 0 then s else s.onEng l fun e => e.consume t
  (s1.onCore l c fun y => { y.setG gd (BitVec.ofNat 64 status) with wait := .none }).retire l c

/-- ECANCEL: a look-ahead pass that is held ends with status 0x4 (R91). -/
def State.ecancel (s : State) (l : Lane) (t : Word) : State :=
  match (s.eng l).queue.find? fun p => p.ticket == t && decide (p.desc.kindRaw = 3) with
  | some p => (s.endHeld l p 4).dropHints l
  | none => s

/-! ## The commands of the engine's control-core instructions and events -/

/-- EPASS gd, ga (R86 to R90). -/
def execEpass (l : Lane) (c : CoreId) (gd ga : GReg) (s : State) : Host.Outcome State Fault Refusal :=
  .next (s.issue l c .s fun s => s.epass l c gd ((s.core l c).g ga))

/-- EWAIT gd, ga: returns the final status at once, or the core waits at the EWAIT (R83, R89). -/
def execEwait (l : Lane) (c : CoreId) (gd ga : GReg) (s : State) : Host.Outcome State Fault Refusal :=
  .next (s.issue l c .s fun s =>
    let t := (s.core l c).g ga
    let st := (s.eng l).status t
    if st = 0 then s.onCore l c fun x => { x with wait := .ewait gd t } else s.giveStatus l c gd t st)

/-- EWAIT_RETURN: the awaited pass has ended; EWAIT returns its final status (R75). -/
def execEwaitReturn (l : Lane) (c : CoreId) (s : State) : Host.Outcome State Fault Refusal :=
  match (s.core l c).wait with
  | .ewait gd t =>
    let st := (s.eng l).status t
    if (s.lane l).running = false ∨ st = 0 then .next s else .next (s.giveStatus l c gd t st)
  | _ => .next s

/-- EPOLL gd, ga: the status of a ticket, 0 while it waits or runs (R88, R89). -/
def execEpoll (l : Lane) (c : CoreId) (gd ga : GReg) (s : State) : Host.Outcome State Fault Refusal :=
  .next (s.issue l c .s fun s =>
    let t := (s.core l c).g ga
    s.giveStatus l c gd t ((s.eng l).status t))

/-- ECANCEL gd, ga: cancels a look-ahead pass; the ticket is not consumed (R91). -/
def execEcancel (l : Lane) (c : CoreId) (gd ga : GReg) (s : State) : Host.Outcome State Fault Refusal :=
  .next (s.issue l c .s fun s =>
    let t := (s.core l c).g ga
    let s1 := s.ecancel l t
    (s1.onCore l c fun y => y.setG gd (BitVec.ofNat 64 ((s1.eng l).status t))).retire l c)

/-- PASS_START (R136). -/
def execPassStart (l : Lane) (s : State) : Host.Outcome State Fault Refusal := .next (s.passStart l)

/-- LOOKAHEAD_BUDGET_REACHED: a look-ahead pass that has reached its budget ends with status 0x1 (R160). -/
def execLookaheadBudgetReached (l : Lane) (s : State) : Host.Outcome State Fault Refusal :=
  match (s.eng l).running with
  | some (p, r) => if p.desc.kindRaw = 3 ∧ r.look.2.1 ≤ r.streamed then .next (s.endPass l p (some r) 1) else .next s
  | none => .next s

/-- The running pass is cut off: all uncommitted work is squashed, committed writes stay, and it ends with status 0x6 (R170). -/
def State.cutEngine (s : State) (l : Lane) : State :=
  match (s.eng l).running with
  | some (p, r) =>
    let q := s.squash l r fun _ => true
    q.1.endPass l p (some q.2) 6
  | none => s

/-- INSTRUCTION_COMMIT (R148). -/
def execInstructionCommit (l : Lane) (s : State) : Host.Outcome State Fault Refusal := .next (s.commitNext l)

/-- ENGINE_CHECK_FAILURE: the running pass ends at once with status 0x5; damage to one symbol of a word that the engine holds is
corrected and counted instead (R151, R277). Which word it is does not matter: the code is linear. -/
def execEngineCheckFailure (l : Lane) (word : Option (BitVec 88)) (s : State) : Host.Outcome State Fault Refusal :=
  match (s.eng l).running with
  | none => .next s
  | some (p, r) =>
    match word with
    | none => .next (s.endPass l p (some r) 5)
    | some pat =>
      let x := s.busEnd l 1 0 (busArrive 0 pat)
      .next (if x.1.isSome then x.2 else x.2.endPass l p (some r) 5)

/-- PREEMPTION (R165). -/
def execPreemption (l : Lane) (s : State) : Host.Outcome State Fault Refusal := .next (s.preempt l)

/-- PASS_RESUME (R167). -/
def execPassResume (l : Lane) (s : State) : Host.Outcome State Fault Refusal := .next (s.resume l)

/-- PASS_AGEING: with AGE ≠ 0, a waiting or preempted pass rises one level, up to 15 (R562). -/
def execPassAgeing (l : Lane) (ticket : Word) (s : State) : Host.Outcome State Fault Refusal :=
  if s.rd l R.ARB_PRIO_AGE = 0 then .next s
  else .next (s.onEng l fun e =>
    { e with queue := e.queue.map fun p =>
        match p.phase with
        | .running _ => p
        | _ => if p.ticket = ticket ∧ p.desc.prio + p.raised < 15 then { p with raised := p.raised + 1 } else p })

end Sys2Proof.Machine
end

