-- ==== Sys2Proof/Machine/Naming.lean ====
section
/-! DEFINITION. Machine/Naming.lean: disagreements, the SAFE latch, isolation, and the XLE links (R21, R239 to R252, R258). -/
namespace Sys2Proof.Machine

/-! ## Sources of CMP_MISMATCH (R246), by their bit -/

def srcSeal : Nat := 4
def srcPq : Nat := 5
def srcPass : Nat := 6
def srcLate : Nat := 7
def srcOutcome : Nat := 8
def srcVw : Nat := 9
def srcTxsel : Nat := 10
def srcStep : Nat := 11
def srcInput : Nat := 12
def srcCfg : Nat := 13
def srcCanary : Nat := 14
def srcAbsent : Nat := 15
def srcLink : Nat := 16
def srcSafeReq : Nat := 17

/-- The task item of a record whose cause is not a task's seals: all ones (R606). -/
def noTaskNo : Nat := 0xFF

/-- CMP_MISMATCH of every lane takes a source and a named lane. -/
def State.setMismatch (s : State) (l : Lane) (src : Nat) : State :=
  Lane.list.foldl
    (fun s v => s.setLaneReg v R.CMP_MISMATCH (s.laneReg v R.CMP_MISMATCH ||| BitVec.ofNat 64 (1 <<< src ||| l.mask))) s

/-- The switch-off of a lane's domain: the VOTING lanes write PWR_DOM_CTRL with the domain's ON bit cleared (R258). -/
def State.askDomainOff (s : State) (l : Lane) : State :=
  let v := setBit (s.modReg R.PWR_DOM_CTRL).toNat (2 + l.bit) false
  s.voters.foldl (fun s v' => s.onLane v' fun x => { x with pend := mapInsert x.pend R.PWR_DOM_CTRL (BitVec.ofNat 64 v) }) s

/-- A lane goes to OUT and stays there until reset (R242, R249, R253, R258). -/
def State.holdOut (s : State) (l : Lane) : State :=
  let s1 := s.setSt l 0
  { s1 with cyc := { s1.cyc with heldOut := s1.cyc.heldOut ||| l.mask } }

/-- A lane is isolated (R250): it withdraws enables, votes and copies, its view is empty, its engine is flushed (R183), the
other lanes drop it from their views, and the module becomes DEGRADED. A lane that is absent is OUT (R242). The third
isolation within 60 min holds it out (R258). -/
def State.isolate (s : State) (l : Lane) (task : Nat) : State :=
  let now := s.rdM R.PWR_D0_OPMIN
  let times := now :: (s.cyc.isoTimes.get l).filter fun t => decide (now < t + 60)
  let s1 := (s.resetEngineLane l).onLane l fun x => { x with pend := [], stream := [] }
  let s2 := Lane.list.foldl
    (fun s v => s.wr v R.CMP_VOTE_VIEW (if v = l then 0 else setBit (s.rd v R.CMP_VOTE_VIEW) l.bit false))
    (s1.setLaneReg l R.FIO_LEN 0)
  let absent := bit (s2.rdM R.XLE_STAT_ABS_MOD) l.bit
  let s3 := ((s2.setSt l (if absent then 0 else 1)).wrM (isoField l) (min 3 times.length)).revote
  let s4 := { s3 with cyc := { s3.cyc with
    isoTimes := s3.cyc.isoTimes.set l times
    isolated := if bit s3.cyc.phase 9 then s3.cyc.isolated else s3.cyc.isolated ||| l.mask
    prob := if s3.cyc.prob = some l then none else s3.cyc.prob } }
  let s5 := s4.event 0x4001 ([l.code] ++ bytesBE (s.mismatchBits l) 2 ++ [task])
  let s6 := if s5.mode = mRunning then s5.setMode mDegraded else s5
  if 3 ≤ times.length then ((s6.holdOut l).askDomainOff l).event 0x4006 [l.code] else s6

/-- The expected bit of an injection point (R261). -/
def expectedSource : Nat → Nat
  | 1 => srcPq
  | 2 => srcPq
  | 4 => srcSeal
  | 5 => srcOutcome
  | 6 => srcVw
  | 7 => srcTxsel
  | 8 => srcCanary
  | 9 => srcCfg
  | _ => 0

/-- In a test round set a name is kept in CMP_INJECT and nothing is isolated (R186, R261). -/
def State.testName (s : State) (l : Lane) (src : Nat) : State :=
  Lane.list.foldl
    (fun s v =>
      let named := s.rd v R.CMP_INJECT_NAMED ||| l.mask
      let ok := named == 1 <<< (s.rd v R.CMP_INJECT_LANE - 1) && src == expectedSource (s.rd v R.CMP_INJECT_POINT)
      (s.wr v R.CMP_INJECT_NAMED named).wr v R.CMP_INJECT_CAUGHT (ofBool ok)) s

/-- The failed condition of R256 that a name on a lane in PROBATION shows, as 0x4004 gives it: its record, its outcome record, its
configuration, or none of these, which is all ones (R606). -/
def unclean (src : Nat) : Nat :=
  if src ≤ srcLate then 1 else if src = srcOutcome then 2 else if src = srcCfg then 3 else 0xFF

/-- A name is noted without any reaction: CMP_MISMATCH and the lanes named in this round set. -/
def State.noteName (s : State) (l : Lane) (src : Nat) : State :=
  let s1 := s.setMismatch l src
  { s1 with cyc := { s1.cyc with named := s1.cyc.named ||| l.mask } }

/-- A lane is named by a source (R246, R247). -/
def State.nameLane (s : State) (l : Lane) (src task : Nat) : State :=
  let s1 := s.setMismatch l src
  if s.cyc.kind = .test then s1.testName l src
  else if s.st l = 3 then
    let s2 := { s1 with cyc := { s1.cyc with named := s1.cyc.named ||| l.mask } }
    if s.votes < 3 ∨ s.cyc.named &&& (7 - l.mask) ≠ 0 then s2.latchSafe else s2.isolate l task
  else if s.st l = 2 then { s1 with cyc := { s1.cyc with probBad := if s1.cyc.probBad = 0 then unclean src else s1.cyc.probBad } }
  else s1

/-- Lanes named by one source, in lane-code order. -/
def State.nameLanes (s : State) (ls : List Lane) (src task : Nat) : State := ls.foldl (fun s l => s.nameLane l src task) s

/-- An armed injection of a lane at a point, taken once it has acted (R261, R548). -/
def State.takeInject (s : State) (l : Lane) (point : Nat) : Option (Nat × Bool) × State :=
  match (s.lane l).inject with
  | some (p, b, ch) =>
    if p = point then
      let s1 := s.onLane l fun x => { x with inject := none }
      (some (b, ch), if s.cyc.kind = .test then s1 else s1.wr l R.TST_STAT_INJ_DONE 1)
    else (none, s)
  | none => (none, s)

/-! ## XLE links -/

/-- The field of XLE_STAT that shows a lane's link to another lane (R271). -/
def upField (l v : Lane) : RField := if v = l.others.1 then R.XLE_STAT_UP_LO else R.XLE_STAT_UP_HI

/-- The field of XLE_STAT that shows the latency of a lane's link to another lane (R271). -/
def latField (l v : Lane) : RField := if v = l.others.1 then R.XLE_STAT_LAT_LO else R.XLE_STAT_LAT_HI

/-- A link is down: both ends show it, event 0x4050, and the lane with the higher code is named LINK (R249). -/
def State.linkDown (s : State) (l1 l2 : Lane) : State :=
  let lo := if l1.code < l2.code then l1 else l2
  let hi := if l1.code < l2.code then l2 else l1
  let s1 := (s.wr l1 (upField l1 l2) 0).wr l2 (upField l2 l1) 0
  let s2 := (s1.event 0x4050 [lo.code, hi.code]).raise lo 4
  (s2.raise hi 4).nameLane hi srcLink noTaskNo

/-- XLE_HEARTBEAT_TIMEOUT: a lane declares another absent; two declarations make it absent for the module and name it
(R21, R251). -/
def execXleHeartbeatTimeout (l sender : Lane) (s : State) : Host.Outcome State Fault Refusal :=
  if l = sender ∨ (s.lane l).running = false then .next s
  else
    let s1 := (s.wr l R.XLE_STAT_ABS_OWN (s.rd l R.XLE_STAT_ABS_OWN ||| sender.mask)).raise l 4
    let n := Lane.list.countP fun v => bit (s1.rd v R.XLE_STAT_ABS_OWN) sender.bit
    if 2 ≤ n ∧ bit (s1.rdM R.XLE_STAT_ABS_MOD) sender.bit = false then
      let s2 := s1.wrM R.XLE_STAT_ABS_MOD (s1.rdM R.XLE_STAT_ABS_MOD ||| sender.mask)
      .next ((Lane.list.foldl (fun s v => if v = sender then s else s.raise v 4) s2).nameLane sender srcAbsent noTaskNo)
    else .next s1

/-- XLE_LINK_DOWN: one lane has declared the other absent and the third has declared neither (R249). -/
def execXleLinkDown (l1 l2 : Lane) (s : State) : Host.Outcome State Fault Refusal :=
  let own (x y : Lane) : Bool := bit (s.rd x R.XLE_STAT_ABS_OWN) y.bit
  let thirdQuiet := Lane.list.all fun v => v == l1 || v == l2 || (!own v l1 && !own v l2)
  if l1 ≠ l2 ∧ (own l1 l2 || own l2 l1) ∧ thirdQuiet then .next (s.linkDown l1 l2) else .next s

/-- XLE_RECORD_RECEIVED: a record that fails CHK is counted and retransmitted; a third failure takes the link down (R240). -/
def execXleRecordReceived (l sender : Lane) (damaged : Bool) (s : State) : Host.Outcome State Fault Refusal :=
  if l = sender ∨ (s.lane l).running = false then .next s
  else
    let s0 := (s.pmcMany l 4 1 .plain 4).transferEnds l .xle
    let n := mapGet (fun _ => 0) (s.lane l).chkFails sender.code
    if damaged then
      let s1 := ((s0.inc l R.XLE_STAT_CRCERR).pmc sender 4 2 .plain).onLane l fun x =>
        { x with chkFails := mapSet (fun _ => 0) x.chkFails sender.code (if 2 ≤ n then 0 else n + 1) }
      .next (if 2 ≤ n then s1.linkDown l sender else s1)
    else .next (s0.onLane l fun x => { x with chkFails := mapSet (fun _ => 0) x.chkFails sender.code 0 })

end Sys2Proof.Machine
end

