-- ==== Sys2Proof/Machine/Access.lean ====
section
/-! DEFINITION. Machine/Access.lean: the checks of a register access (R14, R29 to R32, R57) and the recording of a voted
write (R34). -/
namespace Sys2Proof.Machine

/-- Lowest levels that read and write each register block: base, read, write (R31). -/
def blockLevels : List (Nat × Level × Level) :=
  [(0xF0000000, .u, .k), (0xF0010000, .s, .k), (0xF0020000, .s, .s), (0xF0030000, .s, .k), (0xF0040000, .s, .k)
   , (0xF0050000, .k, .k), (0xF0060000, .s, .k), (0xF0070000, .s, .k), (0xF0080000, .s, .k), (0xF0090000, .u, .k)
   , (0xF00A0000, .s, .s), (0xF00B0000, .s, .s), (0xF00C0000, .s, .k), (0xF00D0000, .s, .k), (0xF00E0000, .k, .k)
   , (0xF00F0000, .k, .k), (0xF0100000, .k, .k), (0xF0110000, .k, .k), (0xF0120000, .k, .k), (0xF0130000, .s, .s)
   , (0xF0140000, .s, .s)]

/-- The address of FIO_CELLn as R455 gives it. -/
def fioCellAddr (n : Nat) : Nat := 0xF00B0200 + 8 * n

/-- The key under which the register at an address is kept: FIO_CELL16 to FIO_CELL26 have one of their own, the offsets of
FIO_CELL0 to FIO_CELL15 lead to FIO_DEB32 to FIO_DEB47 (log entry 6), and no address has bits above 31. -/
def busKey (a : Nat) : Nat :=
  if fioCellAddr 16 ≤ a ∧ a < fioCellAddr 27 then a + 2 ^ 32 else if 2 ^ 32 ≤ a then 0 else a

/-- Whether an address is one of FIO_CELL0 to FIO_CELL15, and so also one of FIO_DEB32 to FIO_DEB47. -/
def twoNamed (a : Nat) : Bool := decide (fioCellAddr 0 ≤ a) && decide (a < fioCellAddr 16)

/-- The lowest level that may make an access: the register's own, or its block's at an unused offset. -/
def accessLevel (a : Nat) (write : Bool) : Level :=
  match rowOf (busKey a) with
  | some r => if write then r.write else r.read
  | none =>
    match blockLevels.find? fun b => b.1 == a / 65536 * 65536 with
    | some b => if write then b.2.2 else b.2.1
    | none => .u

/-- Whether an address is a counter that PMC_UAC opens to reads below K (R541). -/
def State.uacOpen (s : State) (l : Lane) (a : Nat) : Bool :=
  decide (R.PMC_CNT 0 ≤ a) && decide (a < R.PMC_CNT 32) && bit (s.rd l R.PMC_UAC_OPEN) ((a - R.PMC_CNT 0) / 8)

/-- The exception that the level and address checks of a register access raise, if any (R29, R32, R57, R77). -/
def State.levelRefusal (s : State) (l : Lane) (c : CoreId) (a : Nat) (write : Bool) : Option (Nat × Word) :=
  let ok := (accessLevel a write).le (s.core l c).level || (!write && s.uacOpen l a)
  if !ok then some (exPriv, BitVec.ofNat 64 a)
  else if (rowOf (busKey a)).isNone then some (exDataBus, BitVec.ofNat 64 a)
  else none

/-- The exception that a register access raises, if any: region, level, address (R57). -/
def State.regRefusal (s : State) (l : Lane) (c : CoreId) (a : Nat) (write : Bool) : Option (Nat × Word) :=
  if (s.core l c).regionOk a (if write then .write else .read) = false then some (exProt, BitVec.ofNat 64 a)
  else s.levelRefusal l c a write

/-- A register access by a core: the checks, then the access itself. A lane whose cores are not running makes none. -/
def State.regAccess (s : State) (l : Lane) (c : CoreId) (a : Nat) (write : Bool) (f : State → State) : State :=
  if s.canIssue l c = false then s
  else
    match s.regRefusal l c a write with
    | some e => s.exception l c e.1 e.2
    | none => f s

/-- The register-access event (R14, R606). -/
def State.accessEvent (s : State) (l : Lane) (a : Nat) (v : Word) : State :=
  s.eventL l 0x1001 (bytesBE a 4 ++ bytesBE v.toNat 8)

/-- The reserved bits of TST_INJ, which KIND decides (R555). -/
def injReserved (kind : Nat) : Nat :=
  if kind = 1 ∨ kind = 2 then 0x000000FF00000007 else if kind = 3 then 0x0FFFFFFFFFFFC070 else 0

/-- Whether a value sets a reserved bit of a register (R14). -/
def setsReserved (a : Nat) (v : Word) : Bool :=
  match rowOf (if twoNamed a && bit v.toNat 63 then a + 2 ^ 32 else busKey a) with
  | some r => v.toNat &&& (if a = R.TST_INJ then injReserved (R.TST_INJ_KIND.of v) else r.res) != 0
  | none => false

/-- A write that sets a reserved bit is ignored as a whole and recorded (R14). -/
def State.guardReserved (s : State) (l : Lane) (a : Nat) (v : Word) (f : State → State) : State :=
  if setsReserved a v then s.accessEvent l a v else f s

/-- A register write by a core: the checks, the reserved bits, then the write itself. -/
def State.regWriteBy (s : State) (l : Lane) (c : CoreId) (a : Nat) (v : Word) (f : State → State) : State :=
  s.regAccess l c a true fun s => s.guardReserved l a v f

/-- A register write under the access codes alone (R15): RW bits take the value, W1C bits written 1 clear, WL bits take the
value unless the register has been written since reset, every other bit stays. -/
def codedWrite (r : RegRow) (written : Bool) (old v : Word) : Word :=
  let m (x : Nat) : Word := BitVec.ofNat 64 x
  let take := m r.rw ||| (if written then 0 else m r.wl)
  ((old &&& ~~~take) ||| (v &&& take)) &&& ~~~(v &&& m r.w1c)

/-- The write of a register under its access codes; a WL register is locked by its first write. -/
def State.plainWrite (s : State) (l : Lane) (a : Nat) (v : Word) : State :=
  match rowOf a with
  | some r =>
    let s1 := s.regSet l a (codedWrite r ((s.lane l).locked.contains a) (s.regRaw l a) v)
    if r.wl = 0 ∨ (s.lane l).locked.contains a then s1 else s1.onLane l fun x => { x with locked := a :: x.locked }
  | none => s

/-! ## Voted registers (R34 to R42) -/

/-- Whether a register is voted (R31). -/
def isVoted (a : Nat) : Bool :=
  match rowOf a with
  | some r => r.voted
  | none => false

/-- The VW report register of the shared block that an address lies in (R42). -/
def vwReg (a : Nat) : Nat :=
  match a / 65536 with
  | 0xF008 => R.STR_VW
  | 0xF00C => R.TWN_VW
  | 0xF001 => R.PWR_VW
  | _ => R.FIO_VW

/-- The fields that every VW report has (R42). -/
def vwRefuse (a : Nat) : RField := ⟨vwReg a, 23, 16⟩
def vwLastOff (a : Nat) : RField := ⟨vwReg a, 47, 32⟩
def vwLate (a : Nat) : RField := ⟨vwReg a, 10, 8⟩
def vwWrote (a : Nat) : RField := ⟨vwReg a, 6, 4⟩
def vwFail (a : Nat) : RField := ⟨vwReg a, 3, 3⟩
def vwAgree (a : Nat) : RField := ⟨vwReg a, 2, 0⟩

/-- The shadow of a shared configuration register, as the writing lane's firmware keeps it (R263). -/
def sharedConfig (a : Nat) : Bool :=
  [R.STR_WINDOW, R.TWN_SWAP, R.PWR_BUDGET].contains a || (decide (R.STR_PORT_CTRL 0 ≤ a) && decide (a < R.STR_PORT_CTRL 18))

/-- A voted write is recorded as the lane's pending value (R34, R38); before the first boundary marker the block refuses it
(R35), and on a CB-TX3-N the FIO block refuses every one (R425). The shadow of a configuration register follows. -/
def State.votedWrite (s : State) (l : Lane) (a : Nat) (v : Word) : State :=
  if !s.cyc.active || s.fioAbsent a then s.incM (vwRefuse a)
  else s.onLane l fun x =>
    { x with
      pend := mapInsert x.pend a v
      shadow := if sharedConfig a then mapInsert x.shadow a v else x.shadow }

end Sys2Proof.Machine
end

