-- ==== Sys2Proof/Machine/Phases.lean ====
section
/-! DEFINITION. Machine/Phases.lean: the phases of a round set (R189, R190). Each phase acts once in a round set, after
the phases it follows; a phase command that comes twice, or before those, changes nothing. -/
namespace Sys2Proof.Machine

/-- Phase numbers, as bits of cyc.phase. -/
def phSort : Nat := 0
def phCopy : Nat := 1
def phAgree : Nat := 2
def phHeld : Nat := 3
def phTwinSend : Nat := 4
def phPost : Nat := 5
def phPair : Nat := 6
def phVote : Nat := 7
def phOutcome : Nat := 8
def phDispatch : Nat := 9
def phClose : Nat := 10
def phCompareSend : Nat := 11
def phConfig : Nat := 12
def phTwin : Nat := 13
/-- The state copy of this round set has ended (R253). -/
def phState : Nat := 14
/-- Gather closed in a lane: bits 16 to 18. -/
def phGather (l : Lane) : Nat := 16 + l.bit

/-- Whether a phase has run in this round set. -/
def State.did (s : State) (ph : Nat) : Bool := bit s.cyc.phase ph

/-- A phase marked as run. -/
def State.mark (s : State) (ph : Nat) : State := { s with cyc := { s.cyc with phase := setBit s.cyc.phase ph true } }

/-- A phase acts once in a round set, after the phases it follows. -/
def State.once (s : State) (before : List Nat) (ph : Nat) (f : State → State) : State :=
  if s.cyc.active && before.all s.did && !s.did ph then f (s.mark ph) else s

/-- The round set runs passes and dispatches: neither a conversion, a halt nor a test round set (R186, R222, R266). -/
def State.runs (s : State) : Bool := decide (s.cyc.kind = .normal) || decide (s.cyc.kind = .step)

/-- The tasks of a mask. -/
def maskTasks (m : Nat) : List Nat := (List.range 16).filter fun t => bit m t

/-- Whether the module runs a task: one that attaches runs only the tasks that have been transferred (R414). -/
def State.mayRun (s : State) (t : Nat) : Bool :=
  let st := s.rdM R.TWN_ROLE_STATE
  decide (s.rdM R.TWN_ROLE_ROLE ≠ 0) || !(decide (st = 2) || decide (st = 3)) || s.twin.transferred.contains t

/-- The tasks due and not skipped in this round set, when it runs passes. -/
def State.dueTasks (s : State) : List Nat :=
  if s.runs then (maskTasks (s.due &&& (0xFFFF - s.cyc.skipped))).filter s.mayRun else []

/-- TSK_OVR.CONSEC of a task. -/
def State.consec (s : State) (t : Nat) : Nat := bits (s.rdM R.TSK_OVR_CONSEC) (2 * t + 1) (2 * t)

/-- TSK_OVR.CONSEC of a task set. -/
def State.setConsec (s : State) (t v : Nat) : State :=
  let m := s.rdM R.TSK_OVR_CONSEC
  s.wrM R.TSK_OVR_CONSEC (m - (bits m (2 * t + 1) (2 * t) <<< (2 * t)) + ((v % 4) <<< (2 * t)))

/-- The lanes whose cores run. -/
def State.runningLanes (s : State) : List Lane := Lane.list.filter fun l => (s.lane l).running

/-- A saturating counter of every running lane advanced. -/
def State.incRunning (s : State) (f : RField) : State := s.runningLanes.foldl (fun s l => s.inc l f) s

/-- A saturating counter of every running lane advanced by n. -/
def State.addRunning (s : State) (f : RField) (n : Nat) : State :=
  s.runningLanes.foldl (fun s l => s.wr l f (satAdd (s.rd l f) n f.max)) s

/-- A task overruns (R212, R213, R216): STALE, TOTAL, CONSEC and the event. A third one in a row is kept for the dispatch
start. A step round set is not an overrun (R359). -/
def State.overrunTask (s : State) (t code : Nat) : State :=
  if s.cyc.kind = .step then s
  else
    let c := s.consec t
    let s1 := if 2 ≤ c then { s with cyc := { s.cyc with third := setBit s.cyc.third t true } } else s.setConsec t (c + 1)
    let s2 := s1.incRunning R.TSK_OVR_TOTAL
    let s3 := (s2.wrM R.TSK_OVR_STALE (setBit (s2.rdM R.TSK_OVR_STALE) t true)).event code [t, min 3 (c + 1)]
    { s3 with cyc := { s3.cyc with overran := setBit s3.cyc.overran t true } }

end Sys2Proof.Machine
end

