-- ==== Sys2Proof/Machine/Arbiter.lean ====
section
/-! DEFINITION. Machine/Arbiter.lean: DRAM grants and cut-offs, the hardware locks and the claim table (chapter 16). -/
namespace Sys2Proof.Machine

/-! ## DRAM grants (R556 to R565) -/

/-- A request reaches the DRAM arbiter at an arbitration point. A holder whose grant was revoked before has released by
now, and its request stands while its work is unfinished. The free channel is granted; a request above the holder's priority revokes
its grant; any other waits (R558, R559). -/
def State.dramRequest (s0 : State) (l : Lane) (r : Requester) (urgent : Bool) : State :=
  let x := s0.lane l
  let s := match x.grant, x.revoked with
    | some h, some _ => (s0.passGrant l).onLane l fun x => x.wait h (s0.rd l R.MEM_SCRUB_STAT_URGENT = 1)
    | _, _ => s0
  match (s.lane l).grant with
  | none => (s.onLane l fun x => { x with grant := some r }).pmc l 6 0 .plain
  | some h =>
    if s.dramPrio l h (s.rd l R.MEM_SCRUB_STAT_URGENT = 1) < s.dramPrio l r urgent then
      (s.onLane l fun x => { x with revoked := some r }).pmc l 6 1 .plain
    else s.onLane l fun x => x.wait r urgent

/-- GRANT_REVOCATION: a higher-priority request revokes the holder's grant at the next arbitration point (R558). -/
def execGrantRevocation (l : Lane) (req : Requester) (urgent : Bool) (s : State) : Host.Outcome State Fault Refusal :=
  .next (if (s.lane l).running then s.dramRequest l req urgent else s)

/-- A cut-off is flagged, counted and recorded (R565). -/
def State.cutRequester (s : State) (l : Lane) (b code : Nat) (data : List Nat) : State :=
  (((s.wr l R.ARB_FLAG_CUT (s.rd l R.ARB_FLAG_CUT ||| (1 <<< b))).inc l R.ARB_FLAG_CUT_CNT).eventL l code data).pmc l 6 2 .plain

/-- What a cut-off does to the holder's transfer in progress (R563). A core's access in progress is not a command of its
own: EADDR takes a free value. A state copy into the lane fails in this round set, and of a MAC the oldest frame that it holds is
discarded (log entry 187). -/
def State.abandonAccess (s : State) (l : Lane) (h : Requester) : State :=
  match h with
  | .core0 => (s.exception l .c0 exDataBus s.freshWord).drawn
  | .core1 => (s.exception l .c1 exDataBus s.freshWord).drawn
  | .engine => s.cutEngine l
  | .scrubber => s
  | .xle =>
    match s.cyc.copy with
    | some (o, _) => if o = l then (s.mark phState).event 0x4003 [2] else s
    | none => s
  | .mac =>
    (s.onLane l fun x => { x with rx := if x.rx.x = [] then { x.rx with y := x.rx.y.drop 1 } else { x.rx with x := x.rx.x.drop 1 } }).wr l
      R.DNR_STAT_RXOVF (s.rd l R.DNR_STAT_RXOVF + 1)

/-- DRAM_CUT_OFF: a holder that has not released in time is cut off and the channel passes to the revoking requester
(R563, R565). -/
def execDramCutOff (l : Lane) (s : State) : Host.Outcome State Fault Refusal :=
  match (s.lane l).grant, (s.lane l).revoked with
  | some h, some _ =>
    .next (((s.cutRequester l (requesterBit h) 0x1010 [(requesterBit h)]).passGrant l).abandonAccess l h)
  | _, _ => .next s

/-- ENGINE_CUT_OFF: the running pass has reached ARB_HOLDMAX.ENG and ends with status 0x6 (R564). -/
def execEngineCutOff (l : Lane) (s : State) : Host.Outcome State Fault Refusal :=
  match (s.eng l).running with
  | some (p, _) => .next ((s.cutRequester l 0 0x1011 [p.desc.task, p.desc.kindRaw]).cutEngine l)
  | none => .next s

/-- Whether an ARB_PRIO value may be applied: seven distinct priorities, and SCRUB_N < ENGINE < SCRUB_U (R561). -/
def prioOk (v : Word) : Bool :=
  let f (r : RField) : Nat := r.of v
  decide [f R.ARB_PRIO_MAC, f R.ARB_PRIO_XLE, f R.ARB_PRIO_SCRUB_U, f R.ARB_PRIO_CORE0, f R.ARB_PRIO_ENGINE, f R.ARB_PRIO_CORE1,
    f R.ARB_PRIO_SCRUB_N].Nodup
    && decide (f R.ARB_PRIO_SCRUB_N < f R.ARB_PRIO_ENGINE) && decide (f R.ARB_PRIO_ENGINE < f R.ARB_PRIO_SCRUB_U)

/-- A write of ARB_PRIO (R561). -/
def State.writeArbPrio (s : State) (l : Lane) (v : Word) : State :=
  if prioOk v then s.setLaneReg l R.ARB_PRIO v else s.eventL l 0x1012 []

/-- A write of ARB_HOLDMAX: a field outside its range is not applied (R561, R579). -/
def State.writeHoldmax (s : State) (l : Lane) (v : Word) : State :=
  let eng := R.ARB_HOLDMAX_ENG.of v
  let dram := R.ARB_HOLDMAX_DRAM.of v
  let s1 := if 100 ≤ eng then s.wr l R.ARB_HOLDMAX_ENG eng else s
  let s2 := if 0 < dram then s1.wr l R.ARB_HOLDMAX_DRAM dram else s1
  if 100 ≤ eng ∧ 0 < dram then s2 else s2.eventL l 0x1012 []

/-- ARB_PRIO_WRITE. -/
def execArbPrioWrite (l : Lane) (c : CoreId) (v : Word) (s : State) : Host.Outcome State Fault Refusal :=
  .next (s.regWriteBy l c R.ARB_PRIO v fun s => s.writeArbPrio l v)

/-! ## Hardware locks (R567 to R572) -/

/-- The OWNER code of a core. -/
def coreOwner : CoreId → Nat
  | .c0 => 1
  | .c1 => 2

/-- LVL of a lock as a core's level gives it. -/
def lockLvl (x : Core) : Nat := if x.level = .k then 1 else 0

/-- A lock made free. DIRTY stands as it is. -/
def State.freeLock (s : State) (l : Lane) (n : Nat) : State :=
  (((s.wr l (R.SEM_LOCK_OWNER n) 0).wr l (R.SEM_LOCK_LVL n) 0).wr l (R.SEM_LOCK_LEFT n) 0).wr l (R.SEM_LOCK_TICKET n) 0

/-- A refused lock operation is counted (R568). -/
def State.lockRefused (s : State) (l : Lane) : State := s.pmc l 7 1 .plain

/-- The core owns the lock and acts at the owner's level or above (R568). -/
def State.ownsLock (s : State) (l : Lane) (c : CoreId) (n : Nat) : Bool :=
  decide (s.rd l (R.SEM_LOCK_OWNER n) = (coreOwner c)) && decide (s.rd l (R.SEM_LOCK_LVL n) ≤ lockLvl (s.core l c))

/-- ACQUIRE on a free, clean lock (R567). -/
def State.lockAcquire (s : State) (l : Lane) (c : CoreId) (n lease : Nat) : State :=
  if s.rd l (R.SEM_LOCK_OWNER n) = 0 ∧ s.rd l (R.SEM_LOCK_DIRTY n) = 0 ∧ lease ≠ 0 then
    (((s.wr l (R.SEM_LOCK_OWNER n) (coreOwner c)).wr l (R.SEM_LOCK_LVL n) (lockLvl (s.core l c))).wr l (R.SEM_LOCK_LEFT n) lease).pmc
      l 7 0 .plain
  else s.lockRefused l

/-- RELEASE by the owner, or by the recovery handler at K, which clears DIRTY (R568, R571). -/
def State.lockRelease (s : State) (l : Lane) (c : CoreId) (n : Nat) : State :=
  if s.ownsLock l c n then s.freeLock l n
  else if s.rd l (R.SEM_LOCK_OWNER n) = 4 ∧ (s.core l c).level = .k then
    ((s.freeLock l n).wr l (R.SEM_LOCK_DIRTY n) 0).eventL l 0x1021 []
  else s.lockRefused l

/-- RENEW by the owner (R568). -/
def State.lockRenew (s : State) (l : Lane) (c : CoreId) (n lease : Nat) : State :=
  if s.ownsLock l c n ∧ lease ≠ 0 then s.wr l (R.SEM_LOCK_LEFT n) lease else s.lockRefused l

/-- HAND by the owner to a pass that is held, named by bits 63:48 of its ticket (R569). -/
def State.lockHand (s : State) (l : Lane) (c : CoreId) (n ticket lease : Nat) : State :=
  if s.ownsLock l c n ∧ s.rd l (R.SEM_LOCK_DIRTY n) = 0 ∧ lease ≠ 0
      ∧ (s.eng l).queue.any (fun p => decide (bits p.ticket.toNat 63 48 = ticket % 65536)) then
    ((s.wr l (R.SEM_LOCK_OWNER n) 3).wr l (R.SEM_LOCK_TICKET n) ticket).wr l (R.SEM_LOCK_LEFT n) lease
  else s.lockRefused l

/-- RECOVER of a DIRTY lock, at K only (R571). -/
def State.lockRecover (s : State) (l : Lane) (c : CoreId) (n : Nat) : State :=
  if (s.core l c).level = .k ∧ s.rd l (R.SEM_LOCK_DIRTY n) = 1 ∧ s.rd l (R.SEM_LOCK_OWNER n) = 0 then
    (s.wr l (R.SEM_LOCK_OWNER n) 4).wr l (R.SEM_LOCK_LVL n) 1
  else s.lockRefused l

/-- A write to SEM_LOCKn, decided by its OP field (R580). -/
def State.writeLock (s : State) (l : Lane) (c : CoreId) (n : Nat) (v : Word) : State :=
  let lease := (R.SEM_LOCK_LEASE n).of v
  match (R.SEM_LOCK_OP n).of v with
  | 1 => s.lockAcquire l c n lease
  | 2 => s.lockRelease l c n
  | 3 => s.lockRenew l c n lease
  | 4 => s.lockHand l c n ((R.SEM_LOCK_TICKET n).of v) lease
  | 5 => s.lockRecover l c n
  | _ => s.lockRefused l

/-- The value written to SEM_LOCKn by one of its operations. -/
def lockWord (op ticket lease : Nat) : Word := BitVec.ofNat 64 (op * 2 ^ 61 + ticket % 65536 * 2 ^ 32 + lease % 65536 * 2 ^ 16)

/-- A lock operation by a core: a write of SEM_LOCKn. A lock number of 64 or more names none. -/
def State.lockOp (s : State) (l : Lane) (c : CoreId) (n : Nat) (v : Word) : State :=
  if n < 64 then s.regWriteBy l c (R.SEM_LOCK n) v fun s => s.writeLock l c n v else s

/-- ACQUIRE. -/
def execAcquire (l : Lane) (c : CoreId) (n lease : Nat) (s : State) : Host.Outcome State Fault Refusal :=
  .next (s.lockOp l c n (lockWord 1 0 lease))

/-- RELEASE. -/
def execRelease (l : Lane) (c : CoreId) (n : Nat) (s : State) : Host.Outcome State Fault Refusal :=
  .next (s.lockOp l c n (lockWord 2 0 0))

/-- RENEW. -/
def execRenew (l : Lane) (c : CoreId) (n lease : Nat) (s : State) : Host.Outcome State Fault Refusal :=
  .next (s.lockOp l c n (lockWord 3 0 lease))

/-- HAND. -/
def execHand (l : Lane) (c : CoreId) (n ticket lease : Nat) (s : State) : Host.Outcome State Fault Refusal :=
  .next (s.lockOp l c n (lockWord 4 ticket lease))

/-- RECOVER. -/
def execRecover (l : Lane) (c : CoreId) (n : Nat) (s : State) : Host.Outcome State Fault Refusal :=
  .next (s.lockOp l c n (lockWord 5 0 0))

/-- LEASE_EXPIRY: the lock is released and marked DIRTY (R570). The lease is frozen while the module is HALTED. -/
def execLeaseExpiry (l : Lane) (n : Nat) (s : State) : Host.Outcome State Fault Refusal :=
  let owner := s.rd l (R.SEM_LOCK_OWNER n)
  if n < 64 ∧ owner ≠ 0 ∧ s.rd l (R.SEM_LOCK_LEFT n) ≠ 0 ∧ s.mode ≠ mHalted then
    let ticket := if owner = 3 then s.rd l (R.SEM_LOCK_TICKET n) else 0xFFFF
    .next ((((s.freeLock l n).wr l (R.SEM_LOCK_DIRTY n) 1).eventL l 0x1020 ([n, owner] ++ bytesBE ticket 2)).pmc l 7 2 .plain)
  else .next s

/-- The DIRTY locks of a lane. -/
def State.dirtyLocks (s : State) (l : Lane) : List Nat :=
  (List.range 64).filter fun n => decide (s.rd l (R.SEM_LOCK_DIRTY n) = 1)

/-- The firmware's scan at a cycle boundary: each free DIRTY lock is recovered and released (R571). -/
def State.dirtyScan (s : State) (l : Lane) : State :=
  if (s.lane l).running then
    (s.dirtyLocks l).foldl
      (fun s n =>
        if s.rd l (R.SEM_LOCK_OWNER n) = 0 then ((s.freeLock l n).wr l (R.SEM_LOCK_DIRTY n) 0).eventL l 0x1021 [] else s) s
  else s

/-! ## Claims (R573 to R577) -/

/-- The PPS_IN pin, and the SRAM buffers. -/
def resPps : Nat := 0x0001
def resBuffer : Nat := 0x0300

/-- Whether a feature may claim a resource (R573). -/
def mayClaim (feature resource : Nat) : Bool :=
  if resource = resPps then decide (feature = 1) || decide (feature = 2)
  else if 0x0100 ≤ resource ∧ resource ≤ 0x0107 then decide (feature = 3) || decide (feature = 4)
  else if 0x0200 ≤ resource ∧ resource ≤ 0x021F then decide (feature = 5) || decide (feature = 6)
  else if resource = resBuffer then decide (7 ≤ feature) && decide (feature ≤ 10)
  else false

/-- The claim table of a lane after a claim, with the result code (R574, R575, R577). A feature that claims again what it
holds is granted again; a feature with one range takes the new one. -/
def claimRows (rows : List ClaimRow) (q : ClaimReq) (fitted : Bool) : Nat × List ClaimRow :=
  let own (r : ClaimRow) : Bool :=
    r.feature == q.feature && r.resource == q.resource && (q.feature != 10 || (r.first == q.first && r.last == q.last))
  let rest := rows.filter fun r => !own r
  let new : ClaimRow := { feature := q.feature, resource := q.resource, first := q.first, last := q.last, dflt := false }
  if !mayClaim q.feature q.resource then (5, rows)
  else if q.feature = 2 ∧ !fitted then (3, rows)
  else if q.resource = resBuffer then
    if q.last < q.first ∨ 0x1000 ≤ q.last
        ∨ rest.any (fun r => r.resource == resBuffer && decide (q.first ≤ r.last) && decide (r.first ≤ q.last)) then (4, rows)
    else if 64 ≤ rest.length then (5, rows)
    else (0, rest ++ [new])
  else
    match rest.find? fun r => r.resource == q.resource with
    | some r => if r.dflt then (2, (rest.filter fun x => x.resource != q.resource) ++ [new]) else (1, rows)
    | none => if 64 ≤ rest.length then (5, rows) else (0, rest ++ [new])

/-- A claim by a lane: table, result and events (R574, R575). -/
def State.claim (s : State) (l : Lane) (q : ClaimReq) : Bool × State :=
  let r := claimRows (s.lane l).claims q s.fitted
  let s1 := (s.onLane l fun x => { x with claims := r.2 }).wr l R.SEM_CLAIM_RESULT r.1
  let granted := decide (r.1 = 0) || decide (r.1 = 2)
  (granted, if r.1 = 2 then s1.eventL l 0x1031 (bytesBE q.resource 2 ++ [q.feature])
    else if granted then s1 else s1.eventL l 0x1030 (bytesBE q.resource 2 ++ [q.feature, r.1]))

/-- The active station image maps field input 47 (R575). -/
def State.maps47 (s : State) : Bool := match s.station with | some b => b.inputMap.any fun r => r.input == 47 | none => false

/-- The claim of field input 47 on the PPS_IN pin, held when the pin is free: a default claim, explicit when the active image maps
the input (R575). -/
def withDefault (rows : List ClaimRow) (fitted mapped : Bool) : List ClaimRow :=
  if fitted && !(rows.any fun r => r.resource == resPps) then
    rows ++ [{ feature := 2, resource := resPps, first := 0, last := 0, dflt := !mapped }]
  else rows

/-- The claim of field input 47 is explicit or a default one as the active image maps the input (R575). -/
def State.judgeClaim47 (s : State) : State :=
  s.onLanes fun x => { x with claims := x.claims.map fun r => if r.feature = 2 ∧ r.resource = resPps then { r with dflt := !s.maps47 } else r }

/-- A release by a lane (R575, R577): the default claim returns when PPS_IN gives the pin up. -/
def State.claimRelease (s : State) (l : Lane) (q : ClaimReq) : State :=
  let own (r : ClaimRow) : Bool :=
    r.feature == q.feature && r.resource == q.resource && (q.feature != 10 || (r.first == q.first && r.last == q.last))
  let rows := (s.lane l).claims
  let result := if rows.any own then 0 else if mayClaim q.feature q.resource then 6 else 5
  let rest := rows.filter fun r => !own r
  let s1 := (s.onLane l fun x =>
    { x with claims := if q.resource = resPps ∧ result = 0 then withDefault rest s.fitted s.maps47 else rest }).wr l R.SEM_CLAIM_RESULT result
  if result = 0 then s1 else s1.eventL l 0x1030 (bytesBE q.resource 2 ++ [q.feature, result])

/-- The holder of a resource in a lane's table. -/
def LaneState.holder (x : LaneState) (resource : Nat) : Nat :=
  match x.claims.find? fun r => r.resource == resource with
  | some r => r.feature
  | none => 0

/-- The value of SEM_CLAIM that carries a request. -/
def claimWord (op : Nat) (q : ClaimReq) : Word :=
  BitVec.ofNat 64 (op * 2 ^ 63 + q.feature % 256 * 2 ^ 40 + q.resource % 65536 * 2 ^ 24 + q.first % 4096 * 2 ^ 12 + q.last % 4096)

/-- A write to SEM_CLAIM (R580): FEAT, RES and RANGE are held, and the claim or release is made. -/
def State.writeClaim (s : State) (l : Lane) (v : Word) : State :=
  let n := v.toNat
  let q : ClaimReq := { feature := bits n 47 40, resource := bits n 39 24, first := bits n 23 12, last := bits n 11 0 }
  let s1 := ((s.wr l R.SEM_CLAIM_FEAT q.feature).wr l R.SEM_CLAIM_RES q.resource).wr l R.SEM_CLAIM_RANGE (bits n 23 0)
  if bit n 63 then (s1.claim l q).2 else s1.claimRelease l q

/-- CLAIM. -/
def execClaim (l : Lane) (c : CoreId) (req : ClaimReq) (s : State) : Host.Outcome State Fault Refusal :=
  .next (s.regWriteBy l c R.SEM_CLAIM (claimWord 1 req) fun s => s.writeClaim l (claimWord 1 req))

/-- CLAIM_RELEASE. -/
def execClaimRelease (l : Lane) (c : CoreId) (req : ClaimReq) (s : State) : Host.Outcome State Fault Refusal :=
  .next (s.regWriteBy l c R.SEM_CLAIM (claimWord 0 req) fun s => s.writeClaim l (claimWord 0 req))

end Sys2Proof.Machine
end

