-- ==== Sys2Proof/Machine/Field.lean ====
section
/-! DEFINITION. Machine/Field.lean: the isolation links, the field-side controllers, test pulses and the field supply
(chapter 12). -/
namespace Sys2Proof.Machine

/-! ## Domains, field inputs -/

/-- State of domain Dn: 0 off, 1 ramping, 2 on, 3 fault (R494). -/
def State.dom (s : State) (n : Nat) : Nat := bits (s.rdM R.PWR_DOM_STAT_STATE) (2 * n + 1) (2 * n)

/-- The state of domain Dn set. -/
def State.setDom (s : State) (n v : Nat) : State :=
  let w := s.rdM R.PWR_DOM_STAT_STATE
  s.wrM R.PWR_DOM_STAT_STATE (w - (bits w (2 * n + 1) (2 * n) <<< (2 * n)) + ((v % 4) <<< (2 * n)))

/-- The domain of a lane: D2, D3 or D4 (R25). -/
def laneDom (l : Lane) : Nat := 2 + l.bit

/-- Field input numbers in the order of R434 pages 0 to 2: inputs, readbacks, feedback, VG present, sag, watchdog, branch
faults. -/
def fiReadback (c : Nat) : Nat := 48 + c
def fiFeedback (k : Nat) : Nat := 75 + k
def fiVg (g : Nat) : Nat := 81 + g
def fiSag : Nat := 84
def fiWdog : Nat := 85
def fiBranch (c b : Nat) : Nat := 86 + 3 * c + b
def nField : Nat := 167

/-- The group of a cell: CO_g is cell 24 + g (R426). -/
def groupOf (c : Nat) : Nat := if c < 24 then c / 8 else c - 24

/-- The lane that owns the switch of a position (R426). -/
def posOwner (j : Nat) : Lane :=
  match j with
  | 0 => .a
  | 1 => .b
  | 2 => .b
  | 3 => .c
  | 4 => .c
  | _ => .a

/-- Whether a lane owns a switch of a branch: 0 A·B, 1 B·C, 2 C·A. -/
def ownsBranch (l : Lane) (b : Nat) : Bool := decide (posOwner (2 * b) = l) || decide (posOwner (2 * b + 1) = l)

/-- The code of a field value (R434). -/
def triCode : Tri → Nat
  | .zero => 0
  | .one => 1
  | .unknown => 2

/-- The field value of a code. -/
def triOf : Nat → Tri
  | 0 => .zero
  | 1 => .one
  | _ => .unknown

/-! ## Frames (R430 to R436) -/

/-- The CRC of a frame: over bits 127:16 (R430). -/
def frameCrc (n : Nat) : Nat := crc16Bits (n >>> 16) 112

/-- A downlink frame (R431). `body` is REQ, or the content of a configuration frame. -/
def downFrame (sof fseq safe pkind pcell ppos body en rs lseq : Nat) : BitVec 128 :=
  let sec := en % 2 ^ 27 * 2 ^ 16 + rs % 256 * 2 ^ 8 + lseq % 256
  let n := sof * 2 ^ 120 + fseq % 64 * 2 ^ 114 + safe % 2 * 2 ^ 113 + pkind % 4 * 2 ^ 110 + pcell % 32 * 2 ^ 105
    + ppos % 8 * 2 ^ 102 + body % 2 ^ 27 * 2 ^ 75 + sec * 2 ^ 32 + crc16Bits sec 43 * 2 ^ 16
  BitVec.ofNat 128 (n + frameCrc n)

/-- SOF, CRC and ECRC of a downlink frame are valid (R433). -/
def downValid (n : Nat) : Bool :=
  (decide (bits n 127 120 = 0xA5) || decide (bits n 127 120 = 0xC3)) && decide (bits n 15 0 = frameCrc n)
    && decide (bits n 31 16 = crc16Bits (bits n 74 32) 43)

/-- FSEQ and LSEQ of a downlink frame. -/
def downSeq (n : Nat) : Nat × Nat := (bits n 119 114, bits n 39 32)

/-- Whether a pair of counts follows another. -/
def seqFollows (p q : Nat × Nat) : Bool := decide (q.1 = (p.1 + 1) % 64) && decide (q.2 = (p.2 + 1) % 256)

/-- The reset configuration of a channel: TYPE and debounce time, or the light pulse length for channel 48. -/
def cfgReset (n : Nat) : Nat := if n = 48 then 0x1E else 0x11388

/-- CFGCHK: bits 14:0 of the CRC over a configuration (R434). The order of its bytes is the model's: the 17 bits of channel 0
to 48 in turn. -/
def cfgCheck (cfg : Nat → Nat) : Nat := crc16Bits ((List.range 49).foldl (fun a n => a * 2 ^ 17 + cfg n % 2 ^ 17) 0) 833 % 2 ^ 15

/-- The configuration that a lane's shadow gives for its controller (R436). -/
def State.cfgExpected (s : State) (l : Lane) (n : Nat) : Nat :=
  if n = 48 then s.rdM R.FIO_PULSE_LIGHT else (s.laneReg l (R.FIO_DEB n)).toNat % 2 ^ 17

/-- A branch fault bit as a controller reports it: any of its tests failed (R443, R444). -/
def Ctrl.branchFault (x : Ctrl) (c b : Nat) : Bool := decide (bits x.faults (3 * (3 * c + b) + 2) (3 * (3 * c + b)) ≠ 0)

/-- A test's result is kept: a passed test clears what that test found. -/
def Ctrl.setFault (x : Ctrl) (c b test : Nat) (bad : Bool) : Ctrl :=
  { x with faults := setBit x.faults (3 * (3 * c + b) + test) bad }

/-- A value as a controller reports it (R438). -/
def Ctrl.report (x : Ctrl) (pin : Nat) (i : Nat) : Tri :=
  if x.unknown || (i == 47 && pin == 1) then .unknown else x.vals.getD i .unknown

/-- The DATA of an uplink page (R434). -/
def Ctrl.pageData (x : Ctrl) (pin page : Nat) : Nat :=
  let pack (n : Nat) (f : Nat → Nat) : Nat := (List.range n).foldl (fun a i => a + f i * 2 ^ (2 * i)) 0
  match page with
  | 0 => pack 48 fun i => triCode (x.report pin i)
  | 1 =>
    pack 27 (fun c => triCode (x.report pin (fiReadback c))) + pack 6 (fun k => triCode (x.report pin (fiFeedback k))) * 2 ^ 54
      + (min x.vf.toNat 1023) * 2 ^ 66 + x.vg % 8 * 2 ^ 76 + ofBool x.sag * 2 ^ 79 + ofBool x.trippedRep * 2 ^ 80
  | _ =>
    (List.range 81).foldl (fun a i => a + ofBool (x.branchFault (i / 3) (i % 3)) * 2 ^ i) 0
      + cfgCheck (fun n => mapGet cfgReset x.cfg n) * 2 ^ 81

/-- The uplink frame that answers a good downlink frame (R434). -/
def Ctrl.answer (x : Ctrl) (pin fseq : Nat) : BitVec 128 :=
  let n := 0x5A * 2 ^ 120 + fseq % 64 * 2 ^ 114 + x.page % 4 * 2 ^ 112 + x.pageData pin x.page * 2 ^ 16
  BitVec.ofNat 128 (n + frameCrc n)

/-! ## Switches (R427, R428) -/

/-- A controller changed. -/
def State.onCtrl (s : State) (l : Lane) (f : Ctrl → Ctrl) : State :=
  { s with field := { s.field with ctrl := s.field.ctrl.set l (f (s.field.ctrl.get l)) } }

/-- Whether a controller closes its switch at a position of a cell (R427, R429). -/
def Ctrl.closes (x : Ctrl) (c j : Nat) : Bool :=
  if x.safe || x.sag || x.tripped then false
  else if x.light = some (c, j) then true
  else bit x.req c && bit x.en c && decide (x.dark ≠ some (c, j / 2)) && !x.limited.contains (c, j / 2)

/-- Whether a cell's output is energised: a branch with both switches closed (R428). -/
def State.energised (s : State) (c : Nat) : Bool :=
  (List.range 3).any fun b =>
    (s.field.ctrl.get (posOwner (2 * b))).closes c (2 * b) && (s.field.ctrl.get (posOwner (2 * b + 1))).closes c (2 * b + 1)

/-- The result of a running pulse is discarded, in every controller (R445). -/
def State.discardPulse (s : State) : State :=
  { s with field := { s.field with
    pulse := s.field.pulse.map fun p => (p.1, p.2.1, p.2.2.1, true)
    ctrl := let f (x : Ctrl) : Ctrl := { x with pend := none }; ⟨f s.field.ctrl.a, f s.field.ctrl.b, f s.field.ctrl.c⟩ } }

/-- No good uplink frame arrives any longer: every input is absent for the lane (R455). -/
def State.uplinkLost (s : State) (l : Lane) : State :=
  ((s.wr l R.FIO_LINK_UP 0).wr l R.FIO_IN_VAL 0).wr l R.FIO_IN_UNK_UNK (2 ^ 48 - 1)

/-! ## The field module side -/

/-- The applied REQ: cells 0–23 and CO_0–CO_2 (R439, R455). -/
def State.outReq (s : State) : Nat := bits (s.modReg R.FIO_OUT_REQ).toNat 26 0

/-- A lane's enables, cells 0–26. -/
def State.laneEn (s : State) (l : Lane) : Nat := bits (s.laneReg l R.FIO_LEN).toNat 26 0

/-- One count of a list advanced or broken; 50 frames of 20 µs make 1 ms. -/
def runs50 (xs : List Nat) (holds : Nat → Bool) : List Nat :=
  xs.mapIdx fun i n => if holds i then min 50 (n + 1) else 0

/-- The applied REQ as the frames carry it: zero while SAFE, and the withheld bit of a light pulse (R439). -/
def State.frameReq (s : State) : Nat :=
  if s.safe then 0
  else match s.field.withheld with
    | some (c, v) => setBit s.outReq c v
    | none => s.outReq

/-- DOWNLINK_FRAME_SEND: one frame on all three links (R430 to R432, R439, R442); a CB-TX3-N does not drive them (R425). A frame with
SAFE set discards the result of a running pulse (R445). -/
def execDownlinkFrameSend (s0 : State) : Host.Outcome State Fault Refusal :=
  let s := if s0.power.safe6 then s0.discardPulse else s0
  if s.dom 6 ≠ 2 || !s.fitted then .next { s with field := { s.field with down := .all none } }
  else
    let req := s.frameReq
    -- a dark pulse ends at the frame at which its REQ bit goes to 0 (R445)
    let cancelled := match s.field.pulse with | some (true, c, _, _) => !bit req c | _ => false
    let f := if cancelled then { s.field with pulse := none, startDue := none, darkEnd := false } else s.field
    let p : Nat × Nat × Nat := match f.startDue, f.pulse with
      | some (d, c, j), _ => (if d then 1 else 2, c, j)
      | none, some (true, c, j, _) => (if f.darkEnd then 3 else 1, c, j)
      | none, _ => (0, 0, 0)
    let cfg : Option Nat := f.cfgOut.head?
    let fseq := (f.fseq + 1) % 64
    let sent (l : Lane) : Bool := decide (s.dom (laneDom l) = 2)
    let lseq (l : Lane) : Nat := if sent l then (f.lseq.get l + 1) % 256 else f.lseq.get l
    let frame (l : Lane) : Option (BitVec 128) :=
      if sent l then
        let body := match cfg with
          | some 48 => 48 * 2 ^ 21 + s.rdM R.FIO_PULSE_LIGHT * 2 ^ 4
          | some n => n * 2 ^ 21 + s.rd l (R.FIO_DEB_TYPE n) * 2 ^ 20 + s.rd l (R.FIO_DEB_DEB n) * 2 ^ 4
          | none => req
        some (downFrame (if cfg.isSome then 0xC3 else 0xA5) fseq (ofBool s.power.safe6) p.1 p.2.1 p.2.2 body (s.laneEn l)
          (f.lenRs.get l) (lseq l))
      else none
    let ended := decide (p.1 = 3)
    let f1 := { f with
      fseq := fseq, lseq := ⟨lseq .a, lseq .b, lseq .c⟩, down := ⟨frame .a, frame .b, frame .c⟩
      cfgOut := f.cfgOut.drop 1, startDue := none
      pulse := if ended then none else f.pulse
      darkEnd := f.darkEnd && !ended
      restRun := runs50 f.restRun fun c => !bit req c
      onRun := runs50 f.onRun fun c => bit req c }
    .next ({ s with field := f1 }.wrM R.FIO_OUT_STAT_PULSING (ofBool f1.pulse.isSome))

/-- A write of FIO_LEN: the cells of the mask take the value (R439). -/
def State.writeLen (s : State) (l : Lane) (v : Word) : State :=
  let m := bits v.toNat 58 32
  let old := s.laneEn l
  let new := (old - (old &&& m)) ||| (bits v.toNat 26 0 &&& m)
  let s1 := (s.wr l R.FIO_LEN_CELL (bits new 23 0)).wr l R.FIO_LEN_CO (bits new 26 24)
  if new = old then s1 else { s1 with field := { s1.field with lenRs := s1.field.lenRs.set l (s1.k % 256) } }

/-- LANE_ENABLE_WRITE: a write of FIO_LEN by a core; CO bits only at K (R439, R440). -/
def execLaneEnableWrite (l : Lane) (c : CoreId) (v : Word) (s : State) : Host.Outcome State Fault Refusal :=
  .next (s.regWriteBy l c R.FIO_LEN v fun s =>
    if s.fioAbsent R.FIO_LEN || (decide (R.FIO_LEN_COMASK.of v ≠ 0) && decide ((s.core l c).level ≠ .k)) then s else s.writeLen l v)

/-! ## The controllers -/

/-- A controller judges a frame (R433): the state after it, and whether the frame is good. -/
def Ctrl.judge (x : Ctrl) (n : Nat) : Ctrl × Bool :=
  let again := { x with need := if x.tripped then 2 else x.need }
  if !downValid n then (again, false)
  else
    let q := downSeq n
    let good := match x.cand, x.last with
      | some p, _ => seqFollows p q
      | none, some p => seqFollows p q
      | none, none => false
    if good then
      let need := x.need - 1
      ({ x with last := some q, cand := none, need := need, tripped := x.tripped && decide (need ≠ 0) }, true)
    else ({ again with cand := some q }, false)

/-- The result of a dark pulse counts at its dark-end frame; it is discarded where the pulse ends without one (R443, R445). -/
def Ctrl.settle (x : Ctrl) (kind : Nat) (safe : Bool) : Ctrl :=
  match x.pend with
  | some (c, b, bad) =>
    if safe || decide (kind = 0) || decide (kind = 2) then { x with pend := none }
    else if kind = 3 then { x.setFault c b 0 bad with pend := none }
    else x
  | none => x

/-- A controller acts on the content of a good normal frame (R427, R429, R442). -/
def Ctrl.obey (x0 : Ctrl) (l : Lane) (n : Nat) : Ctrl :=
  let x := x0.settle (bits n 111 110) (bit n 113)
  let req := bits n 101 75
  let kind := bits n 111 110
  let cell := bits n 109 105
  let pos := bits n 104 102
  { x with
    req := req, en := bits n 74 48, safe := bit n 113
    dark := if kind = 1 then some (cell, pos / 2) else none
    light := if kind = 2 ∧ posOwner pos = l then some (cell, pos) else x.light
    limited := x.limited.filter fun p => bit req p.1
    restRun := runs50 x.restRun fun c => !bit req c
    vgRun := runs50 x.vgRun fun g => bit x.vg g }

/-- The midpoints of the cells at rest are evaluated (R444). -/
def Ctrl.restCheck (x : Ctrl) (pulsed : Option Nat) (mids : List Mid) : Ctrl :=
  (List.range 27).foldl
    (fun x c =>
      if x.restRun.getD c 0 = 50 ∧ pulsed ≠ some c ∧ x.vgRun.getD (groupOf c) 0 = 50 then
        (List.range 3).foldl (fun x b => x.setFault c b 0 (decide (mids.getD (3 * c + b) .mid ≠ .mid))) x
      else x) x

/-- The controller answers with its next page; a reported watchdog trip is not reported again. -/
def Ctrl.reply (x : Ctrl) (pin n : Nat) : Ctrl :=
  { x with
    uplink := some (x.answer pin (downSeq n).1), page := (x.page + 1) % 3
    trippedRep := if x.page = 1 then false else x.trippedRep }

/-- DOWNLINK_FRAME_RECEIVED: a controller judges a normal frame, sets its switches and answers (R433, R434, R444). -/
def execDownlinkFrameReceived (l : Lane) (frame : BitVec 128) (mids : List Mid) (s : State) :
    Host.Outcome State Fault Refusal :=
  let n := frame.toNat
  let x := (s.field.ctrl.get l).judge n
  let pulsed := s.field.pulse.map fun p => p.2.1
  if bits n 127 120 = 0xC3 ∨ s.fitted = false then .next s
  else if x.2 then .next (s.onCtrl l fun _ => ((x.1.obey l n).restCheck pulsed mids).reply s.time.pin n)
  else .next (s.onCtrl l fun _ => x.1)

/-- CONFIG_FRAME_RECEIVED: a good configuration frame sets a channel; the switches stay (R436). -/
def execConfigFrameReceived (l : Lane) (frame : BitVec 128) (s : State) : Host.Outcome State Fault Refusal :=
  let n := frame.toNat
  let x := (s.field.ctrl.get l).judge n
  let ch := bits n 101 96
  if bits n 127 120 ≠ 0xC3 ∨ s.fitted = false then .next s
  else if x.2 then
    let v := if ch = 48 then bits n 94 79 else bits n 95 79
    .next (s.onCtrl l fun _ =>
      { x.1 with cfg := if ch ≤ 48 then mapSet cfgReset x.1.cfg ch v else x.1.cfg }.reply s.time.pin n)
  else .next (s.onCtrl l fun _ => x.1)

/-- CONTROLLER_LINK_WATCHDOG: every switch of the lane opens (R433). -/
def execControllerLinkWatchdog (l : Lane) (s : State) : Host.Outcome State Fault Refusal :=
  .next (if s.fitted then
      (s.discardPulse.onCtrl l fun x => { x with tripped := true, need := 2, trippedRep := true }).uplinkLost l
    else s)

/-- INPUT_DEBOUNCED: a debounced value changes (R437). -/
def execInputDebounced (l : Lane) (input : Nat) (value : Tri) (s : State) : Host.Outcome State Fault Refusal :=
  .next (if s.fitted then s.onCtrl l fun x => { x with vals := x.vals.set input value } else s)

/-- VF beyond the absolute maximum ratings, in 0.1 V (R581). -/
def vfBeyond (vf : Int) : Bool := decide (vf < -300) || decide (600 < vf)

/-- FIELD_SUPPLY_UNKNOWN: VF out of band (R438). -/
def execFieldSupplyUnknown (l : Lane) (vf : Int) (s : State) : Host.Outcome State Fault Refusal :=
  if s.fitted = false then .next s
  else if vfBeyond vf then .fault .absoluteMaximum
  else if vf < 192 ∨ 300 < vf then .next (s.onCtrl l fun x => { x with vf := vf, unknown := true })
  else .next s

/-- FIELD_SUPPLY_RECOVERED: VF has stayed inside for 10 ms: from 19.4 V after an undervoltage, up to 29.8 V after an
overvoltage (R438). -/
def execFieldSupplyRecovered (l : Lane) (vf : Int) (s : State) : Host.Outcome State Fault Refusal :=
  if s.fitted = false then .next s
  else if vfBeyond vf then .fault .absoluteMaximum
  else
    let x := s.field.ctrl.get l
    let ok := if 300 < x.vf then decide (192 ≤ vf) && decide (vf ≤ 298) else decide (194 ≤ vf) && decide (vf ≤ 300)
    .next (if ok then s.onCtrl l fun x => { x with vf := vf, unknown := false } else s)

/-- SAG_LATCH_SET: VF below 16.0 V or above 36.0 V opens every switch of the lane (R451). -/
def execSagLatchSet (l : Lane) (vf : Int) (s : State) : Host.Outcome State Fault Refusal :=
  if s.fitted = false then .next s
  else if vfBeyond vf then .fault .absoluteMaximum
  else if vf < 160 ∨ 360 < vf then
    .next (s.discardPulse.onCtrl l fun x => { x with vf := vf, sag := true, unknown := true })
  else .next s

/-- SAG_LATCH_RELEASE: VF has stayed between 19.2 V and 30.0 V for 1 s (R451). -/
def execSagLatchRelease (l : Lane) (vf : Int) (s : State) : Host.Outcome State Fault Refusal :=
  if s.fitted = false then .next s
  else if vfBeyond vf then .fault .absoluteMaximum
  else if 192 ≤ vf ∧ vf ≤ 300 then .next (s.onCtrl l fun x => { x with vf := vf, sag := false })
  else .next s

/-- CURRENT_LIMIT_TRIP: a switch in current limit for 5 ms opens until its REQ bit is 0 (R429). -/
def execCurrentLimitTrip (l : Lane) (cell branch : Nat) (s : State) : Host.Outcome State Fault Refusal :=
  if s.fitted ∧ cell < 27 ∧ branch < 3 ∧ ownsBranch l branch ∧ bit (s.field.ctrl.get l).req cell then
    .next (s.onCtrl l fun x => { x with limited := if x.limited.contains (cell, branch) then x.limited else (cell, branch) :: x.limited })
  else .next s

/-- CONTROLLER_SUPPLY_LOSS: the controller loses its supply or resets, and starts with every switch open (R453). -/
def execControllerSupplyLoss (l : Lane) (s : State) : Host.Outcome State Fault Refusal :=
  .next (if s.fitted then (s.discardPulse.onCtrl l fun x => { resetCtrl with vf := x.vf, vg := x.vg }).uplinkLost l else s)

/-! ## The lane's end (R435) -/

/-- The registers that show an uplink page. -/
def State.showPage (s : State) (l : Lane) (page data : Nat) : State :=
  match page with
  | 0 =>
    let v := (List.range 48).foldl (fun a i => a + ofBool (decide (bits data (2 * i + 1) (2 * i) = 1)) * 2 ^ i) 0
    let u := (List.range 48).foldl (fun a i => a + ofBool (decide (2 ≤ bits data (2 * i + 1) (2 * i))) * 2 ^ i) 0
    (s.wr l R.FIO_IN_VAL v).wr l R.FIO_IN_UNK_UNK u
  | 1 =>
    let vf := bits data 75 66
    let under := (s.field.ctrl.get l).unknown
    let s1 := if under && decide (s.rd l R.FIO_SUPPLY_UNDER = 0) then s.eventL l 0xA022 [] else s
    let s2 := ((((s1.wr l R.FIO_SUPPLY_VF vf).wr l R.FIO_SUPPLY_VG (bits data 78 76)).wr l R.FIO_SUPPLY_OVER
      (ofBool (decide (300 < vf)))).wr l R.FIO_SUPPLY_UNDER (ofBool under)).wr l R.FIO_SUPPLY_SAG (ofBool (bit data 79))
    if bit data 80 then (s2.inc l R.FIO_LINK_WDOG).eventL l 0xA030 [l.code] else s2
  | _ => s.wr l R.FIO_LINK_CFGCHK (bits data 95 81)

/-- UPLINK_FRAME_RECEIVED: a good frame, answering the frame just sent, is stamped and its page values are samples; any
other is discarded and counted (R435). -/
def execUplinkFrameReceived (l : Lane) (frame : BitVec 128) (inst : Nat) (s : State) : Host.Outcome State Fault Refusal :=
  let n := frame.toNat
  let seqOk : Bool := match s.field.down.get l with
    | some d => decide (bits d.toNat 119 114 = bits n 119 114)
    | none => false
  if s.dom (laneDom l) ≠ 2 || !s.fitted then .next s
  else if bits n 127 120 = 0x5A ∧ bits n 15 0 = frameCrc n ∧ seqOk ∧ bits n 113 112 < 3 then
    let smp : PageSample := { page := bits n 113 112, data := bits n 111 16, inst := inst }
    .next (((s.onLane l fun x => { x with samples := smp :: x.samples.take 15 }).wr l R.FIO_LINK_UP 1).showPage l smp.page smp.data)
  else .next (s.inc l R.FIO_LINK_CRC_ERR)

/-! ## Test pulses (R442 to R445) -/

/-- TEST_PULSE_START: the next cell and position in turn; skipped without VG or while SAFE (R442, R452). -/
def execTestPulseStart (s : State) : Host.Outcome State Fault Refusal :=
  if s.rdM R.FIO_PULSE_EN = 0 ∨ s.field.pulse.isSome ∨ s.dom 6 ≠ 2 ∨ s.fitted = false then .next s
  else
    let j := s.field.next / 27
    let c := s.field.next % 27
    let f := { s.field with next := (s.field.next + 1) % 162 }
    let vgOk := Lane.list.any fun l => bit (s.field.ctrl.get l).vg (groupOf c)
    if s.safe || !vgOk then .next { s with field := f }
    else
      let d := bit s.outReq c
      .next ({ s with field := { f with
        pulse := some (d, c, j, false), startDue := some (d, c, j)
        withheld := if d then f.withheld else some (c, false) } }.wrM R.FIO_OUT_STAT_PULSING 1)

/-- PULSE_EVALUATION: every controller evaluates the midpoint of the pulsed branch (R443); a dark pulse's result counts when its
dark-end frame comes (R445). -/
def execPulseEvaluation (levels : PerLane Mid) (s : State) : Host.Outcome State Fault Refusal :=
  match s.field.pulse with
  | some (dark, c, j, false) =>
    let test (l : Lane) (x : Ctrl) : Ctrl :=
      let m := levels.get l
      if dark then { x with pend := some (c, j / 2, decide (m ≠ .mid)) }
      else if j % 2 = 0 then x.setFault c (j / 2) 1 (decide (m ≠ .high))
      else x.setFault c (j / 2) 2 (decide (m ≠ .low))
    .next ((Lane.list.foldl (fun s l => s.onCtrl l (test l)) s).incWrapM (R.FIO_CELL_TESTS c))
  | _ => .next s

/-- DARK_PULSE_END: the next frame is the dark-end frame (R442). -/
def execDarkPulseEnd (s : State) : Host.Outcome State Fault Refusal :=
  match s.field.pulse with
  | some (true, _, _, _) => .next { s with field := { s.field with darkEnd := true } }
  | _ => .next s

/-- LIGHT_PULSE_END: the owning controller ends the pulse; REQ is withheld no longer (R439, R442). -/
def execLightPulseEnd (l : Lane) (s : State) : Host.Outcome State Fault Refusal :=
  match s.field.pulse with
  | some (false, _, j, _) =>
    if posOwner j = l then
      .next (({ s with field := { s.field with pulse := none, startDue := none, withheld := none } }.onCtrl l fun x =>
        { x with light := none }).wrM R.FIO_OUT_STAT_PULSING 0)
    else .next s
  | _ => .next s

/-- FEEDBACK_SETTLE: SETTLE ms have passed since the last change of CO_g (R450). -/
def execFeedbackSettle (group : Nat) (s : State) : Host.Outcome State Fault Refusal :=
  .next (if group < 3 ∧ s.fitted then { s with field := { s.field with settled := setBit s.field.settled group true } } else s)

/-- D6_SAFE_SWITCH_OFF: with the SAFE latch set, the power manager switches D6 off (R452). -/
def execD6SafeSwitchOff (s : State) : Host.Outcome State Fault Refusal :=
  .next (if s.power.safe1 then { s.setDom 6 0 with field := { s.field with down := .all none, pulse := none, startDue := none } }
    else s)

end Sys2Proof.Machine
end

