-- ==== Sys2Proof/Machine/Tele.lean ====
section
/-! DEFINITION. Machine/Tele.lean: safe telegrams (chapter 10): postmark arithmetic, the reception checks, deadlines, loss
and restoration, and what each outbound connection sends. -/
namespace Sys2Proof.Machine

/-! ## Time on the wire -/

/-- The telegram postmark of a cluster time in ns (R343). -/
def postmarkOf (ns : Nat) : Nat := ns / 1000 % 2 ^ 32

/-- The signed difference of two telegram postmarks (R366). -/
def pmDiff (a b : Nat) : Int := (((a : Int) - (b : Int) + 2 ^ 31) % 2 ^ 32) - 2 ^ 31

/-- The postmark of the round set's nominal boundary, b_k (R376, R388). -/
def State.bMark (s : State) : Nat := postmarkOf s.cyc.b

/-- The postmark of the dispatch start: b_k + 300 + P/2 µs (R388). -/
def State.dispatchMark (s : State) : Nat := (s.bMark + 300 + s.period * 500) % 2 ^ 32

/-! ## The telegram (R373, R374) -/

/-- The 92 bytes of a telegram. -/
def teleBytes (stale forced wdrawn : Bool) (dlen conn seq postmark expect : Nat) (data : List Nat) : List Nat :=
  let body := [1, ofBool stale + 2 * ofBool forced + 4 * ofBool wdrawn] ++ bytesBE dlen 2 ++ bytesBE conn 4 ++ bytesBE seq 4
    ++ bytesBE postmark 4 ++ bytesBE expect 4 ++ bytesBE 0 4
    ++ ((List.range 16).flatMap fun j => bytesBE (if j < dlen then data.getD j 0 else 0) 4)
  body ++ bytesBE (crc32c body) 4

/-- The DATA words of a telegram. -/
def teleData (bs : List Nat) : List Nat := (List.range 16).map fun j => numAt bs (0x18 + 4 * j) 4

/-- Check 4: form (R384). -/
def teleForm (bs : List Nat) (len : Nat) : Bool :=
  decide (len = 92) && decide (92 ≤ bs.length) && decide (numAt bs 0 1 = 1) && decide (numAt bs 1 1 < 8)
    && decide (numAt bs 2 2 ≤ 16) && decide (numAt bs 0x14 4 = 0) && (bs.drop 92).all (· == 0)
    && (List.range 16).all fun j => decide (j < numAt bs 2 2) || decide (numAt bs (0x18 + 4 * j) 4 = 0)

/-! ## Connection tables -/

/-- The inbound table of the active station image. -/
def State.inbound (s : State) : List InConn := match s.station with | some b => b.inbound | none => []

/-- The inbound entry of a CONN. -/
def State.inEntry (s : State) (conn : Nat) : Option InConn := s.inbound.find? fun c => c.conn == conn

/-- The state of an inbound connection; LOST when the table has just been loaded (R394). -/
def State.conn (s : State) (conn : Nat) : Conn :=
  (s.tele.conns.find? fun c => c.conn == conn).getD
    { conn := conn, phase := .lost, seq := 0, tLast := 0, data := [], accepted := none, bytes := [], failed := false
      before := none, fresh := false }

/-- The state of an inbound connection replaced. -/
def State.setConn (s : State) (c : Conn) : State :=
  let cs := s.tele.conns
  let cs' := if cs.any (fun x => x.conn == c.conn) then cs.map fun x => if x.conn = c.conn then c else x else cs ++ [c]
  { s with tele := { s.tele with conns := cs' } }

/-- A failed check is counted under its number (R384). -/
def State.countFail (s : State) (n : Nat) : State :=
  { s with tele := { s.tele with fails := mapInsert s.tele.fails n (mapGet (fun _ => 0) s.tele.fails n + 1) } }

/-- A telegram fails a check: counted and recorded (R384, R396). -/
def State.failTele (s : State) (n : Nat) (conn : Option Nat) (seq : Nat) : State :=
  (s.countFail n).event 0x8010 ((match conn with | some c => bytesBE c 4 | none => [255, 255, 255, 255]) ++ [n] ++ bytesBE seq 4)

/-- The connection keys that D7 accepts on reception at this instant (R498): the new key from ACT − 60,000 rounds, the old
one to ACT + 60,000. The key reference of an inbound connection is not given: every installed one is tried. -/
def State.rxKeys (s : State) : List Nat :=
  let r := s.time.now / 1000000
  s.sec.keys.flatMap fun k =>
    (if -60000 ≤ roundDiff r k.2.2.2 then [k.2.1] else []) ++ (if roundDiff r k.2.2.2 ≤ 60000 ∧ k.2.2.1 ≠ 0 then [k.2.2.1] else [])

/-- The key with which D7 sends: the new one from round ACT on (R498). -/
def State.txKey (s : State) (ref : Nat) : Option Nat :=
  match s.sec.keys.find? fun k => k.1 == ref with
  | some k =>
    if 0 ≤ roundDiff (s.time.now / 1000000) k.2.2.2 then some k.2.1 else if k.2.2.1 ≠ 0 then some k.2.2.1 else none
  | none => none

/-- The session key of R381: the first 32 bytes of HKDF-SHA-384 with the info "CBTX3" ‖ CONN ‖ NODE ‖ EPOCH. -/
def gcmKey (key conn node epoch : Nat) : Nat :=
  Config.hkdf key ([0x43, 0x42, 0x54, 0x58, 0x33] ++ bytesBE conn 4 ++ bytesBE node 2 ++ bytesBE epoch 4)

/-- The nonce of R381, from the outer form. -/
def gcmNonce (outer : List Nat) : List Nat := slice outer 2 2 ++ slice outer 8 4 ++ slice outer 0x0C 2 ++ slice outer 0x10 4

/-- The category 3 datagram opened under one of the keys: INNER, or none when no tag verifies (R381). -/
def openWan (keys : List Nat) (p : List Nat) : Option (List Nat) :=
  keys.findSome? fun k =>
    Config.gcmOpen (gcmKey k (numAt p 8 4) (numAt p 2 2) (numAt p 4 4)) (gcmNonce p) (slice p 0 0x14) (slice p 0x14 108)

/-! ## Reception (R384 to R386, R393) -/

/-- A telegram that passed the checks it had to is recorded (R385, R393). -/
def State.acceptTele (s : State) (e : InConn) (bs : List Nat) (tArr : Nat) : State :=
  let c := s.conn e.conn
  let phase : ConnPhase :=
    match c.phase with
    | .lost => .restoring
    | .restoring => if c.fresh then .restoring else .live
    | .live => .live
  let s1 := s.setConn { c with
    phase := phase, seq := numAt bs 8 4, tLast := tArr, data := teleData bs, accepted := some (numAt bs 0x58 4 % 2 ^ 15)
    bytes := bs.take 0x58, fresh := c.fresh || decide (c.phase = .lost) }
  if c.phase = .lost then s1.event 0x8003 (bytesBE e.conn 4)
  else if c.phase = .restoring ∧ phase = .live then s1.event 0x8004 (bytesBE e.conn 4)
  else s1

/-- Checks 4 to 9 on the bytes of a telegram (R384). `outer` is CONN and SEQ of the outer form of category 3. -/
def State.checkInner (s : State) (bs : List Nat) (len node tArr : Nat) (outer : Option (Nat × Nat)) : State × Bool :=
  let conn := numAt bs 4 4
  let seq := numAt bs 8 4
  if !teleForm bs len then (s.failTele 4 none seq, false)
  else if crc32c (bs.take 0x58) ≠ numAt bs 0x58 4 then (s.failTele 5 none seq, false)
  else
    match s.inEntry conn with
    | none => (s.failTele 6 (some conn) seq, false)
    | some e =>
      let idOk := match outer with
        | some o => decide (e.cat = 3) && decide (o = (conn, seq))
        | none => decide (e.cat = 2) && (decide (node = e.src0) || decide (node = e.src1))
      if !idOk then (s.failTele 6 (some conn) seq, false)
      else
        let c := s.conn conn
        let a := pmDiff tArr (numAt bs 0x0C 4)
        let d := pmDiff seq c.seq
        if a < 0 ∨ (min (numAt bs 0x10 4) e.maxAge : Int) < a then
          ((s.failTele 7 (some conn) seq).setConn { c with failed := true }, false)
        else if c.phase ≠ .lost ∧ d = 0 then
          let s2 := { s with tele := { s.tele with dups := s.tele.dups + 1 } }
          (if bs.take 0x58 ≠ c.bytes then s2.event 0x8011 (bytesBE conn 4 ++ bytesBE seq 4) else s2, false)
        else if c.phase ≠ .lost ∧ (d < 1 ∨ (e.maxJump : Int) < d) then
          ((s.failTele 8 (some conn) seq).setConn { c with failed := true }, false)
        else if bit (numAt bs 1 1) 1 ∧ e.forcedOk = false then
          ((s.failTele 9 (some conn) seq).setConn { c with failed := true }, false)
        else (s.acceptTele e bs tArr, true)

/-- Check 3 and the inner checks of category 3 (R384). -/
def State.openFrame (s : State) (p : List Nat) (node epoch conn seq tArr : Nat) : State :=
  match openWan s.rxKeys p with
  | none => s.failTele 3 none seq
  | some inner =>
    let r := s.checkInner inner inner.length node tArr (some (conn, seq))
    if r.2 then { r.1 with tele := { r.1.tele with epochs := mapInsert r.1.tele.epochs node epoch } } else r.1

/-- All checks on one frame of the agreed set (R384). -/
def State.checkFrame (s : State) (f : GFrame) : State :=
  let tArr := postmarkOf f.postmark
  if !f.wan then (s.checkInner f.payload f.len f.node tArr none).1
  else
    let p := f.payload
    let node := numAt p 2 2
    let epoch := numAt p 4 4
    let conn := numAt p 8 4
    let seq := numAt p 0x10 4
    let known := match s.inEntry conn with
      | some e => decide (e.cat = 3) && (decide (node = e.src0) || decide (node = e.src1))
      | none => false
    if !(decide (p.length = 128) && decide (numAt p 0 1 = 2) && decide (numAt p 1 1 = 0) && decide (numAt p 0x0E 2 = 0)
        && decide (node < 4096) && known) then s.failTele 1 none seq
    else
      let last := assoc s.tele.epochs node
      match last with
      | some e0 =>
        if epoch < e0 then (s.failTele 2 none seq).event 0x8030 (bytesBE node 2 ++ bytesBE epoch 4 ++ bytesBE e0 4)
        else s.openFrame p node epoch conn seq tArr
      | none => s.openFrame p node epoch conn seq tArr

/-- The order of the reception checks: ingress postmark, then slot, channel and port (R384). -/
def frameBefore (a b : GFrame) : Bool :=
  let key (f : GFrame) : Nat := ((f.postmark * 1024 + f.slot) * 2 + ofBool f.chanY) * 16 + f.port
  decide (key a ≤ key b)

/-- Connections at the start of a sorting: nothing accepted or failed in this gather set yet (R387, R405). -/
def Conn.atSorting (c : Conn) : Conn :=
  { c with accepted := none, failed := false, fresh := false, before := some (c.phase, c.seq, c.tLast, c.data, c.bytes) }

/-- A connection whose deadline lies before an instant is lost (R388 to R390, R393). -/
def State.expire (s : State) (mark code : Nat) : State :=
  s.inbound.foldl
    (fun (s : State) (e : InConn) =>
      let c := s.conn e.conn
      if c.phase ≠ .lost ∧ pmDiff ((c.tLast + e.tmo) % 2 ^ 32) mark < 0 then
        (s.setConn { c with phase := .lost }).event code (bytesBE e.conn 4)
      else s) s

/-- The reception checks of a sorting (R384). -/
def State.receiveTelegrams (s : State) : State :=
  let s1 := { s with tele := { s.tele with conns := s.inbound.map fun (e : InConn) => (s.conn e.conn).atSorting } }
  (s1.cyc.agreed.mergeSort frameBefore).foldl State.checkFrame s1

/-- The loss of connections at the sorting (R389). -/
def State.loseAtSorting (s : State) : State := s.expire s.bMark 0x8001

/-! ## Words posted from telegrams (R387) -/

/-- The KIND index of an element in a task image: its initial state word 0 (R101). -/
def elementKind (t : TaskImage) (id : Nat) : Nat :=
  match t.words.find? fun w => w.1 == mkRef 0 id 0 with
  | some w => w.2.1
  | none => 0

/-- Whether a value is valid for an AVAIL or DETECT word (R101). -/
def validFor (t : TaskImage) (r : Ref) (v : Nat) : Bool :=
  let kind := elementKind t (refId r)
  let four := [stateCode 1, stateCode 2, stateCode 3, stateCode 4]
  if refWord r = 1 then if kind = stateCode 12 then [stateCode 1, stateCode 2].contains v else four.contains v
  else if kind = stateCode 16 then decide (v < 2 ^ 32)
  else if kind = stateCode 12 then (List.range 64).any fun i => codeIndexOk i && decide (stateCode i = v)
  else four.contains v

/-- The DATA words a connection gives to the posting: none where they are UNKNOWN (R387). -/
def Conn.posts (c : Conn) : Option (List Nat) :=
  match c.phase with
  | .live => if c.failed ∧ c.accepted.isNone then none else some c.data
  | _ => none

/-- The mapped words of one inbound connection (R387). -/
def State.connWords (s : State) (e : InConn) : List (Nat × Ref × Nat) :=
  let data := (s.conn e.conn).posts
  e.wordmap.map fun w =>
    let v := match data with | some d => d.getD w.1 0 | none => codeUnknown
    (e.task, w.2, if validFor (s.taskImg e.task) w.2 v then v else codeUnknown)

/-! ## Sending (R375 to R380) -/

/-- Where the plain form of a task's state word lies (R95). -/
def State.plainAddr (s : State) (t : Nat) (r : Ref) : Nat := (s.taskImg t).stateBase + refOffset r

/-- A word of the committed state as a lane reads it: its plain value (R95, R152); none where the word is damaged beyond
correction. -/
def State.plainWord (s : State) (l : Lane) (t : Nat) (r : Ref) : Option Nat :=
  ((s.lane l).good (s.plainAddr t r)).map fun w => w.toNat % 2 ^ 32

/-- The lanes of the vote set read words of the committed state: what the memory makes of those reads (R282 to R284). -/
def State.readState (s : State) (ws : List (Nat × Ref)) : State :=
  let as := ws.map fun w => s.plainAddr w.1 w.2
  s.voters.foldl (fun (s : State) (l : Lane) => s.visit l as) s

/-- A word of the committed state as the vote set agrees on it: the first lane of the vote set that can read it. -/
def State.committedWord (s : State) (t : Nat) (r : Ref) : Nat :=
  (s.voters.findSome? fun l => s.plainWord l t r).getD codeUnknown

/-- A twin is attached: both are paired (TWN_ROLE.STATE 0x5). -/
def State.paired (s : State) : Bool := decide (s.rdM R.TWN_ROLE_STATE = 5)

/-- The module holds a role and has left INTEGRATING, so its telegrams and outputs count (R410, R414, R421, R479). An orderly
shutdown that has begun ends that (R485). -/
def State.takesPart (s : State) : Bool :=
  decide (s.rdM R.TWN_ROLE_ROLE ≠ 0) && decide (4 ≤ s.mode) && !s.power.stopping

/-- The module attaches: it runs tasks on transferred state, and its telegrams and outputs do not count yet (R414). -/
def State.attaching (s : State) : Bool :=
  decide (s.rdM R.TWN_ROLE_ROLE = 0) && (decide (s.rdM R.TWN_ROLE_STATE = 3) || decide (s.rdM R.TWN_ROLE_STATE = 4))

/-- During the comparison of a change-over with a twin, the changed module sends its UNCHANGED connections and drives its
UNCHANGED cells only (R511, step 4; STAGE COMPARE). -/
def State.unchangedOnly (s : State) : Bool :=
  decide (s.rdM R.UPD_STAT_STAGE = 5) && s.upd.isS && !s.upd.alone

/-- Whether a connection is lost or restoring. -/
def State.connDown (s : State) (conn : Nat) : Bool := decide ((s.conn conn).phase ≠ .live)

/-- What an outbound connection sends in this round set (R379): STALE, FORCED, WDRAWN, DATA, POSTMARK, and whether it is a
fresh dispatch. -/
structure Send where
  stale : Bool
  forced : Bool
  wdrawn : Bool
  data : List Nat
  postmark : Nat
  fresh : Bool
deriving DecidableEq, Repr

/-- The content of the connection's last dispatch, or its withdrawal values (R379). -/
def State.repeatOf (s : State) (o : OutConn) (forced : Bool) : Send :=
  match s.cyc.lastSent.find? fun x => x.1 == o.conn with
  | some x => ⟨true, forced, x.2.2.2, x.2.1, x.2.2.1, false⟩
  | none => ⟨true, forced, true, o.wdraw, s.bMark, false⟩

/-- The row of R379 that matches. -/
def State.sendOf (s : State) (o : OutConn) : Option Send :=
  let due := bit s.due o.task
  let ovr := bit s.cyc.overran o.task
  let halted := decide (s.cyc.kind = .halted)
  let forced := !s.cyc.forces.isEmpty
  if s.safe || !s.takesPart || !(due || ovr) || (s.unchangedOnly && !o.unchanged) then none
  else if s.cyc.kind = .conversion ∨ s.cyc.kind = .step then
    if s.paired then none else some (s.repeatOf o forced)
  else if o.deps.any s.connDown then
    some ⟨ovr || halted, forced || halted, true, o.wdraw, s.bMark, true⟩
  else if halted then some (s.repeatOf o true)
  else if ovr then some (s.repeatOf o forced)
  else some ⟨false, forced, false, o.words.map (s.committedWord o.task)
    , if o.localIn then postmarkOf s.cyc.inst else s.bMark, true⟩

/-- One outbound connection queued at dispatch, with its withdrawal events (R378, R379, R396). -/
def State.queueSend (s : State) (o : OutConn) : State :=
  match s.sendOf o with
  | none => s
  | some x =>
    let bs := teleBytes x.stale x.forced x.wdrawn o.dlen o.conn s.rs x.postmark o.expect x.data
    let s1 := { s with cyc := { s.cyc with
      queue := s.cyc.queue ++ [(o.conn, o.cat, bs)]
      lastSent := if x.fresh then
          (s.cyc.lastSent.filter fun y => y.1 != o.conn) ++ [(o.conn, x.data, x.postmark, x.wdrawn)]
        else s.cyc.lastSent } }
    let was := s1.tele.withdrawn.contains o.conn
    if !x.fresh then s1
    else if x.wdrawn && !was then
      ({ s1 with tele := { s1.tele with withdrawn := s1.tele.withdrawn ++ [o.conn] } }).event 0x8020 (bytesBE o.conn 4)
    else if !x.wdrawn && was then
      ({ s1 with tele := { s1.tele with withdrawn := s1.tele.withdrawn.filter (· != o.conn) } }).event 0x8021 (bytesBE o.conn 4)
    else s1

/-- Every outbound connection queued in the order of R378: descending PRIO of their tasks, then table order. -/
def State.queueAll (s : State) (b : StationBody) : State :=
  let prio (o : OutConn) : Nat := s.rd .a (R.TSK_CFG_PRIO o.task)
  (b.outbound.mergeSort fun x y => decide (prio y ≤ prio x)).foldl State.queueSend s

/-- The telegrams of the round set (R378), released to be sent and compared with the twin's (R408). A module that attaches
builds them for the comparison and sends none (R414). -/
def State.queueTelegrams (s : State) : State :=
  match s.station with
  | none => s
  | some b =>
    let bare (x : State) : List (Nat × List Nat) := x.cyc.queue.map fun q => (q.1, q.2.2.take 0x58)
    if s.attaching then
      let x := (({ s with cyc := { s.cyc with queue := [] } }.wrM R.TWN_ROLE_ROLE 1).setMode mRunning).queueAll b
      { s with
        cyc := { s.cyc with lastSent := x.cyc.lastSent, queue := [] }
        tele := { s.tele with withdrawn := x.tele.withdrawn }
        twin := { s.twin with released := bare x } }
    else
      let x := s.queueAll b
      { x with twin := { x.twin with released := bare x } }

/-- The category 3 datagram of a telegram (R380, R381); none without a key or an epoch. -/
def State.wanBytes (s : State) (o : OutConn) (node : Nat) (inner : List Nat) : Option (List Nat) :=
  match s.txKey o.keyRef, s.sec.epoch with
  | some key, some epoch =>
    let outer := [2, 0] ++ bytesBE node 2 ++ bytesBE epoch 4 ++ bytesBE o.conn 4 ++ bytesBE (s.k / 2 ^ 32 % 2 ^ 16) 2
      ++ [0, 0] ++ slice inner 8 4
    some (outer ++ Config.gcmSeal (gcmKey key o.conn node epoch) (gcmNonce outer) outer inner)
  | _, _ => none

end Sys2Proof.Machine
end

