-- ==== Sys2Proof/Machine/Sort.lean ====
section
/-! DEFINITION. Machine/Sort.lean: the first steps of sorting (R188, R197 to R200, R218, R219): gather close, exchange,
copying of frames, force tables, and the skew between the lanes. -/
namespace Sys2Proof.Machine

/-! ## Boundary markers and skew (R187, R188) -/

/-- BOUNDARY_MARKER_RECEIVED: the lane measures the offset of another lane's boundary from its own (R188). The other
lane's TST_DELAY.XLE delays its marker (R546). -/
def execBoundaryMarkerReceived (l sender : Lane) (offset : Int) (s : State) : Host.Outcome State Fault Refusal :=
  if s.cyc.active ∧ l ≠ sender ∧ (s.lane l).running then
    .next (s.onLane l fun x => { x with offsets := mapInsert x.offsets sender.code (offset + s.rd sender R.TST_DELAY_XLE) })
  else .next s

/-- The offset of a lane's boundary that another lane measured. -/
def State.offsetOf (s : State) (l v : Lane) : Option Int := assoc (s.lane l).offsets v.code

/-- An offset beyond the skew limit of 2,000 ns (R188). -/
def State.far (s : State) (l v : Lane) : Bool :=
  match s.offsetOf l v with
  | some d => decide (2000 < d.natAbs)
  | none => false

/-- The lanes out of step: both other lanes of a three-lane vote set measured them beyond the limit (R188). -/
def State.outOfStep (s : State) : List Lane :=
  if s.votes < 3 then [] else Lane.list.filter fun l => s.far l.others.1 l && s.far l.others.2 l

/-- A signed 16-bit offset, saturating at 32,767 in either direction (XLE_SKEW). -/
def offsetField (d : Int) : Nat := ((max (-32767) (min 32767 d)) % 65536).toNat

/-- XLE_SKEW as each lane shows it after a sorting (R188, R271). -/
def State.showSkew (s : State) : State :=
  let vs := s.voters
  let offs := vs.flatMap fun l => vs.filterMap fun v => if v = l then none else (s.offsetOf l v).map Int.natAbs
  let most := offs.foldl max 0
  s.runningLanes.foldl
    (fun (s : State) (l : Lane) =>
      (((s.wr l R.XLE_SKEW_OFF_LO (offsetField ((s.offsetOf l l.others.1).getD 0))).wr l R.XLE_SKEW_OFF_HI
        (offsetField ((s.offsetOf l l.others.2).getD 0))).wr l R.XLE_SKEW_MAXOFF (min most 0xFFFF)).wr l R.XLE_SKEW_STEP
        (s.outOfStep.foldl (fun m v => m ||| v.mask) 0)) s

/-- The skew rules of a sorting (R188): with three lanes a lane out of step twice running is named; with two lanes a
limit passed twice running latches SAFE. -/
def State.judgeSkew (s : State) : State :=
  let out := s.outOfStep
  let pairFar := match s.voters with
    | [l, v] => s.far l v || s.far v l
    | _ => false
  let s1 := { s with cyc := { s.cyc with farRun := if pairFar then s.cyc.farRun + 1 else 0 } }
  let s2 := Lane.list.foldl
    (fun (s : State) (l : Lane) =>
      let n := if out.contains l then (s.lane l).stepRun + 1 else 0
      let t := s.onLane l fun x => { x with stepRun := n }
      if n = 1 then t.event 0x3010 [l.code] else t) s1
  let s3 := s2.nameLanes (out.filter fun l => decide (2 ≤ (s2.lane l).stepRun)) srcStep noTaskNo
  if 2 ≤ s3.cyc.farRun then s3.latchSafe else s3

/-! ## Gather close (R197, R198) -/

/-- The newest sample of a page taken within [b − 60 µs, b] (R198). -/
def newestSample (samples : List PageSample) (b page : Nat) : Option PageSample :=
  (samples.filter fun u => u.page == page && decide (b ≤ u.inst + 60000) && decide (u.inst ≤ b)).foldl
    (fun (best : Option PageSample) (u : PageSample) =>
      match best with
      | some v => if v.inst < u.inst then some u else some v
      | none => some u) none


/-- GATHER_CLOSE: the lane closes its gather set, the frames postmarked from the boundary before to this one, and takes
the newest samples, in a test round set too (R186, R197, R198). A halted module sorts nothing (R265). -/
def execGatherClose (l : Lane) (s : State) : Host.Outcome State Fault Refusal :=
  if s.cyc.kind = .halted ∨ (s.lane l).running = false then .next s
  else .next (s.once [] (phGather l) fun s =>
    s.onLane l fun x =>
      { x with
        gather := x.inbox.filter fun f => decide (s.cyc.bPrev ≤ f.postmark) && decide (f.postmark < s.cyc.b)
        inbox := x.inbox.filter fun f => decide (s.cyc.b ≤ f.postmark)
        used := (List.range 3).filterMap (newestSample x.samples s.cyc.b) })

/-! ## Force tables (R217 to R219) -/

/-- The words that the input map and the connections feed: task and word (R204). -/
def State.fedWords (s : State) : List (Nat × Ref) :=
  match s.station with
  | some b => (b.inputMap.map fun r => (r.task, r.word)) ++ b.inbound.flatMap fun c => c.wordmap.map fun w => (c.task, w.2)
  | none => []

/-- The word that an input force names. -/
def forceRef (w0 : Word) : Ref := mkRef 0 (bits w0.toNat 59 46) (bits w0.toNat 45 42)

/-- The task whose word an input force names, if it is fed. -/
def State.forceTask (s : State) (w0 : Word) : Option Nat := (s.fedWords.find? fun p => p.2 == forceRef w0).map (·.1)

/-- Whether a force entry is valid (R218). -/
def State.forceValid (s : State) (w0 w1 : Word) : Bool :=
  let n := w0.toNat
  decide (bits n 41 5 = 0) && decide (bits w1.toNat 63 32 = 0) &&
    (match bits n 63 60 with
     | 1 =>
       decide (bits n 4 0 = 0) && (decide (bits n 45 42 = 1) || decide (bits n 45 42 = 2)) &&
         (match s.forceTask w0 with
          | some t => validFor (s.taskImg t) (forceRef w0) w1.toNat
          | none => false)
     | 2 => decide (bits n 4 0 < 24) && decide (bits n 59 42 = 0) && (decide (w1.toNat = codeTrue) || decide (w1.toNat = codeFalse))
     | _ => false)

/-- One lane reads its force table: position and words of every entry that can be read. -/
def State.readForces (s : State) (l : Lane) : State × List (Nat × Word × Word) :=
  let base := s.rd l R.TSK_FORCE_BASE * 64
  (List.range (s.rd l R.TSK_FORCE_COUNT)).foldl
    (fun (a : State × List (Nat × Word × Word)) (i : Nat) =>
      let r0 := a.1.readMem l mCore0 none 0 (base + 16 * i) 8
      let r1 := r0.2.readMem l mCore0 none 0 (base + 16 * i + 8) 8
      match r0.1, r1.1 with
      | some w0, some w1 => (r1.2, a.2 ++ [(i, w0, w1)])
      | _, _ => (r1.2, a.2)) (s, [])

/-- DATA of the force records: position and the 16 bytes of the entry (R606). -/
def forceData (e : Nat × Word × Word) : List Nat := bytesBE e.1 2 ++ bytesBE e.2.1.toNat 8 ++ bytesBE e.2.2.toNat 8

/-- What an entry forces: an input word or an output cell. -/
def forceTarget (w0 : Word) : Nat := bits w0.toNat 63 42 * 32 + bits w0.toNat 4 0

/-- The force tables are exchanged: invalid entries are recorded, and of the valid ones those apply that two or more lanes
hold alike, the lowest position first for each target (R199, R218, R219). Forcing acts only in COMMISSIONING (R217). -/
def State.exchangeForces (s0 : State) : State :=
  let s := { s0 with cyc := { s0.cyc with forceRead := [] } }
  let r := (if s.mode = mCommissioning then s.voters else []).foldl
    (fun (a : State × List (Lane × List (Nat × Word × Word))) (l : Lane) =>
      let x := a.1.readForces l
      (x.1, a.2 ++ [(l, x.2)])) (s, [])
  let s1 := r.2.foldl
    (fun (s : State) (t : Lane × List (Nat × Word × Word)) =>
      t.2.foldl
        (fun (s : State) (e : Nat × Word × Word) =>
          if s.forceValid e.2.1 e.2.2 then s else s.eventL t.1 0x3022 (forceData e)) s) r.1
  let entries := (r.2.flatMap fun t => t.2).filter fun e => s.forceValid e.2.1 e.2.2
  let held (e : Nat × Word × Word) : Nat :=
    (r.2.filter fun t => t.2.any fun x => x.2.1 == e.2.1 && x.2.2 == e.2.2).length
  let sorted := (entries.filter fun e => decide (2 ≤ held e)).mergeSort fun x y => decide (x.1 ≤ y.1)
  let chosen := sorted.foldl
    (fun (acc : List (Nat × Word × Word)) (e : Nat × Word × Word) =>
      if acc.any fun x => forceTarget x.2.1 == forceTarget e.2.1 then acc else acc ++ [e]) []
  { s1 with cyc := { s1.cyc with forceRead := chosen } }

/-- The forces that apply from this agreement on; every start and end is recorded (R219, R221). -/
def State.applyForces (s : State) : State :=
  let same (x y : Nat × Word × Word) : Bool := x.2.1 == y.2.1 && x.2.2 == y.2.2
  let new := s.cyc.forceRead
  let old := s.cyc.forces
  let s1 := new.foldl (fun (s : State) (e : Nat × Word × Word) =>
    if old.any (same e) then s else s.event 0x3020 (forceData e)) s
  let s2 := old.foldl (fun (s : State) (e : Nat × Word × Word) =>
    if new.any (same e) then s else s.event 0x3021 (forceData e)) s1
  ({ s2 with cyc := { s2.cyc with forces := new } }).wrM R.TSK_STAT_FORCED (ofBool (!new.isEmpty))

/-! ## Steering (R354, R358) -/

/-- The largest slew, 100 ppm (R354). -/
def maxSlew : Int := 10000000

/-- A unit steers on θ for one round: rate −θ/64 ppm, phase −θ/2 over the round, at most 100 ppm in all; the rest is carried (R354). -/
def Steer.on (x : Steer) (theta : Int) : Steer :=
  let rate := x.rate - theta * 100000 / 64
  let want := x.owed - theta * 100000 / 2
  let slew := max (-maxSlew) (min maxSlew (rate + want))
  { rate := rate, owed := want - (slew - rate), slew := slew }

/-- Without a SYNC a unit keeps its rate and makes no phase correction (R358). -/
def Steer.hold (x : Steer) : Steer := { x with owed := 0, slew := x.rate }

/-- Lanes in holdover steer on the mean of their offsets to the other lanes of the vote set (R358). A later boundary of another lane
says that the own clock is ahead. -/
def State.holdTogether (s : State) (l : Lane) : State :=
  let offs := s.voters.filterMap fun v => if v = l then none else s.offsetOf l v
  if s.rd l R.TIM_STAT_DOM ≠ 2 ∨ offs.isEmpty then s
  else
    let y := (s.lane l).steer.on (offs.foldl (· + ·) 0 / offs.length)
    (s.onLane l fun x => { x with steer := y }).wr l R.TIM_RATE_LANE (y.rate % 2 ^ 32).toNat

/-! ## Exchange and copying (R199, R200) -/

/-- SORTING_EXCHANGE: the lanes exchange digests, values, offsets and force tables (R199); lanes in holdover steer on the offsets
(R358). -/
def execSortingExchange (s : State) : Host.Outcome State Fault Refusal :=
  .next (s.once (s.voters.map phGather) phSort fun s =>
    (s.voters.foldl State.holdTogether s.showSkew).exchangeForces)

/-- The digest of a frame (R199): slot, postmark and the frame's CRC-32C. -/
def GFrame.digest (f : GFrame) : Nat × Nat × Nat := (f.slot, f.postmark, f.crc)

/-- Frames that belong together: the same slot and postmark on the same side. -/
def GFrame.key (f : GFrame) : Bool × Nat × Nat := (f.wan, f.slot, f.postmark)

/-- The lanes of the vote set that hold a frame identically. -/
def State.holders (s : State) (f : GFrame) : List Lane :=
  s.voters.filter fun l => (s.lane l).gather.any fun g => g.wan == f.wan && g.digest == f.digest

/-- FRAME_COPY: frames that two lanes hold identically form the agreed set; a lane that lacks one receives a copy; the
others are dropped (R200). -/
def execFrameCopy (s : State) : Host.Outcome State Fault Refusal :=
  .next (s.once [phSort] phCopy fun s =>
    let all := s.voters.flatMap fun l => (s.lane l).gather
    let agreed := all.foldl
      (fun (acc : List GFrame) (f : GFrame) =>
        if 2 ≤ (s.holders f).length ∧ acc.all fun g => g.wan != f.wan || g.digest != f.digest then acc ++ [f] else acc) []
    let keys := all.foldl
      (fun (acc : List (Bool × Nat × Nat)) (f : GFrame) => if acc.contains f.key then acc else acc ++ [f.key]) []
    let dropped := keys.filter fun k => agreed.all fun g => g.key != k
    let copies := agreed.foldl (fun n f => n + (s.votes - (s.holders f).length)) 0
    let s1 := (s.addRunning R.TSK_SORT_DROP_CNT dropped.length).addRunning R.TSK_SORT_COPY_CNT copies
    let s2 := { s1 with cyc := { s1.cyc with agreed := agreed } }
    s2.runningLanes.foldl (fun (s : State) (l : Lane) => s.onLane l fun x => { x with gather := agreed }) s2)

end Sys2Proof.Machine
end

