-- ==== Sys2Proof/Machine/Denras.lean ====
section
/-! DEFINITION. Machine/Denras.lean: the star cores and their guardian, cold start, integration, schedules and poste
restante slots (chapter 08). -/
namespace Sys2Proof.Machine

/-! ## Cores, ports and tables -/

/-- Frame kinds (R309). -/
def fkData : Nat := 1
def fkSync : Nat := 2
def fkMgmt : Nat := 3
def fkClaim : Nat := 4
def fkCold : Nat := 5
def fkNull : Nat := 6

/-- Protocol states of DNR_STAT.STATE (R340). -/
def dnOff : Nat := 0
def dnListen : Nat := 1
def dnCold : Nat := 2
def dnInteg : Nat := 3
def dnActive : Nat := 4
def dnSilent : Nat := 5

/-- The number of a channel in records and register arrays: 0 X, 1 Y. -/
def chanNum : Chan → Nat
  | .x => 0
  | .y => 1

/-- Port p of a core as the register arrays number it: n = 9c + p (R341). -/
def portN (ch : Chan) (p : Nat) : Nat := 9 * chanNum ch + p

/-- A field that STR registers hold for X and for Y. -/
def pick (ch : Chan) (fx fy : RField) : RField := match ch with | .x => fx | .y => fy

/-- A star core. -/
def State.star (s : State) (ch : Chan) : StarCore := s.net.star.get ch

/-- A star core changed. -/
def State.onStar (s : State) (ch : Chan) (f : StarCore → StarCore) : State :=
  { s with net := { s.net with star := s.net.star.set ch (f (s.net.star.get ch)) } }

/-- State of a core: 0 OFF, 1 LISTEN, 2 ACTIVE, 3 out of service (STR_STAT). -/
def State.coreState (s : State) (ch : Chan) : Nat := s.rdM (pick ch R.STR_STAT_STATE_X R.STR_STAT_STATE_Y)

/-- The state of a core set. -/
def State.setCoreState (s : State) (ch : Chan) (v : Nat) : State := s.wrM (pick ch R.STR_STAT_STATE_X R.STR_STAT_STATE_Y) v

/-- Role of a core: 0 OFF, 1 ROOT, 2 TIER (R303). -/
def State.coreRole (s : State) (ch : Chan) : Nat := s.rdM (pick ch R.STR_CTRL_ROLE_X R.STR_CTRL_ROLE_Y)

/-- The upward port of a TIER core. -/
def State.upPort (s : State) (ch : Chan) : Nat := s.rdM (pick ch R.STR_CTRL_UP_X R.STR_CTRL_UP_Y)

/-- The schedule in force in a core. -/
def State.coreSched (s : State) (ch : Chan) : Nat := s.rdM (pick ch R.STR_STAT_SCHED_X R.STR_STAT_SCHED_Y)

/-- The entries of a schedule table: up to the first all-zero entry (R311). -/
def tableEntries (t : List Word) : List Word := (t.take 8192).takeWhile fun w => w != 0

/-- Fields of a schedule entry (R311). -/
def seKind (w : Word) : Nat := bits w.toNat 63 62
def seSlot (w : Word) : Nat := bits w.toNat 61 52
def sePexp (w : Word) : Nat := bits w.toNat 51 49
def sePhase (w : Word) : Nat := bits w.toNat 48 43
def sePort (ch : Chan) (w : Word) : Nat := match ch with | .x => bits w.toNat 42 39 | .y => bits w.toNat 38 35
def seNode (w : Word) : Nat := bits w.toNat 34 23
def seUse (w : Word) : Bool := bit w.toNat 22

/-- Whether an entry occurs in a round. -/
def seOccurs (w : Word) (round : Nat) : Bool := decide (round % 2 ^ sePexp w = sePhase w)

/-- One of four tables. -/
def tableOf (v : Vector (List Word) 4) (n : Nat) : List Word := if h : n < 4 then v[n] else []

/-- The guardian's schedule in force. -/
def State.guardTable (s : State) (ch : Chan) : List Word := tableEntries (tableOf (s.star ch).tables (s.coreSched ch))

/-- The module's schedule in force (DNR). -/
def State.ownTable (s : State) : List Word :=
  tableEntries (tableOf (s.lane s.mainLane).sched (s.rdM R.DNR_SCHED_SEL_NOW))

/-- The module's node ID and its twin's. -/
def State.nodeId (s : State) : Nat := s.rd s.mainLane R.DNR_NODE_NODE
def State.twinId (s : State) : Nat := s.rd s.mainLane R.DNR_NODE_TWIN

/-- The module's protocol state (DNR_STAT.STATE). -/
def State.dnr (s : State) : Nat := s.rdM R.DNR_STAT_STATE

/-- The cluster round number. -/
def State.round (s : State) : Nat := s.rdM R.DNR_ROUND_ROUND

/-! ## Poste restante claims in a core (R328 to R330) -/

/-- A claim ends: event 0x6031. -/
def State.endClaim (s : State) (ch : Chan) (slot : Nat) : State :=
  match (s.star ch).claims.find? fun c => c.slot == slot with
  | some c =>
    (s.onStar ch fun x => { x with claims := x.claims.filter fun d => d.slot != slot }).event 0x6031
      (bytesBE slot 2 ++ bytesBE c.node 2)
  | none => s

/-- All claims of a core end (R330, R334). -/
def State.endClaims (s : State) (ch : Chan) : State := (s.star ch).claims.foldl (fun s c => s.endClaim ch c.slot) s

/-- Claims after an accepted CLAIM: the slot is the claimant's, kept alive, or released from the next round on (R328, R330). -/
def noteClaim (cs : List PrClaim) (port : Nat) (f : Frame) (slot : Nat) : List PrClaim :=
  if cs.any fun c => c.slot == slot then
    cs.map fun c => if c.slot = slot then { c with idle := 0, released := c.released || bit (numAt f.payload 0 1) 0 } else c
  else if bit (numAt f.payload 0 1) 0 then cs
  else cs ++ [{ slot := slot, port := port, node := f.node, idle := 0, released := false }]

/-- A CLAIM that this core accepts on a port (R328, R330): a new claim is recorded. -/
def State.claimFrame (s : State) (ch : Chan) (port tSfd : Nat) (f : Frame) (slot : Nat) : State :=
  let new := !((s.star ch).claims.any fun c => c.slot == slot) && !bit (numAt f.payload 0 1) 0
  let s1 := s.onStar ch fun x =>
    { x with
      claims := noteClaim x.claims port f slot
      claimTick := if new then some (slot, tSfd, port) else x.claimTick }
  if new then s1.event 0x6030 (bytesBE slot 2 ++ bytesBE f.node 2) else s1

/-- The claims as the root of the channel saw them (R330): a ROOT core's own, a TIER core's from the frames from above. -/
def State.rootClaims (s : State) (ch : Chan) : List PrClaim :=
  if s.coreRole ch = 1 then (s.star ch).claims else (s.star ch).seen

/-! ## The guardian (R315 to R319) -/

/-- What the guardian finds in a frame. -/
inductive Verdict where
  | accept (slot : Nat)
  | violation (slot cause : Nat)
deriving DecidableEq, Repr

/-- The slot nearest to an arrival, its round, and the offset from its start, in the core's cluster time less 640 ns for
each depth (R315). -/
def nearestSlot (t : Int) : Nat × Nat × Int :=
  let round := ((t + 800) / 1000000).toNat
  let into := t - (round : Int) * 1000000
  let slot := ((into + 800) / 1600).toNat
  (round, slot, into - (slot : Int) * 1600)

/-- The nodes and kinds that a slot admits from a port in a round; none where it has no occurrence (R306, R311, R317,
R327, R328). -/
def State.admits (s : State) (ch : Chan) (port slot round : Nat) : Option (List Nat × List Nat) :=
  let x := s.star ch
  let t := s.guardTable ch
  let listed := (t.filter fun e => seKind e = 1 && sePort ch e = port).map seNode
  if slot = 0 then
    some (listed.filter (· == x.leader), [if x.coldRounds < 8 then fkCold else fkSync])
  else if slot = 1 then some (listed.filter (· == x.twin), [fkSync])
  else if slot = 2 then some (listed.filter (· == x.leader), [fkMgmt])
  else
    match t.find? fun e => (seKind e = 0 && seSlot e = slot && seOccurs e round && sePort ch e = port) ||
        (seKind e = 3 && seSlot e = slot) with
    | none => none
    | some e =>
      if seKind e = 0 then some ([seNode e], [fkData, fkNull])
      else
        match x.claims.find? fun c => c.slot == slot with
        | some c => some (if c.port = port then [c.node] else [], [fkClaim])
        | none =>
          let free := (List.range 4096).filter fun n => decide ((x.claims.filter fun c => c.node == n).length < 4)
          some (if s.rdM (R.STR_PORT_CTRL_PR (portN ch port)) = 1 then free else [], [fkClaim])

/-- The header checks that make a FORMAT violation; a KIND that the slot does not admit is one of OWNER (R317). -/
def frameFormatOk (ch : Chan) (f : Frame) : Bool :=
  (f.destX == decide (ch = .x)) && decide (f.chan = ch) && f.etherOk && f.hcrcOk && decide (f.len ≤ 96)

/-- The guardian judges a frame on a port that is not blocked (R315, R317). -/
def State.judge (s : State) (ch : Chan) (port : Nat) (t : Int) (f : Frame) (endOk : Bool) : Verdict :=
  let depth := s.rdM (R.STR_PORT_CTRL_DEPTH (portN ch port))
  let p := nearestSlot (t - 640 * depth)
  let round := p.1
  let slot := p.2.1
  if 588 ≤ slot then .violation slot 3
  else
    match s.admits ch port slot round with
    | none => .violation slot 3
    | some (nodes, kinds) =>
      if p.2.2 < -(s.rdM R.STR_WINDOW_EARLY : Int) then .violation slot 1
      else if (s.rdM R.STR_WINDOW_LATE : Int) < p.2.2 then .violation slot 2
      else if !frameFormatOk ch f then .violation slot 5
      else if !nodes.contains f.node || !kinds.contains f.kind || f.slot != slot || f.round != round % 2 ^ 32
          || f.sched != s.coreSched ch then .violation slot 4
      else if !endOk then .violation slot 6
      else .accept slot

/-- A violation is counted; the third in a row blocks the port, and ends its claims (R317, R319, R330). -/
def State.violate (s : State) (ch : Chan) (port slot cause : Nat) (f : Frame) : State :=
  let n := portN ch port
  let s1 := ((s.incWrapM (R.STR_BLOCK_CNT_TRUNC n)).wrM (R.STR_BLOCK_CNT_CAUSE n) cause).event 0x6010
    ([chanNum ch, port] ++ bytesBE slot 2 ++ [cause] ++ bytesBE f.node 2)
  if s1.rdM (R.STR_BLOCK_CNT_CONSEC n) < 2 then s1.wrM (R.STR_BLOCK_CNT_CONSEC n) (s1.rdM (R.STR_BLOCK_CNT_CONSEC n) + 1)
  else
    let s2 := ((((s1.wrM (R.STR_BLOCK_CNT_CONSEC n) 0).wrM (R.STR_BLOCK_CNT_BLOCKED n) 1).incWrapM (R.STR_BLOCK_CNT_BLOCKS n)).wrM
      (R.STR_BLOCK_CNT_SILENT n) 0).event 0x6011 [chanNum ch, port]
    (s2.star ch).claims.foldl (fun (s : State) (c : PrClaim) => if c.port = port then s.endClaim ch c.slot else s) s2

/-- A core becomes ACTIVE: schedule 0 runs, and no claim stands (R323, R325). -/
def State.activateCore (s : State) (ch : Chan) (epoch : Int) (leader cold : Nat) : State :=
  ((s.setCoreState ch 2).wrM (pick ch R.STR_STAT_SCHED_X R.STR_STAT_SCHED_Y) 0).onStar ch fun x =>
    { x with
      epoch := epoch, leader := leader, twin := 0, round := 0, coldRounds := cold, noSync := 0, claims := [], seen := []
      coldTick := none, claimTick := none, sync01 := (false, false), slot0Empty := 0 }

/-- TWIN of the first two payload bytes, when valid (R310). -/
def twinField (p : List Nat) (off : Nat) : Option Nat := if bit (numAt p off 2) 15 then some (numAt p off 2 % 4096) else none

/-- What a core takes from a SYNC, MGMT or COLD frame of the leader or twin that passes it: slot 1 is the node's that the leader's frames
name in TWIN (R325, R327, R333). -/
def State.starHears (s0 : State) (ch : Chan) (f : Frame) : State :=
  let s := if f.kind = fkSync ∨ f.kind = fkMgmt ∨ f.kind = fkCold then s0.onStar ch fun x => { x with round := f.round } else s0
  if f.kind = fkSync then
    s.onStar ch fun x =>
      { x with
        noSync := 0
        leader := if f.slot = 0 then f.node else x.leader
        twin := if f.slot = 0 then (twinField f.payload 0).getD 0 else x.twin
        sync01 := if f.slot = 0 then (true, x.sync01.2) else (x.sync01.1, true) }
  else if f.kind = fkMgmt then
    s.onStar ch fun x =>
      { x with
        twin := (twinField f.payload 2).getD 0
        switch := if bit (numAt f.payload 4 1) 5 then some (bits (numAt f.payload 4 1) 3 2, numAt f.payload 8 4) else x.switch
        swap := if bit (numAt f.payload 4 1) 6 then some (numAt f.payload 12 4) else none }
  else if f.kind = fkCold then s.onStar ch fun x => { x with noSync := 0, twin := (twinField f.payload 0).getD 0 }
  else s

/-- Depth of the upper star's port toward a TIER core (STR_CTRL.ULEVEL). -/
def State.upLevel (s : State) (ch : Chan) : Nat := s.rdM (pick ch R.STR_CTRL_ULEVEL_X R.STR_CTRL_ULEVEL_Y)

/-- The external ports on which a core sends a frame on: every one of a ROOT core; of a TIER core the upward one, or, for a frame from
above, the others. A disabled port carries nothing (R303, R341). -/
def State.txPorts (s : State) (ch : Chan) (above : Bool) : List Nat :=
  let ps := if s.coreRole ch = 1 then List.range' 1 8
    else if above then (List.range' 1 8).filter (· != s.upPort ch)
    else [s.upPort ch]
  ps.filter fun p => decide (s.rdM (R.STR_PORT_CTRL_EN (portN ch p)) = 1)

/-- A frame that starts at `at'` in the core's time and lies in a slot that starts at `start` is sent on: a ROOT core sends it
1,920 ns after the slot start; a TIER core so that it reaches the upper star 640 ns × ULEVEL after it, or, from above and while the
core listens, 640 ns after its arrival (R316, R323). The copies of a SYNC carry CORR (R352). -/
def State.sendOn (s : State) (ch : Chan) (f : Frame) (slot : Nat) (above ended : Bool) (start at' : Int) : State :=
  let up := s.rdM (R.TIM_LDLY_DELAY (portN ch (s.upPort ch)))
  let corr := if f.kind ≠ fkSync then 0
    else if s.coreRole ch = 1 then 1920
    else if above then numAt f.payload 10 4 + up + 640
    else numAt f.payload 10 4
  let sfd : Int := if s.coreRole ch = 1 then start + 1920 else if above ∨ s.coreState ch = 1 then at' + 640 else start + 640 * s.upLevel ch
  s.onStar ch fun x =>
    { x with forwarded := x.forwarded ++
      [{ slot := slot, node := f.node, corr := corr, ports := s.txPorts ch above, ended := ended, sfd := sfd }] }

/-- Frames that a lane's receive queue of a channel holds: a complete round of the largest schedule, slots 0 to 587 (R24, R306). -/
def rxDepth : Nat := 588

/-- A frame is delivered to the internal port: every lane that runs takes it into the channel's receive queue, or discards and
counts it when the queue is full (R24, R43). -/
def State.deliver (s : State) (ch : Chan) (c : RxCopy) : State :=
  let s1 := s.onStar ch fun x => { x with inner := x.inner ++ [c] }
  s1.runningLanes.foldl
    (fun (s : State) (l : Lane) =>
      if rxDepth ≤ ((s.lane l).rx.get ch).length then (s.wr l R.DNR_STAT_RXOVF (s.rd l R.DNR_STAT_RXOVF + 1)).pmc l 5 3 .plain
      else s.onLane l fun x => { x with rx := x.rx.set ch (x.rx.get ch ++ [c]) }) s1

/-- The copy of a frame for the lanes, postmarked with its SFD in the core's cluster time (R345). -/
def State.copyOf (s : State) (ch : Chan) (port tSfd slot : Nat) (f : Frame) (complete truncated : Bool) : RxCopy :=
  { slot := slot, frame := f, complete := complete, truncated := truncated, postmark := ((tSfd : Int) - (s.star ch).epoch).toNat
    port := port }

/-- A frame accepted in a slot of this round gives way to another one: it is neither sent on nor delivered. -/
def State.undo (s : State) (ch : Chan) (slot : Nat) : State :=
  let gone := (s.star ch).inner.filter fun c => c.slot == slot
  (s.onStar ch fun x =>
    { x with forwarded := x.forwarded.filter fun y => y.slot != slot, inner := x.inner.filter fun c => c.slot != slot }).onLanes fun x =>
      { x with rx := x.rx.set ch ((x.rx.get ch).filter fun c => !gone.contains c) }

/-- A frame that the guardian truncates reaches the lanes of a ROOT core's module marked so; a TIER core delivers frames from above
only (R43, R305, R318). -/
def State.deliverMarked (s : State) (ch : Chan) (port tSfd slot : Nat) (f : Frame) : State :=
  if s.coreRole ch = 1 then s.deliver ch (s.copyOf ch port tSfd slot f false true) else s

/-- An SFD is seen on a port (R319). -/
def State.sfdSeen (s : State) (ch : Chan) (port : Nat) : State :=
  (s.onStar ch fun x => { x with sfd := if x.sfd.contains port then x.sfd else port :: x.sfd }).wrM
    (R.STR_BLOCK_CNT_SILENT (portN ch port)) 0

/-- A COLD frame reaches a core in LISTEN (R323): a ROOT core accepts the first one, and of two in the same tick the one
of the lower port; a TIER core takes its timing from the first from above and sends the others upward. -/
def State.coldAtListening (s : State) (ch : Chan) (port tSfd : Nat) (f : Frame) : State :=
  let n := portN ch port
  let depth := s.rdM (R.STR_PORT_CTRL_DEPTH n)
  if s.coreRole ch = 1 then
    if s.rdM (R.STR_PORT_CTRL_CS n) = 0 ∨ !frameFormatOk ch f ∨ f.slot ≠ 0 then
      (s.violate ch port 0 3 f).deliverMarked ch port tSfd 0 f
    else
      let s1 := s.activateCore ch ((tSfd : Int) - 640 * depth) f.node 0
      let s2 := s1.onStar ch fun x => { x with coldTick := some (tSfd, port), twin := (twinField f.payload 0).getD 0 }
      (s2.sendOn ch f 0 false false (s2.star ch).epoch tSfd).deliver ch (s2.copyOf ch port tSfd 0 f true false)
  else if port = s.upPort ch then
    let up := s.rdM (R.TIM_LDLY_DELAY n)
    let s1 := s.activateCore ch ((tSfd : Int) - 1920 - up) f.node 0
    let s2 := s1.onStar ch fun x => { x with twin := (twinField f.payload 0).getD 0 }
    (s2.sendOn ch f 0 true false (s2.star ch).epoch tSfd).deliver ch (s2.copyOf ch port tSfd 0 f true false)
  else if s.rdM (R.STR_PORT_CTRL_CS n) = 0 ∨ !frameFormatOk ch f then s.violate ch port 0 3 f
  else s.sendOn ch f 0 false false tSfd tSfd

/-- In the tick in which a ROOT core accepted a COLD frame, one on a lower port takes its place (R323, R338). -/
def State.coldTie (s : State) (ch : Chan) (port tSfd : Nat) (f : Frame) : Bool :=
  match (s.star ch).coldTick with
  | some (t, p) => decide (t = tSfd) && decide (port < p) && decide (f.kind = fkCold) &&
      decide (s.rdM (R.STR_PORT_CTRL_CS (portN ch port)) = 1) && frameFormatOk ch f
  | none => false

/-- In the tick in which a claim of a free slot was accepted, a CLAIM on a lower port may take its place (R328, R338): the core without
that claim. -/
def State.claimTie (s : State) (ch : Chan) (port tSfd : Nat) (f : Frame) : Option State :=
  match (s.star ch).claimTick with
  | some (slot, t, p) =>
    if t = tSfd ∧ port < p ∧ f.kind = fkClaim ∧ f.slot = slot then
      some ((s.undo ch slot).onStar ch fun x => { x with claims := x.claims.filter fun c => c.slot != slot })
    else none
  | none => none

/-- A frame from above at a TIER core: it is sent on to the other external ports and to the lanes (R303, R305). -/
def State.fromAbove (s : State) (ch : Chan) (port tSfd : Nat) (f : Frame) (whole : Bool) : State :=
  let s1 := (s.sendOn ch f f.slot true (!whole) 0 tSfd).deliver ch (s.copyOf ch port tSfd f.slot f whole false)
  if whole ∧ f.kind = fkClaim then s1.onStar ch fun x => { x with seen := noteClaim x.seen port f f.slot } else s1

/-- A frame at a guarded port of an ACTIVE core is judged: accepted, or truncated and counted (R317, R318). -/
def State.guardFrame (s : State) (ch : Chan) (port tSfd : Nat) (f : Frame) (endOk : Bool) : State :=
  let n := portN ch port
  let t : Int := (tSfd : Int) - (s.star ch).epoch
  let start (slot : Nat) : Int := (s.star ch).epoch + ((nearestSlot (t - 640 * s.rdM (R.STR_PORT_CTRL_DEPTH n))).1 : Int) * 1000000 + 1600 * slot
  match s.judge ch port t f endOk with
  | .violation slot cause =>
    let s1 := if cause = 6 then s.sendOn ch f slot false true (start slot) tSfd else s
    (s1.violate ch port slot cause f).deliverMarked ch port tSfd slot f
  | .accept slot =>
    let s1 := ((s.wrM (R.STR_BLOCK_CNT_CONSEC n) 0).starHears ch f).sendOn ch f slot false false (start slot) tSfd
    let s2 := if s.coreRole ch = 1 then s1.deliver ch (s1.copyOf ch port tSfd slot f true false) else s1
    if f.kind = fkClaim then s2.claimFrame ch port tSfd f slot else s2

/-- A frame arrives at a port of a core that runs (R315 to R319, R323, R325). -/
def State.ingress (s : State) (ch : Chan) (port tSfd : Nat) (f : Frame) (endOk : Bool) : State :=
  let n := portN ch port
  let st := s.coreState ch
  if port > 8 ∨ (st ≠ 1 ∧ st ≠ 2) ∨ s.coreRole ch = 0 ∨ s.rdM (R.STR_PORT_CTRL_EN n) = 0 then s
  else
    let s0 := s.sfdSeen ch port
    let above := decide (s.coreRole ch = 2) && decide (port = s.upPort ch)
    if !above && decide (s.rdM (R.STR_BLOCK_CNT_BLOCKED n) = 1) then s0.deliverMarked ch port tSfd f.slot f
    else if above then
      let whole := frameFormatOk ch f && endOk
      if st = 1 then
        if !whole then s0
        else if f.kind = fkCold then s0.coldAtListening ch port tSfd f
        else if f.kind = fkSync then
          let e := (tSfd : Int) - (numAt f.payload 2 8 + 1600 * f.slot + numAt f.payload 10 4 + s.rdM (R.TIM_LDLY_DELAY n) : Nat)
          ((s0.activateCore ch e f.node 8).starHears ch f).fromAbove ch port tSfd f true
        else s0
      else (if whole then s0.starHears ch f else s0).fromAbove ch port tSfd f whole
    else if st = 1 then
      if f.kind = fkCold then s0.coldAtListening ch port tSfd f
      else (s0.violate ch port f.slot 3 f).deliverMarked ch port tSfd f.slot f
    else if s.coldTie ch port tSfd f then
      let s1 := (s0.undo ch 0).activateCore ch ((tSfd : Int) - 640 * s.rdM (R.STR_PORT_CTRL_DEPTH n)) f.node 0
      let s2 := s1.onStar ch fun x => { x with coldTick := some (tSfd, port), twin := (twinField f.payload 0).getD 0 }
      (s2.sendOn ch f 0 false false (s2.star ch).epoch tSfd).deliver ch (s2.copyOf ch port tSfd 0 f true false)
    else
      match s0.claimTie ch port tSfd f with
      | some s1 =>
        (match s1.judge ch port ((tSfd : Int) - (s.star ch).epoch) f endOk with
         | .accept _ => s1.guardFrame ch port tSfd f endOk
         | .violation _ _ => s0.guardFrame ch port tSfd f endOk)
      | none => s0.guardFrame ch port tSfd f endOk

/-- A frame at an external port; port 0 carries only what the transmit selector sends (R301). -/
def State.fromOutside (s : State) (ch : Chan) (port tSfd : Nat) (f : Frame) (endOk : Bool) : State :=
  if port = 0 then s else s.ingress ch port tSfd f endOk

/-- STAR_FRAME_INGRESS: the guardian postmarks a frame at a star port, judges it, and forwards or truncates it (R317). A frame that
finds the port's receive buffer full is discarded and counted, and is no violation (R24, R338). -/
def execStarFrameIngress (ch : Chan) (port tSfd : Nat) (frame : Frame) (endOk overflow : Bool) (s : State) :
    Host.Outcome State Fault Refusal :=
  .next (if overflow ∧ 1 ≤ port ∧ port ≤ 8 then s.incWrapM (R.STR_BLOCK_CNT_OVF (portN ch port))
    else s.fromOutside ch port tSfd frame endOk)

/-- COLD_FRAME_AT_LISTENING_CORE: a COLD frame, whole, at a core in LISTEN (R323). -/
def execColdFrameAtListeningCore (ch : Chan) (port tSfd : Nat) (frame : Frame) (s : State) :
    Host.Outcome State Fault Refusal :=
  .next (if s.coreState ch = 1 ∧ frame.kind = fkCold then s.fromOutside ch port tSfd frame true else s)

/-- POSTE_RESTANTE_CLAIM: a CLAIM frame, whole, at an ACTIVE core (R328). -/
def execPosteRestanteClaim (ch : Chan) (port tSfd : Nat) (frame : Frame) (s : State) : Host.Outcome State Fault Refusal :=
  .next (if s.coreState ch = 2 ∧ frame.kind = fkClaim then s.fromOutside ch port tSfd frame true else s)

/-- PORT_UNBLOCK: a blocked port that has carried no SFD for 8 rounds is unblocked (R319). -/
def execPortUnblock (ch : Chan) (port : Nat) (s : State) : Host.Outcome State Fault Refusal :=
  let n := portN ch port
  if port ≤ 8 ∧ s.rdM (R.STR_BLOCK_CNT_BLOCKED n) = 1 ∧ 8 ≤ s.rdM (R.STR_BLOCK_CNT_SILENT n) then
    .next (((s.wrM (R.STR_BLOCK_CNT_BLOCKED n) 0).wrM (R.STR_BLOCK_CNT_CONSEC n) 0).event 0x6012 [chanNum ch, port])
  else .next s

/-- CLAIM_EXPIRY: a claim ends after 64 rounds without an accepted CLAIM (R330). -/
def execClaimExpiry (ch : Chan) (slot : Nat) (s : State) : Host.Outcome State Fault Refusal :=
  .next (if (s.star ch).claims.any fun c => c.slot == slot && decide (64 ≤ c.idle) then s.endClaim ch slot else s)

/-! ## The module's protocol (R320 to R327) -/

/-- Whether the module's protocol and a channel are enabled: two lanes that run have the bits set. -/
def State.dnrEnabled (s : State) : Bool :=
  decide (2 ≤ (s.runningLanes.filter fun l => s.rd l R.DNR_CTRL_EN = 1).length)
def State.chanEnabled (s : State) (ch : Chan) : Bool :=
  decide (2 ≤ (s.runningLanes.filter fun l => s.rd l (pick ch R.DNR_CTRL_EN_X R.DNR_CTRL_EN_Y) = 1).length)
def State.coldStartAllowed (s : State) : Bool :=
  decide (2 ≤ (s.runningLanes.filter fun l => s.rd l R.DNR_CTRL_CS_EN = 1).length)

/-- The module is no longer integrated on any channel. -/
def State.notIntegrated (s : State) : State := (s.wrM R.DNR_STAT_INT_X 0).wrM R.DNR_STAT_INT_Y 0

/-- The protocol state set; leaving ACTIVE is recorded with its cause (R606), and the module keeps silent on the channels it
left for at least 8 rounds (R320). -/
def State.protocol (s : State) (st cause : Nat) : State :=
  if s.dnr = dnActive ∧ st ≠ dnActive then
    let s1 := (((s.wrM R.DNR_STAT_STATE st).wrM R.DNR_STAT_LEADER 0).wrM R.DNR_STAT_TWINSYNC 0).notIntegrated
    ({ s1 with net := { s1.net with quiet := .all 9 } }).event 0x6004 [2, cause]
  else s.wrM R.DNR_STAT_STATE st

/-- LISTEN is entered and the listen timer starts: LISTEN_BASE ms + 2 µs for each node number (R321). -/
def State.listen (s : State) (cause : Nat) : State :=
  let t := s.time.now + s.rd s.mainLane R.DNR_CTRL_LISTEN_BASE * 1000000 + 2000 * s.nodeId
  let s1 := s.protocol dnListen cause
  { s1 with net := { s1.net with listen := some t, heard := 0, heardNow := false } }

/-- A write of DNR_CTRL (R321, R340). The listen timer starts as the protocol or, in LISTEN, a channel is enabled. -/
def State.writeDnrCtrl (s : State) (l : Lane) (v : Word) : State :=
    let base := R.DNR_CTRL_LISTEN_BASE.of v
    let s1 := if 2 ≤ base ∧ base ≤ 20 then s.wr l R.DNR_CTRL_LISTEN_BASE base else s
    let en := R.DNR_CTRL_EN.of v
    let s2 := (((s1.wr l R.DNR_CTRL_CS_EN (R.DNR_CTRL_CS_EN.of v)).wr l R.DNR_CTRL_EN_Y (R.DNR_CTRL_EN_Y.of v)).wr l
      R.DNR_CTRL_EN_X (R.DNR_CTRL_EN_X.of v)).wr l R.DNR_CTRL_EN
        (if en = 1 ∧ s.rd l R.DNR_NODE_VALID = 0 then s.rd l R.DNR_CTRL_EN else en)
    if s2.dnrEnabled then
      if s2.dnr = dnOff ∨ (s2.dnr = dnListen ∧ [Chan.x, .y].any fun ch => !s.chanEnabled ch && s2.chanEnabled ch) then s2.listen 3 else s2
    else if s2.dnr = dnOff then s2
    else s2.protocol dnOff 3

/-- PROTOCOL_ENABLE: a write of DNR_CTRL (R321, R340). A LISTEN_BASE out of 2 to 20 is ignored, and EN is set only while
DNR_NODE is valid. -/
def execProtocolEnable (l : Lane) (c : CoreId) (v : Word) (s : State) : Host.Outcome State Fault Refusal :=
  .next (s.regWriteBy l c R.DNR_CTRL v fun s => s.writeDnrCtrl l v)

/-- INTEG is entered: two rounds of timing are still to be taken (R322), and the domains are taken anew. -/
def State.integrate (s : State) : State :=
  let s1 := ((s.protocol dnInteg 1).wrM R.TIM_DOM_SEL_DOM0_ID 0).wrM R.TIM_DOM_SEL_DOM1_ID 0
  { s1 with
    net := { s1.net with timing := 0, listen := none, heardNow := false }
    time := { s1.time with deltas := [], delta := 0 } }

/-- A frame that carries the cluster's timing is heard in INTEG: the first in each round counts; the first of all gives
the round number and the offset of the module's own time (R322, R354). -/
def State.takeTiming (s : State) (round : Nat) (lag : Int) : State :=
  if s.net.heardNow then s
  else
    let s1 := { s with net := { s.net with heardNow := true, timing := min 2 (s.net.timing + 1) } }
    if s.net.timing = 0 then
      let s2 := s1.wrM R.DNR_ROUND_ROUND round
      if s.cyc.active then { s2 with time := { s2.time with lag := lag } }
      else { s2 with time := { s2.time with now := ((s.time.now : Int) - lag).toNat, lag := 0 } }
    else s1

/-- The frame that a core in service has delivered whole and unmarked in this round and that meets a test, on an enabled channel (R43,
R303). -/
def State.heardOn (s : State) (ch : Chan) (p : RxCopy → Bool) : Option RxCopy :=
  if s.chanEnabled ch ∧ s.coreRole ch ≠ 0 then (s.star ch).inner.find? fun c => c.complete && !c.truncated && p c else none

/-- The COLD or SYNC frame heard on a channel in this round. -/
def State.coldOn (s : State) (ch : Chan) : Option Frame :=
  (s.heardOn ch fun c => decide (c.frame.kind = fkCold) || decide (c.frame.kind = fkSync)).map fun c => c.frame

/-- COLD_RECEIVED: what the module has heard of COLD and SYNC in this round on each channel (R322, R324). -/
def execColdReceived (s : State) : Host.Outcome State Fault Refusal :=
  let onX := s.coldOn .x
  let onY := s.coldOn .y
  let other (f : Option Frame) : Option Nat := match f with
    | some f => if f.kind = fkCold ∧ f.node ≠ s.nodeId then some f.node else none
    | none => none
  let own (f : Option Frame) : Bool := match f with | some f => decide (f.kind = fkCold) && decide (f.node = s.nodeId) | none => false
  if s.dnr = dnListen then
    match onX.orElse fun _ => onY with
    | some f =>
      let s1 := { s with net := { s.net with heardNow := true } }.wrM R.DNR_ROUND_ROUND f.round
      .next (if 1 ≤ s.net.heard then s1.integrate else s1)
    | none => .next s
  else if s.dnr = dnCold then
    let both := (other onX).isSome && (other onY).isSome
    let lower := (match other onX with | some n => decide (n < s.nodeId) | none => false)
      || (match other onY with | some n => decide (n < s.nodeId) | none => false)
    if both || lower then
      let ch := if both then 2 else if (other onX).isSome then 0 else 1
      .next (s.integrate.event 0x6002 [ch])
    else if !own onX && !own onY then
      let s1 := s.protocol dnSilent 1
      .next { s1 with net := { s1.net with silent := 8 } }
    else .next s
  else if s.dnr = dnInteg then
    match onX.orElse fun _ => onY with
    | some f =>
      .next (if f.kind = fkCold then s.takeTiming f.round ((s.time.now / 1000000 * 1000000 : Nat) - (f.round * 1000000 : Nat) : Int) else s)
    | none => .next s
  else .next s

/-- LISTEN_TIMEOUT: the listen timer expires: a module that may cold-start sends COLD in round 0; otherwise the timer
starts again (R321, R322). The expiry instant, on the clock of star core X or, while that is OFF, of core Y, is the start of slot 0 of
round 0 on the module's own clock. Schedule 0 is in force (R323). -/
def execListenTimeout (t : Nat) (s : State) : Host.Outcome State Fault Refusal :=
  let early : Bool := match s.net.listen with | some e => decide (t < e) | none => true
  if s.dnr ≠ dnListen ∨ early then .next s
  else if s.coldStartAllowed then
    let s1 := (s.wrM R.DNR_STAT_STATE dnCold).wrM R.DNR_ROUND_ROUND 0
    let s2 := { s1 with net := { s1.net with cold := 0, listen := none, coldAt := t } }.wrM R.DNR_SCHED_SEL_NOW 0
    .next ((if s.cyc.active then { s2 with time := { s2.time with lag := t } }
      else { s2 with time := { s2.time with now := 0, lag := 0 } }).event 0x6001 [2])
  else .next (s.listen 1)

end Sys2Proof.Machine
end

