-- ==== Sys2Proof/Machine/FieldDiag.lean ====
section
/-! DEFINITION. Machine/FieldDiag.lean: agreement of the field inputs (R201 to R203, R608), the diagnosis of the output
cells, the group cut-off and its feedback, the sag records and the controllers' configuration (R436, R447 to R451). -/
namespace Sys2Proof.Machine

/-! ## Agreement of the field inputs -/

/-- A lane's sample of a page used at this sorting (R198). -/
def LaneState.page (x : LaneState) (p : Nat) : Option PageSample := x.used.find? fun u => u.page == p

/-- The page and the value of a field input in a lane's samples (R434, R608). -/
def LaneState.sample (x : LaneState) (i : Nat) : Option Tri :=
  let one (p k : Nat) : Option Tri := (x.page p).map fun u => if bit u.data k then .one else .zero
  if i < 48 then (x.page 0).map fun u => triOf (bits u.data (2 * i + 1) (2 * i))
  else if i < 81 then (x.page 1).map fun u => triOf (bits u.data (2 * (i - 48) + 1) (2 * (i - 48)))
  else if i < 84 then one 1 (76 + (i - 81))
  else if i = fiSag then one 1 79
  else if i = fiWdog then one 1 80
  else one 2 (i - 86)

/-- The agreed value of one input (R201), whether it diverges, and whether the table sets it to UNKNOWN. -/
def agreeTri (present : List Tri) (prev : Tri) : Tri × Bool × Bool :=
  match present with
  | [a, b, c] =>
    if a = b ∧ b = c then (a, false, false)
    else if a = b ∨ a = c then (a, true, false)
    else if b = c then (b, true, false)
    else (.unknown, true, true)
  | [a, b] =>
    if a = b then (a, false, false)
    else if a = prev ∨ b = prev then (prev, true, false)
    else (.unknown, true, true)
  | _ => (.unknown, false, true)

/-- The agreed value of the previous round set. -/
def State.prevInput (s : State) (i : Nat) : Tri := s.cyc.inputs.getD i .unknown

/-- The lanes whose samples count at this sorting. -/
def State.sampleLanes (s : State) : List Lane := s.voters.filter fun l => !s.outOfStep.contains l

/-- The value of one input from the lanes that count. -/
def State.agreeInput (s : State) (i : Nat) : Tri × Bool × Bool :=
  agreeTri (s.sampleLanes.filterMap fun l => (s.lane l).sample i) (s.prevInput i)

/-- A lane's divergences after this sorting (R202): the inputs of three present samples in which this lane alone differs,
with the agreed value and the count of sortings in a row. -/
def State.divergence (s : State) (l : Lane) (agreed : List Tri) : List (Nat × Tri × Nat) :=
  if s.votes < 3 ∨ s.sampleLanes.length < 3 then []
  else (List.range nField).filterMap fun i =>
    let v := agreed.getD i .unknown
    match (s.lane l).sample i, (s.lane l.others.1).sample i, (s.lane l.others.2).sample i with
    | some x, some y, some z =>
      if x ≠ v ∧ y = v ∧ z = v then
        let n := match (s.lane l).diverge.find? fun d => d.1 == i with
          | some d => if d.2.1 = v then d.2.2 else 0
          | none => 0
        some (i, v, n + 1)
      else none
    | _, _, _ => none

/-- The median of three instants, the earlier of two (R203). -/
def medianInst : List Nat → Option Nat
  | [a, b, c] => some (max (min a b) (min (max a b) c))
  | [a, b] => some (min a b)
  | [a] => some a
  | _ => none

/-- The field inputs are agreed (R201 to R203); a CB-TX3-N has none. With no sample present the sample instant is one that the spec
does not fix. -/
def State.agreeInputs (s : State) : State :=
  let vals := if s.fitted then (List.range nField).map s.agreeInput else []
  let agreed := vals.map (·.1)
  let inst := medianInst (s.sampleLanes.filterMap fun l => ((s.lane l).page 0).map (·.inst))
  let page1 (l : Lane) : Nat := match (s.lane l).page 1 with | some u => u.data | none => 0
  let used := s.sampleLanes.filter fun l => !(s.lane l).used.isEmpty
  let div (l : Lane) : List (Nat × Tri × Nat) := s.divergence l agreed
  let s1 := (s.addRunning R.TSK_SORT_DIV_CNT (vals.countP fun v => v.2.1)).addRunning R.TSK_SORT_UNK_CNT
    (vals.countP fun v => v.2.2)
  let s2 := s1.wrM R.TSK_STAT_SORT_LANES (used.foldl (fun m l => m ||| l.mask) 0)
  let s3 := { s2 with cyc := { s2.cyc with
    prev := s.cyc.inputs
    inputs := agreed
    inst := inst.getD s.freshNat
    vf := ⟨bits (page1 .a) 75 66, bits (page1 .b) 75 66, bits (page1 .c) 75 66⟩
    sag := ⟨bit (page1 .a) 79, bit (page1 .b) 79, bit (page1 .c) 79⟩ } }
  let s4 := if inst.isNone then s3.drawn else s3
  let s5 := (Lane.list.zip (Lane.list.map div)).foldl
    (fun (s : State) (p : Lane × List (Nat × Tri × Nat)) => s.onLane p.1 fun x => { x with diverge := p.2 }) s4
  let bad := Lane.list.filterMap fun l => ((div l).find? fun d => decide (3 ≤ d.2.2)).map fun d => (l, d.1)
  bad.foldl (fun (s : State) (p : Lane × Nat) => (s.eventAt (inst.getD s.time.now) 0x3011 ([p.1.code] ++ bytesBE p.2 2)).nameLane p.1 srcInput noTaskNo) s5

/-! ## Cells (R447, R449) -/

/-- The agreed value of a field input. -/
def State.input (s : State) (i : Nat) : Tri := s.cyc.inputs.getD i .unknown

/-- Whether a cell is FAILED. -/
def State.cellFailed (s : State) (c : Nat) : Bool :=
  if c < 24 then bit (s.rdM R.FIO_OUT_STAT_FAILED) c else bit (s.rdM R.FIO_OUT_STAT_COFAILED) (c - 24)

/-- FAILED set or cleared. -/
def State.setFailed (s : State) (c : Nat) (v : Bool) : State :=
  if c < 24 then s.wrM R.FIO_OUT_STAT_FAILED (setBit (s.rdM R.FIO_OUT_STAT_FAILED) c v)
  else s.wrM R.FIO_OUT_STAT_COFAILED (setBit (s.rdM R.FIO_OUT_STAT_COFAILED) (c - 24) v)

/-- Causes of FIO_CELLn.CAUSE (R455). -/
def causeBranch : Nat := 1
def causeExternal : Nat := 2
def causeParallel : Nat := 3
def causeNoOutput : Nat := 4

/-- The groups cut off, in either way. -/
def State.cutOff (s : State) : Nat := s.field.cutOwn ||| s.field.cutNotice

/-- FIO_OUT_STAT.CUTOFF follows the latched cut-offs. -/
def State.showCutOff (s : State) : State := s.wrM R.FIO_OUT_STAT_CUTOFF s.cutOff

/-- A group is cut off from a cause of its own cells (R448). -/
def State.cutGroup (s : State) (g : Nat) : State :=
  if bit s.field.cutOwn g then s
  else ({ s with field := { s.field with cutOwn := setBit s.field.cutOwn g true } }).showCutOff.event 0xA010 [g, 0]

/-- A cell becomes FAILED with a cause. -/
def State.failCell (s : State) (c cause branch partner : Nat) : State :=
  (((s.setFailed c true).wrM (R.FIO_CELL_CAUSE c) cause).wrM (R.FIO_CELL_BRANCH c) branch).wrM (R.FIO_CELL_PARTNER c) partner

/-- A cell has been at rest: its REQ bit 0 for at least 1 ms and no pulse of it running (R444). -/
def State.atRest (s : State) (c : Nat) : Bool :=
  decide (s.field.restRun.getD c 0 = 50) && (match s.field.pulse with | some p => p.2.1 != c | none => true)

/-- Branch fault bits of a cell, UNKNOWN counting as set (R447, R608). -/
def State.branchFaults (s : State) (c : Nat) : List Nat := (List.range 3).filter fun b => s.input (fiBranch c b) != .zero

/-- A readback HIGH at rest, or UNKNOWN (R447). -/
def State.highAtRest (s : State) (c : Nat) : Bool :=
  decide (c < 24) && !bit s.outReq c && s.atRest c && s.input (fiReadback c) != .zero

/-- A readback LOW, or UNKNOWN, of a cell energised for 1 ms with VG present (R447). -/
def State.lowEnergised (s : State) (c : Nat) : Bool :=
  decide (c < 24) && bit s.outReq c && decide (s.field.onRun.getD c 0 = 50) && (s.input (fiVg (groupOf c)) == .one)
    && s.input (fiReadback c) != .one

/-- Consecutive sortings with the readback HIGH at rest, and the partner found at the first (R447). -/
def State.countHigh (s : State) (c : Nat) : Option (Nat × Nat × Option Nat) :=
  if s.highAtRest c then
    match s.field.rbHigh.find? fun x => x.1 == c with
    | some x => some (c, min 2 (x.2.1 + 1), x.2.2)
    | none => some (c, 1, s.field.lone)
  else none

/-- Consecutive sortings with the readback LOW. -/
def State.countLow (s : State) (c : Nat) : Option (Nat × Nat) :=
  if s.lowEnergised c then some (c, min 2 (mapGet (fun _ => 0) s.field.rbLow c + 1)) else none

/-- A failing cause takes effect: cell state, record and cut-off; a cause that the cell already shows changes nothing. -/
def State.setCause (s : State) (c cause branch : Nat) (partner : Option Nat) : State :=
  if s.cellFailed c ∧ s.rdM (R.FIO_CELL_CAUSE c) = cause then s
  else
    let s1 := s.failCell c cause branch (partner.getD 0)
    match cause, partner with
    | 1, _ => s1.event 0xA001 [c, cause, branch, 0xFF]
    | 3, some p =>
      let s2 := if s1.cellFailed p then s1 else s1.failCell p cause 0 c
      ((s2.event 0xA003 [c, cause, 0xFF, p]).cutGroup (groupOf c)).cutGroup (groupOf p)
    | _, _ => (s1.event 0xA002 [c, cause, 0xFF, 0xFF]).cutGroup (groupOf c)

/-- One cell is evaluated, first match applying (R447). -/
def State.judgeCell (s : State) (c : Nat) : State :=
  let high := s.field.rbHigh.find? fun x => x.1 == c
  let low := mapGet (fun _ => 0) s.field.rbLow c
  let fb := bit (s.rdM R.FIO_OUT_STAT_FBFAULT) (groupOf c)
  match s.branchFaults c, high with
  | b :: _, _ => s.setCause c causeBranch b none
  | [], some (_, 2, some p) => s.setCause c causeParallel 0 (some p)
  | [], some (_, 2, none) => s.setCause c causeExternal 0 none
  | [], _ =>
    let cause := s.rdM (R.FIO_CELL_CAUSE c)
    if s.cellFailed c then s
    else if low = 2 ∧ !fb then
      if cause = causeNoOutput then s else (s.wrM (R.FIO_CELL_CAUSE c) causeNoOutput).event 0xA004 [c, causeNoOutput, 0xFF, 0xFF]
    else if cause = causeNoOutput then s.wrM (R.FIO_CELL_CAUSE c) 0
    else s

/-- A cell's evaluation is free of every cause of R447 (R449). -/
def State.cellClean (s : State) (c : Nat) : Bool := (s.branchFaults c).isEmpty && !s.highAtRest c && !s.lowEnergised c

/-- The field supply at this sorting: in order for evaluation or not (R447), and the state kept for the next sorting. -/
def State.supplyNow (s : State) : Bool × Option Nat :=
  let seen := s.sampleLanes.filter fun l => ((s.lane l).page 1).isSome
  let bad := seen.any fun l => s.cyc.sag.get l || decide (s.cyc.vf.get l < 192) || decide (300 < s.cyc.vf.get l)
  if bad then (false, some 0)
  else
    match s.field.supplyOk with
    | none => (true, none)
    | some 0 => if seen.isEmpty then (false, some 0) else (false, some (s.cyc.b + 1))
    | some (r + 1) => if s.cyc.b ≤ r + 20000000 then (false, some (r + 1)) else (true, none)

/-- The cells are diagnosed (R447). -/
def State.judgeCells (s : State) : State :=
  let counts := { s with field := { s.field with
    rbHigh := (List.range 24).filterMap s.countHigh
    rbLow := (List.range 24).filterMap s.countLow
    clean := (List.range 27).map fun c => (c, if s.cellClean c then min 2 (mapGet (fun _ => 0) s.field.clean c + 1) else 0)
    lone := none } }
  (List.range 27).foldl State.judgeCell counts

/-! ## Group contactors (R450) -/

/-- Mismatches and matches of a group so far, in a row. -/
def State.fbCounts (s : State) (g : Nat) : Nat × Nat :=
  match s.field.fbRun.find? fun x => x.1 == g with
  | some x => x.2
  | none => (0, 0)

/-- The counts of a group set. -/
def State.setFbCounts (s : State) (g mism good : Nat) : State :=
  { s with field := { s.field with fbRun := (s.field.fbRun.filter fun x => x.1 != g) ++ [(g, mism, good)] } }

/-- The contacts of one group are compared with the expected state (R450). -/
def State.judgeFeedback (s : State) (ok : Bool) (g : Nat) : State :=
  let on := bit s.outReq (24 + g)
  let cut := bit s.cutOff g
  let a := s.input (fiFeedback (2 * g))
  let b := s.input (fiFeedback (2 * g + 1))
  let fault := bit (s.rdM R.FIO_OUT_STAT_FBFAULT) g
  let setFault (s : State) (v : Bool) : State := s.wrM R.FIO_OUT_STAT_FBFAULT (setBit (s.rdM R.FIO_OUT_STAT_FBFAULT) g v)
  if !ok || !bit s.field.settled g || !(on || cut) then s.setFbCounts g 0 0
  else
    let want : Tri := if on then .zero else .one
    if a = want ∧ b = want then
      let good := (s.fbCounts g).2 + 1
      if fault ∧ 2 ≤ good then ((setFault s false).setFbCounts g 0 0).event 0xA013 [g] else s.setFbCounts g 0 (min 2 good)
    else
      let mism := min 2 ((s.fbCounts g).1 + 1)
      let s1 := s.setFbCounts g mism 0
      if mism < 2 then s1
      else
        let s2 := if fault then s1 else (setFault s1 true).event 0xA011 [g]
        if cut ∧ (a ≠ .one ∨ b ≠ .one) then s2.safeOn else s2

/-! ## Sag records (R451) -/

/-- The instant at which a lane's page 1 was sampled, and its VF. -/
def State.sagSample (s : State) (l : Lane) : Option (Nat × Nat) :=
  ((s.lane l).page 1).map fun u => (u.inst, bits u.data 75 66)

/-- The first lane's latch and the last lane's release are recorded; ties go by lane code (R451). -/
def State.recordSag (s : State) : State :=
  let seen := s.sampleLanes.filter fun l => (s.sagSample l).isSome
  let now := seen.foldl (fun m l => setBit m l.bit (s.cyc.sag.get l)) s.field.sagSeen
  let old := s.field.sagSeen
  let s1 := { s with field := { s.field with sagSeen := now } }
  let inst (l : Lane) : Nat := ((s.sagSample l).map (·.1)).getD 0
  let vf (l : Lane) : Nat := ((s.sagSample l).map (·.2)).getD 0
  let set := Lane.list.filter fun l => bit now l.bit && !bit old l.bit
  let rel := Lane.list.filter fun l => !bit now l.bit && bit old l.bit
  let first := set.foldl (fun (b : Option Lane) (l : Lane) =>
    match b with | some v => if inst l < inst v then some l else some v | none => some l) none
  let last := rel.foldl (fun (b : Option Lane) (l : Lane) =>
    match b with | some v => if inst v ≤ inst l then some l else some v | none => some l) none
  match old, now, first, last with
  | 0, _, some l, _ => s1.event 0xA020 ([l.code] ++ bytesBE (vf l) 2)
  | _, 0, _, some l => s1.event 0xA021 ([l.code] ++ bytesBE (vf l) 2)
  | _, _, _, _ => s1

/-! ## Controller configuration (R436) -/

/-- A lane's CFGCHK is compared with the value of its shadow; two mismatches running name the lane (CFG). -/
def State.judgeConfig (s : State) (l : Lane) : State :=
  match (s.lane l).page 2 with
  | none => s
  | some u =>
    let got := bits u.data 95 81
    let s1 := { s with cyc := { s.cyc with cfgchk := s.cyc.cfgchk.set l got } }
    if got = cfgCheck (s.cfgExpected l) then s1.onLane l fun x => { x with cfgBad := 0 }
    else
      let n := (s.lane l).cfgBad + 1
      let s2 := s1.onLane l fun x => { x with cfgBad := n }
      if n = 2 then (s2.event 0xA031 [l.code]).nameLane l srcCfg noTaskNo
      else if 2 < n then s2.nameLane l srcCfg noTaskNo
      else s2

/-- The field part of an agreement: cells, contacts, sag records and configuration (R436, R447, R450, R451). -/
def State.diagnoseField (s : State) : State :=
  let sup := s.supplyNow
  let s1 := { s with field := { s.field with supplyOk := sup.2 } }
  let s2 := if sup.1 then s1.judgeCells
    else { s1 with field := { s1.field with rbHigh := [], rbLow := [], lone := none } }
  let s3 := (List.range 3).foldl (fun (s : State) (g : Nat) => s.judgeFeedback sup.1 g) s2
  let rb := (List.range 24).foldl (fun m c => setBit m c (s.input (fiReadback c) == .one)) 0
  let fb := (List.range 6).foldl (fun m k => m + triCode (s.input (fiFeedback k)) * 4 ^ k) 0
  s3.sampleLanes.foldl State.judgeConfig (((s3.wrM R.FIO_OUT_STAT_READBACK rb).wrM R.FIO_FB_FB fb).recordSag)

/-- The field part of an agreement, on a module that carries a field interface (R2, R425). -/
def State.diagnose (s : State) : State := if s.fitted then s.diagnoseField else s

/-! ## Clearing and notices (R448, R449) -/

/-- FIO_CELLn.CLR written 1 (R449). -/
def State.clearCell (s : State) (cell : Nat) : State :=
  if s.mode = mCommissioning ∧ s.cellFailed cell ∧ s.atRest cell ∧ mapGet (fun _ => 0) s.field.clean cell = 2 then
    let s1 := (((s.setFailed cell false).wrM (R.FIO_CELL_CAUSE cell) 0).wrM (R.FIO_CELL_BRANCH cell) 0).wrM (R.FIO_CELL_PARTNER cell) 0
    let s2 := s1.event 0xA005 [cell]
    (List.range 3).foldl
      (fun (s : State) (g : Nat) =>
        let held := (List.range 24).any fun x => groupOf x == g && s.cellFailed x &&
          (decide (s.rdM (R.FIO_CELL_CAUSE x) = causeExternal) || decide (s.rdM (R.FIO_CELL_CAUSE x) = causeParallel))
        if bit s.field.cutOwn g && !held then
          let t := ({ s with field := { s.field with cutOwn := setBit s.field.cutOwn g false } }).showCutOff
          if bit s.field.cutNotice g then t else t.event 0xA012 [g]
        else s) s2
  else s

/-- CELL_CLEAR: FIO_CELLn.CLR written 1: a FAILED cell at rest with two clean evaluations is cleared, in COMMISSIONING; an
own cut-off clears when no cell of its group is FAILED for PARALLEL or EXTERNAL any longer (R449). -/
def execCellClear (l : Lane) (c : CoreId) (cell : Nat) (s : State) : Host.Outcome State Fault Refusal :=
  .next (s.regAccess l c (fioCellAddr cell) true fun s => if s.fioAbsent (fioCellAddr cell) then s else s.clearCell cell)

/-- CUT_OFF_NOTICE: the twin's notice names the groups cut off by notice (R448). A notice that fails CHK counts as none. -/
def execCutOffNotice (rs groups : Nat) (chkOk : Bool) (s : State) : Host.Outcome State Fault Refusal :=
  if chkOk ∧ rs = s.k ∧ s.paired ∧ s.fitted then
    .next ((List.range 3).foldl
      (fun (s : State) (g : Nat) =>
        let was := bit s.field.cutNotice g
        let t := ({ s with field := { s.field with cutNotice := setBit s.field.cutNotice g (bit groups g) } }).showCutOff
        if bit groups g ∧ !was then t.event 0xA010 [g, 1]
        else if was ∧ !bit groups g ∧ !bit s.field.cutOwn g then t.event 0xA012 [g]
        else t) s)
  else .next s

end Sys2Proof.Machine
end

