-- ==== Sys2Proof/Machine/LogicWords.lean ====
section
/-! DEFINITION. Machine/LogicWords.lean: the commands that bring one logic word to the route engine: each is decoded and
evaluated under R113 to R135 and enters the window and the held post (R145). -/
namespace Sys2Proof.Machine

/-- MOV: copies its source. -/
def execMov (l : Lane) (off : Nat) (bd : BitVec 20) (dst : Ref) (src : Ref) (s : State) :
    Host.Outcome State Fault Refusal :=
  .next (s.logicStep l off { op := .mov, imm := bd.toNat, dst := dst, slots := [src] })

/-- LDI: loads a 32-bit literal. -/
def execLdi (l : Lane) (off : Nat) (bd : BitVec 20) (dst : Ref) (lit : BitVec 32) (s : State) :
    Host.Outcome State Fault Refusal :=
  .next (s.logicStep l off { op := .ldi, imm := bd.toNat, dst := dst, slots := [lit] })

/-- ADD: fails on overflow. -/
def execLogicAdd (l : Lane) (off : Nat) (bd : BitVec 20) (dst : Ref) (s0 : Ref) (s1 : Ref) (s : State) :
    Host.Outcome State Fault Refusal :=
  .next (s.logicStep l off { op := .add, imm := bd.toNat, dst := dst, slots := [s0, s1] })

/-- SUB: fails on a negative result. -/
def execLogicSub (l : Lane) (off : Nat) (bd : BitVec 20) (dst : Ref) (s0 : Ref) (s1 : Ref) (s : State) :
    Host.Outcome State Fault Refusal :=
  .next (s.logicStep l off { op := .sub, imm := bd.toNat, dst := dst, slots := [s0, s1] })

/-- NOT: inverts a boolean. -/
def execNot (l : Lane) (off : Nat) (bd : BitVec 20) (dst : Ref) (src : Ref) (s : State) :
    Host.Outcome State Fault Refusal :=
  .next (s.logicStep l off { op := .not, imm := bd.toNat, dst := dst, slots := [src] })

/-- SEL: checks all three operands (R609). -/
def execSel (l : Lane) (off : Nat) (bd : BitVec 20) (dst : Ref) (cond : Ref) (t : Ref) (f : Ref) (s : State) :
    Host.Outcome State Fault Refusal :=
  .next (s.logicStep l off { op := .sel, imm := bd.toNat, dst := dst, slots := [cond, t, f] })

/-- ALL: TRUE when every slot equals its state code. -/
def execAll (l : Lane) (off : Nat) (bd : BitVec 20) (dst : Ref) (slots : List Ref) (s : State) :
    Host.Outcome State Fault Refusal :=
  .next (s.logicStep l off { op := .all, imm := bd.toNat, dst := dst, slots := slots })

/-- ANY: TRUE when some slot does. -/
def execAny (l : Lane) (off : Nat) (bd : BitVec 20) (dst : Ref) (slots : List Ref) (s : State) :
    Host.Outcome State Fault Refusal :=
  .next (s.logicStep l off { op := .any, imm := bd.toNat, dst := dst, slots := slots })

/-- CONF (R122). -/
def execConf (l : Lane) (off : Nat) (bd : BitVec 20) (dst : Ref) (own : Ref) (slots : List Ref) (s : State) :
    Host.Outcome State Fault Refusal :=
  .next (s.logicStep l off { op := .conf, imm := bd.toNat, dst := dst, slots := own :: slots })

/-- FLANK (R121). -/
def execFlank (l : Lane) (off : Nat) (bd : BitVec 20) (dst : Ref) (own : Ref) (slots : List Ref) (s : State) :
    Host.Outcome State Fault Refusal :=
  .next (s.logicStep l off { op := .flank, imm := bd.toNat, dst := dst, slots := own :: slots })

/-- FLREQ (R123). -/
def execFlreq (l : Lane) (off : Nat) (own : Ref) (slots : List Ref) (s : State) :
    Host.Outcome State Fault Refusal :=
  .next (s.logicStep l off { op := .flreq, imm := 0, dst := 0, slots := own :: slots })

/-- LOCK (R124, R125). -/
def execLock (l : Lane) (off : Nat) (bd : BitVec 20) (dst : Ref) (own : Ref) (slots : List Ref) (s : State) :
    Host.Outcome State Fault Refusal :=
  .next (s.logicStep l off { op := .lock, imm := bd.toNat, dst := dst, slots := own :: slots })

/-- UNLOCK. -/
def execUnlock (l : Lane) (off : Nat) (own : Ref) (slots : List Ref) (s : State) :
    Host.Outcome State Fault Refusal :=
  .next (s.logicStep l off { op := .unlock, imm := 0, dst := 0, slots := own :: slots })

/-- ROUTE (R126). -/
def execRoute (l : Lane) (off : Nat) (own : Ref) (conds : List Ref) (s : State) :
    Host.Outcome State Fault Refusal :=
  .next (s.logicStep l off { op := .route, imm := 0, dst := 0, slots := own :: conds })

/-- RREL (R127). -/
def execRrel (l : Lane) (off : Nat) (first : BitVec 20) (own : Ref) (slots : List Ref) (s : State) :
    Host.Outcome State Fault Refusal :=
  .next (s.logicStep l off { op := .rrel, imm := first.toNat, dst := 0, slots := own :: slots })

/-- TMR (R128). -/
def execTmr (l : Lane) (off : Nat) (dur : BitVec 20) (dst : Ref) (run : Ref) (s : State) :
    Host.Outcome State Fault Refusal :=
  .next (s.logicStep l off { op := .tmr, imm := dur.toNat, dst := dst, slots := [run] })

/-- EDGE (R130). -/
def execEdge (l : Lane) (off : Nat) (bd : BitVec 20) (dst : Ref) (src : Ref) (mem : Ref) (s : State) :
    Host.Outcome State Fault Refusal :=
  .next (s.logicStep l off { op := .edge, imm := bd.toNat, dst := dst, slots := [src, mem] })

/-- CARRY (R131). -/
def execCarry (l : Lane) (off : Nat) (recs : List Ref) (s : State) :
    Host.Outcome State Fault Refusal :=
  .next (s.logicStep l off { op := .carry, imm := 0, dst := 0, slots := recs })

/-- SEAL (R133). -/
def execSeal (l : Lane) (off : Nat) (slots : List Ref) (s : State) :
    Host.Outcome State Fault Refusal :=
  .next (s.logicStep l off { op := .seal, imm := 0, dst := 0, slots := slots })

/-- SKIPF (R134, R139). -/
def execSkipf (l : Lane) (off : Nat) (count : BitVec 20) (cond : Ref) (s : State) :
    Host.Outcome State Fault Refusal :=
  .next (s.logicStep l off { op := .skipf, imm := count.toNat, dst := 0, slots := [cond] })

/-- SKIPT (R134, R139). -/
def execSkipt (l : Lane) (off : Nat) (count : BitVec 20) (cond : Ref) (s : State) :
    Host.Outcome State Fault Refusal :=
  .next (s.logicStep l off { op := .skipt, imm := count.toNat, dst := 0, slots := [cond] })

/-- END (R132, R135). -/
def execEndPass (l : Lane) (off : Nat) (s : State) :
    Host.Outcome State Fault Refusal :=
  .next (s.logicStep l off { op := .endp, imm := 0, dst := 0, slots := [] })

end Sys2Proof.Machine
end

