-- ==== Sys2Proof/Machine/Images.lean ====
section
/-! DEFINITION. Machine/Images.lean: image identity and the image check (R3, R174, R175, R190, R192, R206, R312, R314,
R372, R416, R438, R503 to R505). -/
namespace Sys2Proof.Machine

/-! ## Identity and signatures -/

/-- IDENT: bytes 0–7 of BODYHASH as a big-endian number (chapter 14, "Image format"). -/
def imageIdent (i : Image) : Word := BitVec.ofNat 64 (i.bodyHash >>> 320)

/-- IDENT of an image slot, zero for an empty one. -/
def identOf (i : Option Image) : Word := match i with | some x => imageIdent x | none => 0

/-- 0x10: magic, format, kind, lengths and section bounds (R503, R505). -/
def State.formatOk (s : State) (i : Image) : Bool :=
  let fmtOk := match i.kind with
    | 1 => decide (s.rdM R.UPD_FMT_STN_MIN ≤ i.fmt) && decide (i.fmt ≤ s.rdM R.UPD_FMT_STN_MAX)
        && i.station.isSome
    | 4 => decide (s.rdM R.UPD_FMT_APP_MIN ≤ i.fmt) && decide (i.fmt ≤ s.rdM R.UPD_FMT_APP_MAX)
    | 2 => decide (i.fmt = 1)
    | 3 => decide (i.fmt = 1)
    | _ => false
  decide (i.magic = 0x43425831) && fmtOk && decide (i.length = i.body.length) && decide (1 ≤ i.nsec)
    && decide (i.nsec ≤ 32) && decide (i.sections.length = i.nsec) && decide (i.sectionCrcs.length = i.nsec)
    && i.sections.all fun x => decide (x.1 + x.2 ≤ i.length)

/-- 0x11: HWTYPE family, and the bit of the order code. -/
def State.typeOk (s : State) (i : Image) : Bool := decide (i.hwtype / 256 = 0xCB7300) && bit i.hwtype (if s.fitted then 0 else 1)

/-- 0x12: bound to this unit. -/
def State.unitOk (s : State) (i : Image) : Bool := !i.serialBound || decide (i.serial = s.modReg R.SYS_SERIAL)

/-- 0x13: BODYHASH and every section CRC-32C. -/
def hashOk (i : Image) : Bool :=
  decide (Config.sha384 i.body = i.bodyHash)
    && (i.sections.zip i.sectionCrcs).all fun x => decide (crc32c (slice i.body x.1.1 x.1.2) = x.2)

/-- 0x14: the entries that the kind asks for. -/
def sigCountOk (i : Image) : Bool :=
  let has (r : Nat) : Bool := i.sigs.any fun e => e.role == r
  decide (1 ≤ i.sigs.length) && decide (i.sigs.length ≤ 2) && (if i.kind = 1 then has 1 && has 2 else has 3)

/-- The anchor that a kind's chains end at. -/
def State.anchorFor (s : State) (kind : Nat) : Option Nat :=
  if kind = 1 ∨ kind = 4 then s.sec.anchor else some s.sec.skefold

/-- 0x15: every signature verifies, every chain ends at the anchor, every leaf carries its role. -/
def State.sigsOk (s : State) (i : Image) : Bool :=
  match s.anchorFor i.kind with
  | none => false
  | some a =>
    let h := Config.sha384 (i.header ++ i.body)
    i.sigs.all fun e =>
      Config.ecdsaVerify (Config.certLeafKey e.chain) h e.sig && Config.certChains e.chain a
        && decide (Config.certRole e.chain = e.role)

/-- 0x16: the preparer and checker leaf keys differ. -/
def sigsDiffer (i : Image) : Bool :=
  let keys (r : Nat) : List Nat := (i.sigs.filter fun e => e.role == r).map fun e => Config.certLeafKey e.chain
  (keys 1).all fun k => !((keys 2).contains k)

/-- 0x17: SECVER not below D7's minimum. -/
def State.notRolledBack (s : State) (i : Image) : Bool :=
  !(decide (i.kind = 2) || decide (i.kind = 3)) || decide (s.sec.minSecver ≤ i.secver)

/-! ## Schedules (R312, R314) -/

/-- KIND, SLOT, PEXP, PHASE and node of an entry, as the order of R312 takes them. -/
def seKey (w : Word) : Nat := bits w.toNat 63 43

/-- Whether two pigeonhole or poste restante entries of one slot coincide in some round. -/
def seCoincide (v w : Word) : Bool :=
  let m := min (sePexp v) (sePexp w)
  decide (seSlot v = seSlot w) && decide (sePhase v % 2 ^ m = sePhase w % 2 ^ m)

/-- Neighbours in a list. -/
def pairsOf {α : Type} : List α → List (α × α)
  | [] => []
  | x :: xs => (xs.map fun y => (x, y)) ++ pairsOf xs

/-- One schedule table (R312). -/
def State.schedOk (s : State) (own : Nat) (t : List Word) : Bool :=
  let es := tableEntries t
  let sync := es.filter fun w => seKind w == 1
  let used := es.filter fun w => seKind w != 1
  let poste := es.filter fun w => seKind w == 3
  let portOk (ch : Chan) (w : Word) : Bool :=
    let p := sePort ch w
    decide (p ≤ 8) || (decide (p = 14) && decide (s.coreRole ch = 2)) || (decide (p = 15) && decide (seKind w = 3))
  decide (t.length ≤ 8192)
    && (es.zip (es.drop 1)).all (fun p => decide (seKey p.1 ≤ seKey p.2))
    && es.all (fun w => decide (seKind w ≠ 2) && decide (sePhase w < 2 ^ sePexp w) && decide (sePexp w ≤ 6)
        && portOk .x w && portOk .y w && decide (bits w.toNat 21 0 = 0)
        && (!seUse w || (decide (sePexp w = 0) && decide (seNode w = own) && decide (seKind w = 0)))
        && (decide (seNode w ≠ own) || decide (seKind w = 3) || (decide (sePort .x w = 0) && decide (sePort .y w = 0))))
    && sync.all (fun w => decide (bits w.toNat 61 43 = 0)) && decide (sync.length ≤ 32)
    && (pairsOf sync).all (fun p => decide (seNode p.1 ≠ seNode p.2))
    && used.all (fun w => decide (3 ≤ seSlot w) && decide (seSlot w ≤ 587))
    && (pairsOf used).all (fun p => !seCoincide p.1 p.2)
    && poste.all (fun w => decide (sePexp w = 0) && decide (seNode w = 0)) && decide (poste.length ≤ 40)

/-- The round sets of the repeating pattern of due tasks. -/
def patternOf (b : StationBody) : List Nat :=
  List.range ((b.tasks.map fun t => max 1 (bits t.cfg.toNat 14 8)).foldl Nat.lcm 1)

/-- The tasks of an image due in a round set of the pattern (R205). -/
def dueIn (b : StationBody) (k : Nat) : List TaskImage :=
  b.tasks.filter fun t =>
    bit t.cfg.toNat 63 && decide (k % max 1 (bits t.cfg.toNat 14 8) = bits t.cfg.toNat 22 16)

/-- SAFE slots of a schedule within the window of R195 in one round of a round set. -/
def safeSlots (period own : Nat) (t : List Word) (r : Nat) : Nat :=
  (tableEntries t).countP fun w =>
    let start := r * 1000000 + 1600 * seSlot w
    decide (seKind w = 0) && seUse w && decide (seNode w = own) && decide (620000 + period * 500000 ≤ start)
      && decide (start + 1600 + 100000 ≤ period * 1000000)

/-- Enough SAFE slots for every outgoing connection that Denras carries, at every round at which one schedule may give way to another
(R314, R378; log entry 171). A SAFE entry has PEXP 0, so every round set of the task pattern has the same slots. -/
def slotsSuffice (own : Nat) (b : StationBody) : Bool :=
  let most := b.outbound.countP fun o => o.cat == 2
  let count (t : List Word) (lo hi : Nat) : Nat :=
    ((List.range b.period).filter fun r => decide (lo ≤ r) && decide (r < hi)).foldl (fun n r => n + safeSlots b.period own t r) 0
  b.schedules.all fun t => b.schedules.all fun u =>
    (List.range (b.period + 1)).all fun r => decide (most ≤ count t 0 r + count u r b.period)

/-- 0x21. -/
def State.schedulesOk (s : State) (b : StationBody) : Bool :=
  let own := if s.rdM R.TWN_ROLE_POS = 0 then b.node0 else b.node1
  decide (b.schedules.length ≤ 4) && b.schedules.all (s.schedOk own) && slotsSuffice own b

/-! ## Connections (R206, R372) -/

/-- Whether a list holds no value twice. -/
def distinctNat (xs : List Nat) : Bool := (pairsOf xs).all fun p => decide (p.1 ≠ p.2)

/-- 0x22. -/
def connsOk (b : StationBody) : Bool :=
  let span (lo hi v : Nat) : Bool := decide (lo ≤ v) && decide (v ≤ hi)
  decide (b.inbound.length ≤ 4096) && decide (b.outbound.length ≤ 2048)
    && decide (b.inbound.countP (fun c => c.cat == 3) ≤ 64) && decide (b.outbound.countP (fun c => c.cat == 3) ≤ 64)
    && distinctNat (b.inbound.map fun c => c.conn) && distinctNat (b.outbound.map fun c => c.conn)
    && b.inbound.all (fun c => span 2 3 c.cat && span 0 15 c.task && span 0 4095 c.src0 && span 0 4095 c.src1
        && span 1000 2000000 c.maxAge && span 1000 2000000 c.tmo && span 1 65535 c.maxJump && decide (c.wordmap.length ≤ 16)
        && c.wordmap.all fun w => decide (w.1 < 16) && decide (refSpace w.2 = 0) && span 1 2 (refWord w.2))
    && b.outbound.all (fun c => span 2 3 c.cat && span 0 15 c.task && span 1000 2000000 c.expect && decide (c.dlen ≤ 16)
        && decide (c.keyRef ≠ 63))

/-! ## Timing (R174, R175, R190, R192) -/

/-- The instructions of a task's logic in stream order, with their word offsets, up to END; none when a word is illegal. -/
def streamOf (ws : List Word) (off : Nat) : Nat → Option (List (Nat × LogicIns))
  | 0 => none
  | fuel + 1 =>
    match decodeLogic ws with
    | none => none
    | some i =>
      if i.op = .endp then some [(off, i)]
      else (streamOf (ws.drop i.size) (off + i.size) fuel).map fun r => (off, i) :: r

/-- The coded latency of an instruction: two clocks more than R138 gives. -/
def codedLatency (t : TaskImage) (i : LogicIns) : Nat :=
  let w := (writesOf t i).eraseDups.length
  2 + (match i.op with
    | .all | .any | .tmr | .edge => 8
    | .conf | .flank | .flreq => 9
    | .lock | .unlock | .route => 10
    | .rrel => 12
    | .carry => 6 + (w + 15) / 16
    | _ => 6)

/-- The words that an instruction reads: its sources, and those it reads of the records it names (chapter 03). -/
def pathReads (t : TaskImage) (i : LogicIns) : List Ref :=
  match i.op, i.slots with
  | .ldi, _ => []
  | .conf, _ :: s => s.map refBare
  | .flank, _ :: s => s.flatMap fun r => [refBare r, refAt r 6]
  | .flreq, own :: s => refBare own :: s.map fun r => refAt r 6
  | .lock, _ :: s | .unlock, _ :: s => s.flatMap fun r => [refAt r 4, refAt r 5]
  | .route, own :: s => refBare own :: refAt own 1 :: s.map refBare
  | .rrel, own :: s =>
    [refBare own, refAt own 2, refAt own 3] ++ s.flatMap fun r =>
      if refMode r = 0 then [refBare r, refAt r 6] else if refMode r = 1 then [refBare r] else []
  | .tmr, s => [i.dst, refAt i.dst (refWord i.dst + 1)] ++ s.map refBare
  | .carry, _ => writesOf t i
  | _, s => s.map refBare

/-- The largest number of words that an instruction writes in one execution (R146): RREL marks its sections seen and releases
one of them. -/
def mostWrites (t : TaskImage) (i : LogicIns) : Nat :=
  match i.op, i.slots with
  | .rrel, _ :: s =>
    let sections := s.filter fun r => refMode r = 0
    let freed := (List.range sections.length).map fun n => 2 + 2 * (releasedWith ((sectionFrom s n).drop 1)).eraseDups.length
    2 + (sections.map refBare).eraseDups.length + freed.foldl max 0
  | _, _ => (writesOf t i).eraseDups.length

/-- The dependency path so far: time of each word, guards open (end offset, time), longest finish. A write in a region, and one
that may leave its word unchanged, lets the older value through; any other write replaces it. -/
def pathStep (t : TaskImage) (a : List (Ref × Nat) × List (Nat × Nat) × Nat) (x : Nat × LogicIns) :
    List (Ref × Nat) × List (Nat × Nat) × Nat :=
  let i := x.2
  let guards := a.2.1.filter fun g => decide (x.1 < g.1)
  let at' (r : Ref) : Nat := ((a.1.find? fun p => p.1 == r).map (·.2)).getD 0
  let start := ((pathReads t i).map at' ++ guards.map (·.2)).foldl max 0
  let fin := start + codedLatency t i
  if i.op = .skipf ∨ i.op = .skipt then (a.1, (x.1 + i.size + i.imm, fin + 2) :: guards, max a.2.2 (fin + 2))
  else
    let keeps (r : Ref) : Bool := !guards.isEmpty || (mayWrite i).contains r
    ((writesOf t i).foldl (fun m r => (r, if keeps r then max fin (at' r) else fin) :: m.filter fun p => p.1 != r) a.1, guards
      , max a.2.2 fin)

/-- N_w, N_i, N_wr and C_dep of a task, recomputed from its logic (R174, R175). -/
def logicCounts (t : TaskImage) : Option (Nat × Nat × Nat × Nat) :=
  (streamOf t.logic 0 (t.logic.length + 1)).map fun is =>
    (is.foldl (fun n x => max n (x.1 + x.2.size)) 0, is.length, is.foldl (fun n x => n + mostWrites t x.2) 0
      , (is.foldl (pathStep t) ([], [], 0)).2.2)

/-- The stated counts of a task are not below the module's (R175). -/
def countsOk (t : TaskImage) : Bool :=
  match logicCounts t with
  | none => false
  | some (nw, ni, nwr, cd) => decide (nw ≤ t.nW) && decide (ni ≤ t.nI) && decide (nwr ≤ t.nWr) && decide (cd ≤ t.cDep)

/-- Clocks of 1.25 ns of a pass, without preemption (R174). -/
def passClocks (t : TaskImage) : Nat := max (max ((t.nW + 7) / 8) (max ((t.nI + 7) / 8) ((t.nWr + 15) / 16))) t.cDep + 512

/-- Clocks of the look-ahead reserve (R192). -/
def lookClocks (t : TaskImage) : Nat := (t.nW + 31) / 32 + 512

/-- A task configuration fits every round set of its pattern (R192): times in quarter ns, 1.25 ns being five of them. -/
def tasksFit (period : Nat) (due : List TaskImage) : Bool :=
  decide (due.foldl (fun n t => n + 5 * (2 * passClocks t + lookClocks t)) 0 + 600000 ≤ 2000000 * period)

/-- The field ranges of TSK_CFGt under a round set length (R230). -/
def cfgFieldsOk (period : Nat) (v : Word) : Bool :=
  let m := bits v.toNat 14 8
  decide (1 ≤ m) && decide (m ≤ 100) && decide (m * period ≤ 1000) && decide (bits v.toNat 22 16 < m)

/-- A task that is enabled keeps the field ranges. -/
def cfgInRange (period : Nat) (v : Word) : Bool := !bit v.toNat 63 || cfgFieldsOk period v

/-- The counts of R190 in one round set, with one schedule aligned at a round. -/
def received (b : StationBody) (t : List Word) (align : Nat) : Nat :=
  let srcs := b.inbound.filter fun c => c.cat == 2
  let cat3 := (b.inbound.filter fun c => c.cat == 3).foldl (fun n c => n + (if c.src0 = c.src1 then 1 else 2)) 0
  (List.range b.period).foldl
    (fun n r => n + (tableEntries t).countP fun w =>
      seOccurs w (align + r) && srcs.any fun c => c.src0 == seNode w || c.src1 == seNode w) cat3

/-- 0x23. -/
def timingOk (b : StationBody) : Bool :=
  let posted (due : List TaskImage) : Nat :=
    (b.inputMap.countP fun r => due.any fun t => t.task == r.task)
      + (b.inbound.filter fun c => due.any fun t => t.task == c.task).foldl (fun n c => n + c.wordmap.length) 0
  let imported (due : List TaskImage) : Nat := due.foldl (fun n t => n + t.imports.length) 0
  decide (5 ≤ b.period) && decide (b.period ≤ 100) && b.tasks.all (fun t => countsOk t && cfgInRange b.period t.cfg)
    && (patternOf b).all (fun k => tasksFit b.period (dueIn b k) && decide (posted (dueIn b k) ≤ 32768)
        && decide (imported (dueIn b k) ≤ 4096))
    && b.schedules.all fun t => (List.range 64).all fun a => decide (received b t a ≤ 4096)

/-! ## Transfer, assignment, initial state (R206, R416, R438, R109) -/

/-- 0x24, with TWN_CTRL.EN = 1. -/
def transferOk (b : StationBody) : Bool :=
  b.tasks.all fun t =>
    let routes := t.footprint.countP fun f => f.route
    let elements := t.footprint.length - routes
    let mult := bits t.cfg.toNat 14 8
    decide (t.rtSize ≤ 65536)
      && decide (4 * (16 * elements + 8 * routes) + t.rtSize + 120 * (b.period * 500 + 320) ≤ 120 * (mult * b.period * 1000))

/-- 0x25. -/
def assignOk (b : StationBody) : Bool :=
  let fed := (b.inputMap.map fun r => (r.task, r.word)) ++ b.inbound.flatMap fun c => c.wordmap.map fun w => (c.task, w.2)
  (pairsOf fed).all (fun p => decide (p.1.2 ≠ p.2.2) || decide (p.1.1 = p.2.1))
    && distinctNat (b.cells.map fun c => c.cell)
    && !(b.ppsIn && b.inputMap.any fun r => r.input == 47)

/-- Whether a value is one of some state codes. -/
def isCode (v : Nat) (is : List Nat) : Bool := is.any fun i => decide (stateCode i = v)

/-- Whether a plain value is allowed in a word of an element of a kind, or of a route (R101 to R103). -/
def wordAllowed (t : TaskImage) (r : Ref) (v : Nat) : Bool :=
  let kind := elementKind t (refId r)
  let k (i : Nat) : Bool := decide (kind = stateCode i)
  let timer := isCode v [1, 3, 4]
  decide (v < 2 ^ 32) &&
    (if refSpace r = 1 then
      match refWord r with
      | 0 => isCode v [1, 3, 4, 5, 6, 7, 8]
      | 1 => isCode v [1, 3, 4]
      | 2 => decide (v < 256)
      | 3 => decide (1 ≤ v) && decide (v < 256)
      | 4 => timer
      | 5 => decide (v < 2 ^ 20)
      | _ => true
    else
      match refWord r with
      | 0 => isCode v [8, 9, 10, 12, 16]
      | 1 => validFor t r v
      | 2 => validFor t r v
      | 3 => if k 8 then isCode v [1, 3, 4] else if k 9 then isCode v [1, 3, 4, 5] else if k 10 then isCode v [1] else true
      | 4 => isCode v [1, 3, 4]
      | 5 => decide (v ≤ 0x2000)
      | 6 => if k 8 then isCode v [1, 3, 4, 5] else if k 9 then isCode v [1, 3, 4] else if k 10 then isCode v [1, 3] else true
      | 7 => if k 8 then isCode v [1, 3, 4] else if k 9 then decide (v ≤ 0x2000) else true
      | 10 => timer
      | 11 => decide (v < 2 ^ 20)
      | 12 => timer
      | 13 => decide (v < 2 ^ 20)
      | _ => true)

/-- 0x26: every word of the footprint has an allowed initial value. -/
def initialOk (b : StationBody) : Bool :=
  b.tasks.all fun t => t.footprint.all fun f => (footWords f).all fun r =>
    match t.words.find? fun w => w.1 == r with
    | some w => wordAllowed t r w.2.1
    | none => false

/-! ## The check (R504) -/

/-- The IDENT of the active image of a kind (R503, BASE). -/
def State.activeIdent (s : State) (kind : Nat) : Word :=
  match kind with
  | 2 => identOf s.sec.booted
  | 3 => BitVec.ofNat 64 (s.sec.starFw.get .x >>> 320)
  | 4 => s.sec.app.getD 0
  | _ => identOf s.upd.active

/-- The checks of D7, in order: 0x10 to 0x18. -/
def State.checkOuter (s : State) (i : Image) : Nat :=
  if !s.formatOk i then 0x10
  else if !s.typeOk i then 0x11
  else if !s.unitOk i then 0x12
  else if !hashOk i then 0x13
  else if !sigCountOk i then 0x14
  else if !s.sigsOk i then 0x15
  else if i.kind = 1 ∧ !sigsDiffer i then 0x16
  else if !s.notRolledBack i then 0x17
  else if i.amend ∧ i.base ≠ s.activeIdent i.kind then 0x18
  else 1

/-- 0x20: a CB-TX3-N takes no image that assigns a local field input or output (R3). -/
def State.fieldOk (s : State) (b : StationBody) : Bool :=
  s.fitted || (b.inputMap.isEmpty && b.cells.isEmpty && b.outbound.all fun o => !o.localIn)

/-- The checks of the lanes on station data: 0x20 and beyond. -/
def State.checkStation (s : State) (b : StationBody) : Nat :=
  if !s.fieldOk b then 0x20
  else if !s.schedulesOk b then 0x21
  else if !connsOk b then 0x22
  else if !timingOk b then 0x23
  else if s.rdM R.TWN_CTRL_EN = 1 ∧ !transferOk b then 0x24
  else if !assignOk b then 0x25
  else if !initialOk b then 0x26
  else 1

/-- The image check result (R504). -/
def State.imageCheck (s : State) (i : Image) : Nat :=
  if s.checkOuter i ≠ 1 then s.checkOuter i
  else if i.kind = 1 then match i.station with | some b => s.checkStation b | none => 0x10
  else 1

/-- The result is shown and recorded (R504, R521). -/
def State.checked (s : State) (i : Image) (res : Nat) : State :=
  ((s.wrM R.UPD_STAT_CHECK res).wrM R.UPD_STAT_KIND i.kind).event 0xC010 ([i.kind] ++ bytesBE (imageIdent i).toNat 8 ++ [res])

end Sys2Proof.Machine
end

