-- ==== Sys2Proof/Machine/Log.lean ====
section
/-! DEFINITION. Machine/Log.lean: the event recorder (R523 to R536, R550, R605). -/
namespace Sys2Proof.Machine

/-- The log of the module changed. -/
def State.onLog (s : State) (f : Log → Log) : State := { s with log := f s.log }

/-! ## The code table (R523, R532, R605) -/

/-- Codes whose ALARM is 1 by default (R605). -/
def alarmDefaults : List Nat :=
  [0x3001, 0x3002, 0x3003, 0x4001, 0x4006, 0x4010, 0x4021, 0x4050, 0x5002, 0x5011, 0x5022, 0x5030, 0x6004, 0x6011
   , 0x6041, 0x7002, 0x7021, 0x7023, 0x8001, 0x8002, 0x8010, 0x8011, 0x8020, 0x8030, 0x9013, 0x9014, 0x9015, 0x9016
   , 0x9021, 0xA001, 0xA002, 0xA003, 0xA010, 0xA011, 0xA020, 0xA030, 0xB002, 0xB010, 0xB031, 0xB040, 0xB051, 0xC002
   , 0xC023, 0xC025, 0xC040, 0xC041, 0xC045, 0xD003, 0xD012, 0xD020]

/-- A code marked FIXED (R532). -/
def codeFixed (code : Nat) : Bool :=
  [0x3003, 0x4006, 0x4010, 0xB002, 0xB030, 0xC002, 0xC040].contains code || decide (code / 4096 = 0xD)

/-- The event codes of the chapters, class by class (R228, R269, R299, R339, R368, R396, R423, R454, R493, R520, R523, R551, R578). -/
def eventCodes : List Nat :=
  [0x1001, 0x1010, 0x1011, 0x1012, 0x1020, 0x1021, 0x1030, 0x1031, 0x2001, 0x2002, 0x3001, 0x3002, 0x3003, 0x3010,
   0x3011, 0x3020, 0x3021, 0x3022, 0x3030, 0x3031, 0x3032]
  ++ [0x4001, 0x4002, 0x4003, 0x4004, 0x4005, 0x4006, 0x4010, 0x4020, 0x4021, 0x4030, 0x4031, 0x4040, 0x4041, 0x4042,
   0x4050, 0x4051, 0x5001, 0x5002, 0x5003, 0x5004, 0x5005, 0x5010, 0x5011, 0x5020, 0x5021, 0x5022, 0x5030]
  ++ [0x6001, 0x6002, 0x6003, 0x6004, 0x6010, 0x6011, 0x6012, 0x6020, 0x6021, 0x6022, 0x6023, 0x6030, 0x6031, 0x6040,
   0x6041, 0x6042, 0x7001, 0x7002, 0x7003, 0x7004, 0x7010, 0x7011, 0x7020, 0x7021, 0x7022, 0x7023, 0x7030]
  ++ [0x8001, 0x8002, 0x8003, 0x8004, 0x8010, 0x8011, 0x8020, 0x8021, 0x8030, 0x9001, 0x9002, 0x9003, 0x9010, 0x9011,
   0x9012, 0x9013, 0x9014, 0x9015, 0x9016, 0x9017, 0x9020, 0x9021, 0x9022, 0xA001, 0xA002, 0xA003, 0xA004, 0xA005,
   0xA010, 0xA011, 0xA012, 0xA013, 0xA020, 0xA021, 0xA022, 0xA030, 0xA031]
  ++ [0xB001, 0xB002, 0xB010, 0xB020, 0xB021, 0xB030, 0xB031, 0xB032, 0xB033, 0xB034, 0xB040, 0xB041, 0xB050, 0xB051,
   0xB060, 0xB061, 0xB062, 0xC001, 0xC002, 0xC010, 0xC011, 0xC012, 0xC020, 0xC021, 0xC022, 0xC023, 0xC024, 0xC025,
   0xC030, 0xC040, 0xC041, 0xC042, 0xC043, 0xC044, 0xC045, 0xC050, 0xD001, 0xD002, 0xD003, 0xD004, 0xD005, 0xD010,
   0xD011, 0xD012, 0xD013, 0xD014, 0xD020]

/-- The code table holds the codes of the chapters and the application codes (R523). -/
def codeKnown (code : Nat) : Bool := eventCodes.contains code || (decide (0xE000 ≤ code) && decide (code ≤ 0xE0FF))

/-- Whether the code table marks a code as a lane code; R536 shows 0x8010 as a module code (R523; log entry 5). -/
def laneCoded (code : Nat) : Bool := code != 0x8010 && Config.laneCode code

/-- LIMIT and ALARM of a code: as set, or the defaults, which for an application code are those of the station image (R605). -/
def State.rate (s : State) (code : Nat) : Nat × Bool :=
  let assigned : Option (Nat × Bool) := match s.station with
    | some b => if code / 256 = 0xE0 then (b.appCodes.find? fun a => a.1 == code).map fun a => a.2 else none
    | none => none
  match s.log.rates.find? fun r => r.1 == code with
  | some r => r.2
  | none => assigned.getD (10, alarmDefaults.contains code)

/-! ## Submission (R526, R527) -/

/-- A record lost to a full buffer or queue (R527, R533). -/
def State.lostOvf (s : State) (code : Nat) : State := (s.incM R.LOG_LOST_OVF_LOST).wrM R.LOG_LOST_LAST_CODE code

/-- A record lost to a full store (R528). -/
def State.lostFull (s : State) (code : Nat) : State := (s.incM R.LOG_LOST_FULL_LOST).wrM R.LOG_LOST_LAST_CODE code

/-- A record enters D7's buffer of 4,096 (R527). -/
def State.bufferRec (s : State) (r : Rec) : State :=
  if 4096 ≤ s.log.buffer.length then s.lostOvf r.code else s.onLog fun x => { x with buffer := x.buffer ++ [r] }

/-- The record that D7 makes of a submission: PCYC and OPMIN filled in, FLAGS as given (R524, R526). -/
def State.recOf (s : State) (u : Sub) (flags : Nat) : Rec :=
  { code := u.code, flags := flags, pcyc := s.rdM R.PWR_D0_PCYC, opmin := s.rdM R.PWR_D0_OPMIN, rs := u.rs, t := u.t
    data := u.data }

/-- A module record of a code with ALARM = 1 joins its entry of the round set (R536). -/
def State.alarm (s : State) (code : Nat) (data : List Nat) : State :=
  if (s.rate code).2 = false then s
  else s.onLog fun x =>
    { x with alarms :=
        if x.alarms.any fun (a : Nat × Nat × List Nat) => a.1 == code then
          x.alarms.map fun (a : Nat × Nat × List Nat) => if a.1 = code then (a.1, min 0xFFFF (a.2.1 + 1), a.2.2) else a
        else x.alarms ++ [(code, 1, (data ++ List.replicate 8 0).take 8)] }

/-- A record that D7 itself makes, with SRC 0b00: a module record, and so one that enters the alarm frames (R536). -/
def State.d7Rec (s : State) (code : Nat) (data : List Nat) : State :=
  (s.bufferRec (s.recOf { lane := 0, src := 0, code := code, rs := s.rs, t := s.time.now, data := data } 0)).alarm code data

/-- Two submissions of one module record: identical in CODE, RS and DATA (R526). -/
def sameSub (u v : Sub) : Bool := u.code == v.code && u.rs == v.rs && u.data == v.data

/-- D7 takes a submission (R526). -/
def State.submit (s : State) (u : Sub) : State :=
  if laneCoded u.code then s.bufferRec (s.recOf u u.lane)
  else if s.log.matched.any fun (m : Sub) => sameSub m u then s
  else
    match s.log.open_.find? fun (o : Sub × Nat) => sameSub o.1 u && o.1.lane != u.lane with
    | some o =>
      let s1 := s.onLog fun x =>
        { x with open_ := x.open_.filter fun (p : Sub × Nat) => !(sameSub p.1 u), matched := x.matched ++ [u] }
      (s1.bufferRec (s1.recOf o.1 0)).alarm u.code u.data
    | none =>
      if s.log.open_.any fun (o : Sub × Nat) => o.1 == u then s else s.onLog fun x => { x with open_ := x.open_ ++ [(u, 0)] }

/-- The oldest record that a lane's firmware has yet to submit. -/
def State.nextSub (s : State) (l : Lane) : Option Sub := s.log.outbox.find? fun (u : Sub) => u.lane == l.code

/-- A lane submits its oldest record. -/
def State.submitNext (s : State) (l : Lane) : State :=
  match s.nextSub l with
  | some u => (s.onLog fun x => { x with outbox := x.outbox.erase u }).submit u
  | none => s

/-- LONE_RECORD: submissions that the end of the next round set has found unmatched are written with LONE (R526). -/
def execLoneRecord (s : State) : Host.Outcome State Fault Refusal :=
  let old := s.log.open_.filter fun (o : Sub × Nat) => decide (2 ≤ o.2)
  let s1 := s.onLog fun x => { x with open_ := x.open_.filter fun (o : Sub × Nat) => decide (o.2 < 2) }
  .next (old.foldl (fun (s : State) (o : Sub × Nat) => s.bufferRec (s.recOf o.1 (o.1.lane + 16))) s1)

/-! ## The store (R524, R525, R527, R528) -/

/-- Bytes 0x00–0x2F of a record. -/
def recBytes (r : Rec) (seq : Nat) : List Nat :=
  bytesBE r.code 2 ++ [r.flags % 256, r.data.length % 256] ++ bytesBE r.pcyc 4 ++ bytesBE r.opmin 4 ++ bytesBE r.rs 4
    ++ bytesBE r.t 8 ++ bytesBE seq 4 ++ ((r.data ++ List.replicate 20 0).take 20)

/-- The MAC of a record: the first 16 bytes of the HMAC over its bytes and the MAC before (R525). -/
def macOf (bs : List Nat) (prev : Nat) : Nat := Config.hmac Config.logKey (bs ++ bytesBE prev 16) >>> 256

/-- One record appended to the store; COUNT, NEAR and FULL follow (R528). -/
def State.storeRec (s : State) (r : Rec) : State :=
  let put (s : State) (r : Rec) : State :=
    let bs := recBytes r s.log.store.length
    let m := macOf bs s.log.head
    let s1 := s.onLog fun x => { x with store := x.store ++ [bs ++ bytesBE m 16], head := m }
    s1.wrM R.LOG_CTRL_COUNT s1.log.store.length
  let n := s.log.store.length
  if 524288 ≤ n then s.lostFull r.code
  else if n = 524287 then
    (((put s { r with code := 0xD003, flags := 0, data := [] }).alarm 0xD003 []).wrM R.LOG_CTRL_FULL 1).lostFull r.code
  else
    let s1 := put s r
    if n + 1 = 471860 then (s1.wrM R.LOG_CTRL_NEAR 1).d7Rec 0xD002 [] else s1

/-- A record is written, or held while the store is frozen or being erased (R529, R533). -/
def State.writeRec (s : State) (r : Rec) : State :=
  if s.rdM R.LOG_FREEZE_FROZEN = 1 ∨ s.log.erasing then
    if 1024 ≤ s.log.held.length then s.lostOvf r.code
    else
      let s1 := s.onLog fun x => { x with held := x.held ++ [r] }
      s1.wrM R.LOG_FREEZE_HELD s1.log.held.length
  else s.storeRec r

/-- The window of a record's T (R530). -/
def winOf (t : Nat) : Nat := t / 1000000000

/-- The burst record of a code: T is the end of the window (R531). -/
def State.burstRec (s : State) (d : Nat × Nat × Nat × Nat) : Rec :=
  { code := d.1, flags := 4, pcyc := s.rdM R.PWR_D0_PCYC, opmin := s.rdM R.PWR_D0_OPMIN, rs := s.rs
    t := (s.log.winIdx + 1) * 1000000000, data := bytesBE d.2.1 4 ++ bytesBE d.2.2.1 8 ++ bytesBE d.2.2.2 8 }

/-- A window ends: a burst record for each code with dead letters, in ascending order of code; window w begins (R530, R531). -/
def State.endWindow (s : State) (w : Nat) : State :=
  let ds := s.log.deadWin.mergeSort fun x y => decide (x.1 ≤ y.1)
  (ds.foldl (fun (s : State) (d : Nat × Nat × Nat × Nat) => s.writeRec (s.burstRec d)) s).onLog fun x =>
    { x with winIdx := w, window := [], deadWin := [] }

/-- A record is counted in the window, and suppressed past LIMIT (R530). -/
def State.countRec (s : State) (r : Rec) : State :=
  let n := mapGet (fun _ => 0) s.log.window r.code
  if n < (s.rate r.code).1 then
    (s.onLog fun x => { x with window := mapInsert x.window r.code (n + 1) }).writeRec r
  else s.onLog fun x =>
    { x with
      dead := mapInsert x.dead r.code (satAdd (mapGet (fun _ => 0) x.dead r.code) 1 (2 ^ 32 - 1))
      deadWin :=
        if x.deadWin.any fun (d : Nat × Nat × Nat × Nat) => d.1 == r.code then
          x.deadWin.map fun (d : Nat × Nat × Nat × Nat) => if d.1 = r.code then (d.1, d.2.1 + 1, d.2.2.1, r.t) else d
        else x.deadWin ++ [(r.code, 1, r.t, r.t)] }

/-- A record of the buffer comes to be written: a record of a later window ends the one before it; pending records, burst records and
FIXED codes are neither counted nor suppressed (R527, R530 to R532). -/
def State.limitRec (s0 : State) (r : Rec) : State :=
  if bit r.flags 3 || bit r.flags 2 then s0.writeRec r
  else
    let s := if s0.log.winIdx < winOf r.t then s0.endWindow (winOf r.t) else s0
    if codeFixed r.code then s.writeRec r else s.countRec r

/-- RECORD_WRITE: D7 writes the oldest buffered record (R527). -/
def execRecordWrite (s : State) : Host.Outcome State Fault Refusal :=
  match s.log.buffer with
  | [] => .next s
  | r :: rest =>
    if s.dom 7 ≠ 2 ∨ s.log.closed then .next s
    else .next ((s.onLog fun x => { x with buffer := rest }).limitRec r)

/-- RATE_WINDOW_END: the window ends once cluster time has passed it, and the records that fell in it are written first (R530,
R531). -/
def execRateWindowEnd (s : State) : Host.Outcome State Fault Refusal :=
  if s.dom 7 ≠ 2 ∨ s.log.closed ∨ winOf s.time.now = s.log.winIdx then .next s
  else
    let mine (r : Rec) : Bool := decide (winOf r.t ≤ s.log.winIdx)
    let s1 := s.onLog fun x => { x with buffer := x.buffer.dropWhile mine }
    .next (((s.log.buffer.takeWhile mine).foldl State.limitRec s1).endWindow (winOf s.time.now))

/-! ## Clearing, freezing (R529, R533, R550) -/

/-- The held records are written in order. -/
def State.releaseHeld (s : State) : State :=
  let rs := s.log.held
  rs.foldl State.writeRec ((s.onLog fun x => { x with held := [] }).wrM R.LOG_FREEZE_HELD 0)

/-- The freeze ends with a cause; 1 is the timeout (R533). -/
def State.unfreeze (s : State) (cause : Nat) : State :=
  if s.rdM R.LOG_FREEZE_FROZEN = 0 then s
  else (s.wrM R.LOG_FREEZE_FROZEN 0).releaseHeld.d7Rec 0xD005 [cause]

/-- The lanes of the vote set that hold FREEZE = 1. -/
def State.freezers (s : State) : Nat := s.voters.countP fun l => decide (s.rd l R.LOG_FREEZE_FREEZE = 1)

/-- D7 follows the lanes' FREEZE bits. -/
def State.judgeFreeze (s : State) : State :=
  if 2 ≤ s.freezers then (if s.rdM R.LOG_FREEZE_FROZEN = 1 then s
      else ((s.wrM R.LOG_FREEZE_FROZEN 1).onLog fun x => { x with frozenAt := s.time.now }).d7Rec 0xD004 [])
  else s.unfreeze 0

/-- At a boundary every open submission has waited one more round set; matches of ended round sets are forgotten;
and D7 follows the FREEZE bits of the vote set (R533). -/
def State.ageSubs (s : State) : State :=
  (s.onLog fun x =>
    { x with open_ := x.open_.map fun (o : Sub × Nat) => (o.1, o.2 + 1), matched := x.matched.drop (x.matched.length - 4096)
             dropped := false }).judgeFreeze

/-- A write of LOG_FREEZE: TMO outside 1 to 60 is not applied. -/
def State.writeFreeze (s : State) (l : Lane) (v : Word) : State :=
  let t := R.LOG_FREEZE_TMO.of v
  let s1 := s.wr l R.LOG_FREEZE_FREEZE (R.LOG_FREEZE_FREEZE.of v)
  (if 1 ≤ t ∧ t ≤ 60 then s1.wr l R.LOG_FREEZE_TMO t else s1).judgeFreeze

/-- LOG_FREEZE_WRITE (R533). -/
def execLogFreezeWrite (l : Lane) (c : CoreId) (v : Word) (s : State) : Host.Outcome State Fault Refusal :=
  .next (s.regWriteBy l c R.LOG_FREEZE v fun s => s.writeFreeze l v)

/-- The freeze has lasted TMO minutes, the TMO of a lane that holds FREEZE (R533; log entry 185). -/
def State.freezeOver (s : State) : Bool :=
  s.voters.any fun l => decide (s.rd l R.LOG_FREEZE_FREEZE = 1) && decide (s.log.frozenAt + 60000000000 * s.rd l R.LOG_FREEZE_TMO ≤ s.time.now)

/-- FREEZE_TIMEOUT: a freeze ends on its own, and the lanes' FREEZE bits read 0 (R533). -/
def execFreezeTimeout (s : State) : Host.Outcome State Fault Refusal :=
  .next (if s.rdM R.LOG_FREEZE_FROZEN = 1 ∧ s.freezeOver then (s.wrAll R.LOG_FREEZE_FREEZE 0).unfreeze 1 else s)

/-- A lane's write of LOG_CTRL.CLEAR: with two lanes of the vote set in one round set the erase starts; a freeze ends
(R529, R550), and the lanes' FREEZE bits with it (DEDUCED, log entry 195). -/
def State.writeClear (s : State) (l : Lane) : State :=
  if s.mode ≠ mCommissioning then s
  else
    let s1 := s.onLane l fun x => { x with clearReq := true }
    if 2 ≤ s1.voters.countP fun v => (s1.lane v).clearReq then
      let thawed := if s1.rdM R.LOG_FREEZE_FROZEN = 1 then (s1.wrAll R.LOG_FREEZE_FREEZE 0).unfreeze 0 else s1
      let s2 := thawed.onLanes fun x => { x with clearReq := false }
      s2.onLog fun x => { x with erasing := true }
    else s1

/-- LOG_CLEAR (R529). -/
def execLogClear (l : Lane) (c : CoreId) (s : State) : Host.Outcome State Fault Refusal :=
  .next (s.regAccess l c R.LOG_CTRL true fun s => s.writeClear l)

/-- ERASE_COMPLETE: the store is empty; record 0xD001 comes first, then what was held (R529); while the store is frozen they wait
(R533). -/
def execEraseComplete (s : State) : Host.Outcome State Fault Refusal :=
  if !s.log.erasing then .next s
  else
    let data := bytesBE s.log.store.length 4 ++ bytesBE (s.rdM R.LOG_LOST_FULL_LOST) 4 ++ bytesBE (s.rdM R.LOG_LOST_OVF_LOST) 2
    let s1 := s.onLog fun x => { x with store := [], chain0 := x.head, dead := [], erasing := false }
    let s2 := (((s1.wrM R.LOG_CTRL_FULL 0).wrM R.LOG_CTRL_NEAR 0).wrM R.LOG_CTRL_COUNT 0).setModReg R.LOG_LOST 0
    let r := s2.recOf { lane := 0, src := 0, code := 0xD001, rs := s.rs, t := s.time.now, data := data } 0
    .next (if s.rdM R.LOG_FREEZE_FROZEN = 1 then
        let s3 := s2.onLog fun x => { x with held := r :: x.held }
        s3.wrM R.LOG_FREEZE_HELD s3.log.held.length
      else (s2.storeRec r).releaseHeld)

/-! ## Rates (R532) -/

/-- A write of LOG_RATE: a code outside the code table ignores it; WR = 1 applies LIMIT and ALARM to a code that is not
FIXED; a LIMIT of 0 is not applied. -/
def State.writeRate (s : State) (l : Lane) (v : Word) : State :=
  let code := R.LOG_RATE_CODE.of v
  if !codeKnown code then s
  else
    let s1 := s.wr l R.LOG_RATE_CODE code
    if R.LOG_RATE_WR.of v = 0 ∨ codeFixed code then s1
    else
      let limit := if R.LOG_RATE_LIMIT.of v = 0 then (s.rate code).1 else R.LOG_RATE_LIMIT.of v
      s1.onLog fun x =>
        { x with rates := (x.rates.filter fun (r : Nat × Nat × Bool) => r.1 != code) ++ [(code, limit, decide (R.LOG_RATE_ALARM.of v = 1))] }

/-- LOG_RATE_SELECT: a write with WR = 0. -/
def execLogRateSelect (l : Lane) (c : CoreId) (v : Word) (s : State) : Host.Outcome State Fault Refusal :=
  .next (s.regWriteBy l c R.LOG_RATE v fun s => s.writeRate l (R.LOG_RATE_WR.put v 0))

/-- LOG_RATE_APPLY: a write with WR = 1. -/
def execLogRateApply (l : Lane) (c : CoreId) (v : Word) (s : State) : Host.Outcome State Fault Refusal :=
  .next (s.regWriteBy l c R.LOG_RATE v fun s => s.writeRate l (R.LOG_RATE_WR.put v 1))

/-- LOG_RATE as a lane reads it: LIMIT, FIXED, ALARM and DEAD of the code it has selected. -/
def State.rateView (s : State) (l : Lane) : Word :=
  let code := s.rd l R.LOG_RATE_CODE
  let r := s.rate code
  R.LOG_RATE_DEAD.put (R.LOG_RATE_ALARM.put (R.LOG_RATE_FIXED.put (R.LOG_RATE_LIMIT.put (R.LOG_RATE_CODE.put 0 code) r.1)
    (ofBool (codeFixed code))) (ofBool r.2)) (mapGet (fun _ => 0) s.log.dead code)

/-! ## The windows (R534) -/

/-- A read of LOG_WIN0 latches the record at the lane's cursor. -/
def State.latchWin (s : State) (l : Lane) : State :=
  s.onLane l fun x => { x with logWin := s.log.store.getD (s.rd l R.LOG_CUR_IDX) [] }

/-- LOG_WINw: bytes 8w to 8w + 7 of the latched record. -/
def State.winView (s : State) (l : Lane) (w : Nat) : Word := BitVec.ofNat 64 (numAt ((s.lane l).logWin ++ List.replicate 64 0) (8 * w) 8)

/-- A read of LOG_WIN7 with AUTO advances the cursor. -/
def State.advanceWin (s : State) (l : Lane) : State :=
  if s.rd l R.LOG_CUR_AUTO = 1 then s.wr l R.LOG_CUR_IDX (s.rd l R.LOG_CUR_IDX + 1) else s

/-! ## Alarm queue (R536) -/

/-- One entry is appended to the alarm queue, or absorbed by an older entry of its code that still waits, or dropped. -/
def State.appendAlarm (s : State) (a : Nat × Nat × List Nat) : State :=
  if s.log.alarmQ.any fun (q : Nat × Nat × Nat × List Nat) => q.2.1 == a.1 then
    s.onLog fun x => { x with alarmQ := x.alarmQ.map fun (q : Nat × Nat × Nat × List Nat) =>
      if q.2.1 = a.1 then (q.1, q.2.1, min 0xFFFF (q.2.2.1 + a.2.1), q.2.2.2) else q }
  else if 256 ≤ s.log.alarmQ.length then
    let s1 := s.incRunning R.LOG_CTRL_ALARM_DROP
    if s1.log.dropped then s1 else (s1.onLog fun x => { x with dropped := true }).event 0xD020 []
  else s.onLog fun x => { x with alarmQ := x.alarmQ ++ [(s.rs, a.1, a.2.1, a.2.2)] }

/-- The round set's entries are appended at the dispatch close. -/
def State.appendAlarms (s : State) : State :=
  let as := s.log.alarms
  as.foldl State.appendAlarm (s.onLog fun x => { x with alarms := [] })

/-- The record in the store as the MAC chain should have it: the first SEQ of a range that fails (R525). -/
def chainCheck (prev : Nat) (seq : Nat) : List (List Nat) → Option Nat
  | [] => none
  | r :: rest =>
    if macOf (r.take 48) prev = numAt r 48 16 then chainCheck (numAt r 48 16) (seq + 1) rest else some seq

/-- D7 recomputes the chain over a range of SEQ. -/
def State.chainRange (s : State) (lo hi : Nat) : Option Nat :=
  let prev := if lo = 0 then s.log.chain0 else numAt (s.log.store.getD (lo - 1) []) 48 16
  chainCheck prev lo ((s.log.store.drop lo).take (hi + 1 - lo))

end Sys2Proof.Machine
end

