-- ==== Sys2Proof/Machine/Power.lean ====
section
/-! DEFINITION. Machine/Power.lean: the input supply, the domains, stamps, self-test, shutdown and the reset input
(chapter 13). The start sequence itself stands in Machine/Start.lean. -/
namespace Sys2Proof.Machine

/-! ## Supply (R456 to R460) -/

/-- The power manager's state changed. -/
def State.onPower (s : State) (f : Power → Power) : State := { s with power := f s.power }

/-- VIN in its band, in 0.1 V (R456). -/
def vinInBand (vin : Int) : Bool := decide (168 ≤ vin) && decide (vin ≤ 1375)

/-- VIN beyond the absolute maximum ratings (R581). -/
def vinBeyond (vin : Int) : Bool := decide (vin < -1400) || decide (1540 < vin)

/-- The nominal voltages of PWR_BUDGET.NOM in V (R494). -/
def nominal : Nat → Nat
  | 0 => 24
  | 1 => 36
  | 2 => 48
  | 3 => 72
  | 4 => 96
  | _ => 110

/-- PWR_SUPPLY shows a VIN: value, band, overvoltage, LOW90 (R460, R494). A negative voltage reads as 0. -/
def State.showVin (s : State) (vin : Int) : State :=
  (((s.wrM R.PWR_SUPPLY_VIN vin.toNat).wrM R.PWR_SUPPLY_INBAND (ofBool (vinInBand vin))).wrM R.PWR_SUPPLY_OVER
    (ofBool (decide (1375 < vin)))).wrM R.PWR_SUPPLY_LOW90
    (ofBool (decide (vin < 9 * nominal (s.rdM R.PWR_BUDGET_NOM))))

/-! ## Stamps (R468 to R472) -/

def stEngine : Nat := 1
def stScrub : Nat := 2
def stBist : Nat := 3
def stGroupOn : Nat := 4
def stFlash : Nat := 5

/-- The amount of a stamp in mW (R468). -/
def stampAmount : Nat → Nat
  | 1 => 3200
  | 2 => 300
  | 4 => 25000
  | 5 => 1200
  | _ => 0

/-- The base reservation of a domain in mW. -/
def baseReservation : Nat → Nat
  | 2 => 8000
  | 3 => 8000
  | 4 => 8000
  | 5 => 8400
  | 6 => 1500
  | 7 => 800
  | _ => 0

/-- Two requests of different lanes are identical (R469). -/
def sameStamp (x y : Stamp) : Bool := x.tag == y.tag && x.kind == y.kind && x.arg == y.arg

/-- A stamp that two lanes must request alike. -/
def votedStamp (k : Nat) : Bool := decide (k = stGroupOn) || decide (k = stFlash)

/-- The stamps held, each voted one once. -/
def State.heldStamps (s : State) : List Stamp :=
  (s.power.stamps.filter fun x => x.held).foldl
    (fun (acc : List Stamp) (x : Stamp) => if votedStamp x.kind && acc.any (sameStamp x) then acc else acc ++ [x]) []

/-- Headroom of the module budget, and of the field budget (R468, R494). -/
def State.headroom (s : State) : Nat :=
  let base := (List.range 8).foldl (fun n d => n + (if s.dom d = 2 then baseReservation d else 0)) 1200
  let held := (s.heldStamps.filter fun x => x.kind != stGroupOn).foldl (fun n x => n + stampAmount x.kind) 0
  s.rdM R.PWR_BUDGET_MOD_LIMIT - (base + held)

def State.fieldHead (s : State) : Nat :=
  s.rdM R.PWR_BUDGET_FIELD_LIMIT - (s.heldStamps.filter fun x => x.kind == stGroupOn).foldl (fun n x => n + stampAmount x.kind) 0

/-- Whether a lane holds a stamp of a kind, with an argument. -/
def State.holdsStamp (s : State) (kind arg : Nat) : Bool :=
  s.power.stamps.any fun x => x.held && x.kind == kind && x.arg == arg

/-- A stamp of a lane ends: the engine's stamp takes RTE_STAT.STAMP and RTE_CTRL.EN with it (R177). -/
def State.dropStamp (s : State) (x : Stamp) : State :=
  let s1 := s.onPower fun p => { p with stamps := p.stamps.erase x }
  if x.held ∧ x.kind = stEngine then (s1.wr x.lane R.RTE_STAT_STAMP 0).wr x.lane R.RTE_CTRL_EN 0 else s1

/-- A request is recorded (R469): KIND 0x3 is refused from a lane, and so are kinds and groups that do not exist; a TAG in
use takes no second request. -/
def State.requestStamp (s : State) (l : Lane) (v : Word) : State :=
  let kind := R.PWR_STAMP_REQ_KIND.of v
  let tag := R.PWR_STAMP_REQ_TAG.of v
  let arg := R.PWR_STAMP_REQ_ARG.of v
  let ok := [stEngine, stScrub, stGroupOn, stFlash].contains kind && (if kind = stGroupOn then decide (arg < 3) else decide (arg = 0))
  if !ok || s.power.stamps.any fun x => x.lane == l && x.tag == tag then s
  else s.onPower fun p =>
    { p with stamps := p.stamps ++ [{ lane := l, tag := tag, kind := kind, arg := arg, held := false, order := p.order }]
             order := p.order + 1 }

/-- A stamp or request of a lane is released. -/
def State.releaseStamp (s : State) (l : Lane) (tag : Nat) : State :=
  match s.power.stamps.find? fun x => x.lane == l && x.tag == tag with
  | some x => s.dropStamp x
  | none => s

/-- A write of PWR_STAMP_REQ: a release or a request. -/
def State.writeStampReq (s : State) (l : Lane) (v : Word) : State :=
  if R.PWR_STAMP_REQ_REL.of v = 1 then s.releaseStamp l (R.PWR_STAMP_REQ_TAG.of v) else s.requestStamp l v

/-- STAMP_REQUEST (R469). -/
def execStampRequest (l : Lane) (c : CoreId) (v : Word) (s : State) : Host.Outcome State Fault Refusal :=
  .next (s.regWriteBy l c R.PWR_STAMP_REQ v fun s => s.requestStamp l v)

/-- STAMP_RELEASE (R469). -/
def execStampRelease (l : Lane) (c : CoreId) (v : Word) (s : State) : Host.Outcome State Fault Refusal :=
  .next (s.regWriteBy l c R.PWR_STAMP_REQ v fun s => s.releaseStamp l (R.PWR_STAMP_REQ_TAG.of v))

/-- The rank of a kind in the order of R470. -/
def stampRank : Nat → Nat
  | 4 => 0
  | 1 => 1
  | 2 => 2
  | 5 => 3
  | _ => 4

/-- The requests that stand in the order of R470: a voted one once two lanes of the vote set hold it alike. -/
def State.stampQueue (s : State) : List Stamp :=
  let ready (x : Stamp) : Bool :=
    !votedStamp x.kind || decide (2 ≤ (s.power.stamps.filter fun y => sameStamp x y && s.inVote y.lane).length)
  (s.power.stamps.filter fun x => !x.held && ready x).mergeSort fun x y =>
    decide (stampRank x.kind < stampRank y.kind) || (decide (stampRank x.kind = stampRank y.kind)
      && (decide (x.order ≤ y.order)))

/-- A stamp becomes held: interrupt source 6; RTE_STAT.STAMP shows the engine's. -/
def State.grantStamp (s : State) (x : Stamp) : State :=
  let gets (y : Stamp) : Bool := y == x || (votedStamp x.kind && sameStamp x y)
  let lanes := (s.power.stamps.filter fun y => gets y && !y.held).map fun y => y.lane
  let s1 := s.onPower fun p => { p with stamps := p.stamps.map fun y => if gets y then { y with held := true } else y }
  lanes.foldl (fun (s : State) (l : Lane) =>
    (if x.kind = stEngine then s.wr l R.RTE_STAT_STAMP 1 else s).raise l 6) s1

/-- STAMP_GRANT: the first request in order is granted when its amount fits; none while HOLD = 1 (R470, R471). -/
def execStampGrant (s : State) : Host.Outcome State Fault Refusal :=
  match s.stampQueue with
  | [] => .next s
  | x :: _ =>
    let room := if x.kind = stGroupOn then s.fieldHead else s.headroom
    let already := votedStamp x.kind && s.power.stamps.any fun y => y.held && sameStamp x y
    .next (if s.rdM R.PWR_SUPPLY_HOLD = 0 ∧ (already ∨ stampAmount x.kind ≤ room) then s.grantStamp x else s)

/-- GROUP_ON_STAMP_TIMEOUT: released by the power manager after 200 ms (R469). -/
def execGroupOnStampTimeout (tag : Nat) (s : State) : Host.Outcome State Fault Refusal :=
  .next ((s.power.stamps.filter fun x => x.held && x.kind == stGroupOn && x.tag == tag).foldl State.dropStamp s)

/-- Every FLASH stamp is withdrawn (R471). -/
def State.withdrawFlash (s : State) : State :=
  (s.power.stamps.filter fun x => x.held && x.kind == stFlash).foldl
    (fun (s : State) (x : Stamp) =>
      ((s.dropStamp x).wr x.lane R.PWR_STAMP_GRANT_WDRN (setBit (s.rd x.lane R.PWR_STAMP_GRANT_WDRN) x.tag true)).eventL
        x.lane 0xB020 []) s

/-- PWR_STAMP_GRANT as a lane reads it. -/
def State.grantView (s : State) (l : Lane) : Word :=
  let mask (held : Bool) : Nat :=
    (s.power.stamps.filter fun x => x.lane == l && x.held == held).foldl (fun m x => setBit m x.tag true) 0
  R.PWR_STAMP_GRANT_PEND.put (R.PWR_STAMP_GRANT_HELD.put (R.PWR_STAMP_GRANT_FHEAD.put (R.PWR_STAMP_GRANT_HEADROOM.put
    (s.laneReg l R.PWR_STAMP_GRANT) s.headroom) s.fieldHead) (mask true)) (mask false)

/-! ## Domains (R461 to R464) -/

/-- A star core goes OFF (R337). -/
def State.coreOff (s : State) (ch : Chan) : State :=
  ((s.setCoreState ch 0).onStar ch fun _ => resetStar).onPower fun p =>
    { p with d5 := match ch with | .x => (false, p.d5.2) | .y => (p.d5.1, false) }

/-- A lane's domain is off: the lane is absent and OUT, its links are down, and what it held is lost (R26, R27). The running lanes
see the change of XLE_STAT (R80). With fewer than two lanes left in the vote set SAFE latches (R248). -/
def State.loseLane (s : State) (l : Lane) : State :=
  let s1 := s.onLane l fun _ => resetLane
  let s2 := Lane.list.foldl (fun (s : State) (v : Lane) =>
    if v = l ∨ (s.lane v).running = false then s
    else (((s.wr v R.CMP_VOTE_VIEW (setBit (s.rd v R.CMP_VOTE_VIEW) l.bit false)).wr v R.XLE_STAT_ABS_OWN
      (s.rd v R.XLE_STAT_ABS_OWN ||| l.mask)).wr v (upField v l) 0).raise v 4) s1
  let s3 := ((s2.setSt l 0).wrM R.XLE_STAT_ABS_MOD (s2.rdM R.XLE_STAT_ABS_MOD ||| l.mask)).revote
  (if s3.mode = mRunning then s3.setMode mDegraded else s3).judgeVset

/-- The power manager switches a domain on, or off, in STARTING: PWR_DOM_CTRL.ON shows it (R461, R494). -/
def State.powerOn (s : State) (n : Nat) : State :=
  (s.setDom n 2).wrM R.PWR_DOM_CTRL_ON (setBit (s.rdM R.PWR_DOM_CTRL_ON) (n - 2) true)

def State.powerOff (s : State) (n : Nat) : State :=
  (s.setDom n 0).wrM R.PWR_DOM_CTRL_ON (setBit (s.rdM R.PWR_DOM_CTRL_ON) (n - 2) false)

/-- The fault of a domain is latched and recorded (R464). -/
def State.domainFault (s : State) (n reg : Nat) : State :=
  let s1 := (s.setDom n (if reg = 0 then 3 else s.dom n)).wrM R.PWR_DOM_STAT_FAULT (setBit (s.rdM R.PWR_DOM_STAT_FAULT) n true)
  s1.event 0xB010 [n, reg]

/-- REGULATOR_FAULT: the domain, or the D5 regulator, is switched off; the effects are those of R464. A fault of D6 is
SAFE on a CB-TX3-F and recorded only on a CB-TX3-N (R2). -/
def execRegulatorFault (reg : Regulator) (s : State) : Host.Outcome State Fault Refusal :=
  let lane (l : Lane) : State := if s.dom (laneDom l) = 0 then s else (s.domainFault (laneDom l) 0).loseLane l
  let core (ch : Chan) : State :=
    if s.dom 5 = 0 then s
    else
      let s1 := (s.domainFault 5 (chanNum ch + 1)).coreOff ch
      let s2 := match ch with | .x => s1.wrM R.PWR_DOM_STAT_REG_X 1 | .y => s1.wrM R.PWR_DOM_STAT_REG_Y 1
      if s2.rdM R.PWR_DOM_STAT_REG_X = 1 ∧ s2.rdM R.PWR_DOM_STAT_REG_Y = 1 then (s2.setDom 5 3).safeOn else s2
  .next (match reg with
    | .d2 => lane .a
    | .d3 => lane .b
    | .d4 => lane .c
    | .d5x => core .x
    | .d5y => core .y
    | .d6 => if s.dom 6 = 0 then s else
        let s1 := ({ s with field := { s.field with down := .all none, pulse := none, startDue := none } }).domainFault 6 0
        if s1.fitted then s1.safeOn else s1
    | .d7 => if s.dom 7 = 0 then s else (s.domainFault 7 0).safeOn)

/-- The registers of D0, D1 and D7 that a switch-off of D2 to D7 leaves. -/
def keptRegs : List Nat :=
  [R.SYS_ID, R.SYS_SERIAL, R.PWR_D0, R.PWR_RST, R.PWR_SUPPLY, R.PWR_BUDGET, R.PWR_DOM_STAT, R.BST_RESULT, R.BST_CTRL
   , R.BST_UNUSABLE, R.LOG_CTRL, R.LOG_LOST, R.SEC_STAT, R.SYS_MODE, R.SYS_CAUSE]

/-- D2 to D7 are switched off (R459, R485, R488): the lanes, the star cores, the field interface's module side and D7's
buffers lose what they hold; D0, D1, secure flash and the field-side controllers keep theirs. -/
def State.domainsOff (s : State) : State :=
  let s1 := { s with
    lanes := .all resetLane
    modRegs := s.modRegs.filter fun p => keptRegs.contains p.1
    cyc := resetCycle
    net := resetNet
    time := resetTime
    tele := resetTele
    twin := { resetTwin with leaves := s.twin.leaves }
    field := { resetField with ctrl := s.field.ctrl }
    sec := { s.sec with challenge := 0, judged := [], app := none }
    upd := { resetUpd with active := s.upd.active, inactive := s.upd.inactive }
    log := { s.log with
      outbox := [], open_ := [], matched := [], buffer := [], window := [], deadWin := [], held := [], alarms := []
      alarmQ := [], dropped := false, erasing := false }
    power := { s.power with stamps := [], d5 := (false, false), retry := [], waiting := none, stopping := false } }
  (List.range 8).foldl (fun (s : State) (n : Nat) => if 2 ≤ n then s.setDom n 0 else s) s1

/-! ## Interruptions and power fail (R458, R459, R471, R492) -/

/-- VIN_INTERRUPTION_BEGIN (R456, R458, R471). -/
def execVinInterruptionBegin (vin : Int) (s : State) : Host.Outcome State Fault Refusal :=
  if vinBeyond vin then .fault .absoluteMaximum
  else if vinInBand vin ∨ s.power.supply = .off ∨ s.rdM R.PWR_SUPPLY_HOLD = 1 then .next s
  else
    let s1 := (s.showVin vin).wrM R.PWR_SUPPLY_HOLD 1
    let s2 := s1.runningLanes.foldl (fun (s : State) (l : Lane) => (s.inc l R.PWR_SUPPLY_INT_CNT).raise l 6) s1
    .next s2.withdrawFlash

/-- A power fail (R459, R486): SAFE, a record pending in D0, D2 to D7 off. The next start is a full start. -/
def State.failPower (s : State) : State :=
  ((s.safeOn.pendRecord 0xB002 []).domainsOff).onPower fun p => { p with supply := .powerFail, cause := 2, shutdown := 0 }

/-- The module enters STANDBY from a power fail, or is held there by RST_N (R459, R491). -/
def State.toStandby (s : State) : State :=
  s.onPower fun p => { p with supply := if p.rstLow then .resetHeld else .standby }

/-- VIN_INTERRUPTION_END: within 10 ms the module carries on; after 10 ms a module that ran has had a power fail, and a VIN that returns
leads to STANDBY (R458, R459). In STANDBY the module stays there (log entry 189). -/
def execVinInterruptionEnd (vin : Int) (us : Nat) (s : State) : Host.Outcome State Fault Refusal :=
  if vinBeyond vin then .fault .absoluteMaximum
  else if !vinInBand vin || decide (s.rdM R.PWR_SUPPLY_HOLD = 0) then .next s
  else
    let s1 := (s.showVin vin).wrM R.PWR_SUPPLY_HOLD 0
    if s.power.supply = .powerFail then .next s1.toStandby
    else if s.power.supply ≠ .on then .next s1
    else if us < 10000 then .next (s1.event 0xB001 (bytesBE us 4))
    else .next s1.failPower.toStandby

/-- LOW90_CHANGE: VIN crosses 0.9 times the nominal voltage (R460). A VIN out of the operating band is an interruption. -/
def execLow90Change (vin : Int) (s : State) : Host.Outcome State Fault Refusal :=
  if vinBeyond vin then .fault .absoluteMaximum
  else if s.power.supply = .off ∨ vinInBand vin = false then .next s
  else .next (s.showVin vin)

/-- POWER_FAIL: an interruption has lasted 10 ms, or the store has fallen to its reserve (R459). DEDUCED: in STANDBY, where D2 to D7
are off, an interruption is no power fail (log entry 189). -/
def execPowerFail (s : State) : Host.Outcome State Fault Refusal :=
  if s.rdM R.PWR_SUPPLY_HOLD = 0 ∨ s.power.supply ≠ .on then .next s else .next s.failPower

/-- STORE_EXHAUSTED: after a power fail, or in an interruption in STANDBY, D1 stops and the module is OFF; what D1 and D6 held is lost,
D0 and secure flash keep theirs (R459, R465). -/
def execStoreExhausted (s : State) : Host.Outcome State Fault Refusal :=
  if s.power.supply = .off ∨ s.power.supply = .on ∨ (s.power.supply ≠ .powerFail ∧ s.rdM R.PWR_SUPPLY_HOLD = 0) then .next s
  else
    .next { s with
      modRegs := s.modRegs.filter fun p =>
        [R.SYS_ID, R.SYS_SERIAL, R.PWR_D0, R.BST_RESULT, R.BST_CTRL, R.LOG_CTRL, R.LOG_LOST, R.SEC_STAT].contains p.1
      power := { resetPower with supply := .off }
      twin := resetTwin }

/-- HOLDUP_CHARGED (R457). -/
def execHoldupCharged (charge : Nat) (s : State) : Host.Outcome State Fault Refusal :=
  .next (if s.power.supply = .off then s
    else (s.wrM R.PWR_SUPPLY_CHARGE (min 100 charge)).wrM R.PWR_SUPPLY_HOLDUP_OK (ofBool (decide (95 ≤ charge))))

/-- VIN_APPEAR: from OFF into STANDBY; after an orderly shutdown to STANDBY the new appearance lets the module start
(R473, R478). -/
def execVinAppear (vin : Int) (s : State) : Host.Outcome State Fault Refusal :=
  if vinBeyond vin then .fault .absoluteMaximum
  else if s.power.supply = .off then
    .next ((s.showVin vin).onPower fun p =>
      { p with supply := .standby, cause := if s.d0.orderly then 1 else 2, shutdown := 0 })
  else .next s

/-! ## The reset input (R487 to R491) -/

/-- RST_N_LOW: SAFE, D2 to D7 off, held in STANDBY; during a power fail the power fail comes first (R488, R492). -/
def execRstNLow (s : State) : Host.Outcome State Fault Refusal :=
  if s.power.supply = .off ∨ s.power.rstLow then .next s
  else
    let low := (s.wrM R.PWR_RST_LEVEL 0).onPower fun p =>
      { p with rstLow := true, cause := 4, shutdown := 0, resets := (s.rdM R.PWR_D0_OPMIN) :: p.resets.take 7 }
    let counted := low.incWrapM R.PWR_RST_RST_CNT
    if s.power.supply = .powerFail then .next counted
    else .next (counted.safeOn.domainsOff.onPower fun p => { p with supply := .resetHeld })

/-- RST_N_HELD_LONG: low for more than 10 s (R489). -/
def execRstNHeldLong (s : State) : Host.Outcome State Fault Refusal :=
  .next (if s.power.rstLow then (s.wrAll R.PWR_RST_HELD_LONG 1).onPower fun p => { p with cause := 5 } else s)

/-- The three resets by RST_N before this one fell within 10 min of operating time: their counter values differ by less than 10 (R465,
R490). -/
def State.chattering (s : State) : Bool :=
  match s.power.resets with
  | _ :: a :: _ :: b :: _ => decide (a < b + 10)
  | _ => false

/-- RST_N_RELEASE: after 100 ms high, or 60 s after three resets within 10 min (R490). -/
def execRstNRelease (stableS : Nat) (s : State) : Host.Outcome State Fault Refusal :=
  if !s.power.rstLow || (s.chattering && decide (stableS < 60)) then .next s
  else
    let s1 := (s.wrM R.PWR_RST_LEVEL 1).onPower fun p =>
      { p with rstLow := false, supply := if p.supply = .resetHeld then .standby else p.supply }
    let s2 := s1.event 0xB040 []
    .next (if s.power.cause = 5 then s2.event 0xB041 [] else s2)

/-! ## D0 (R465, R499) -/

/-- ISO_x of a lane: its isolations within the last 60 min of operating time, at most 3 (R270). -/
def State.showIso (s : State) (l : Lane) : State :=
  s.wrM (isoField l) (min 3 ((s.cyc.isoTimes.get l).countP fun t => decide (s.rdM R.PWR_D0_OPMIN < t + 60)))

/-- OPERATING_MINUTE: counted with VIN in band, and while an interruption is ridden through (R465). The isolation counts follow
(R270). -/
def execOperatingMinute (s : State) : Host.Outcome State Fault Refusal :=
  .next (if s.power.supply = .off ∨ s.power.supply = .powerFail then s
    else Lane.list.foldl State.showIso (s.incWrapM R.PWR_D0_OPMIN))

/-- TAMPER_SAMPLE: a lid open or light inside is held pending in D0 (R499). -/
def execTamperSample (lid1 lid2 light : Bool) (s : State) : Host.Outcome State Fault Refusal :=
  .next (if lid1 || lid2 || light then { s with d0 := { s.d0 with tamper := true } } else s)

/-! ## Self-test (R476, R481 to R483, R494) -/

/-- The result of a block: 0 NOT_RUN, 1 PASS, 2 FAIL. -/
def State.blockRes (s : State) (b : Nat) : Nat := bits (s.rdM R.BST_RESULT_RES) (2 * b + 1) (2 * b)

/-- The result of a block set. -/
def State.setBlockRes (s : State) (b v : Nat) : State :=
  let r := s.rdM R.BST_RESULT_RES
  s.wrM R.BST_RESULT_RES (r - (bits r (2 * b + 1) (2 * b) <<< (2 * b)) + ((v % 4) <<< (2 * b)))

/-- Block 15 is not tested on a CB-TX3-N: its result is 0b11, not applicable (R2, R481, R495). -/
def State.notApplicable (s : State) : State := if s.fitted then s else s.setBlockRes 15 3

/-- Every block that applies has a result. -/
def State.allTested (s : State) : Bool := (List.range 17).all fun b => decide (s.blockRes b ≠ 0)

/-- The lane of a block, if it is a lane's. -/
def blockLane (b : Nat) : Option Lane := if b < 4 then some .a else if b < 8 then some .b else if b < 12 then some .c else none

/-- The domain of a block. -/
def blockDom (b : Nat) : Nat :=
  match blockLane b with
  | some l => laneDom l
  | none => if b ≤ 14 then 5 else if b = 15 then 6 else 7

/-- The stamp of a block's test in mW (R481). -/
def blockStamp (b : Nat) : Nat :=
  match b with
  | 12 => 2000
  | 13 => 2000
  | 14 => 800
  | 15 => 500
  | 16 => 800
  | _ => match b % 4 with | 0 => 2500 | 1 => 3000 | 2 => 1500 | _ => 2000

/-- Whether a block is unusable in this start. -/
def State.unusable (s : State) (b : Nat) : Bool := bit (s.rdM R.BST_UNUSABLE_UNUSABLE) b

/-- Whether a lane is usable: none of its blocks is unusable. -/
def State.laneUsable (s : State) (l : Lane) : Bool := (List.range 4).all fun i => !s.unusable (4 * l.bit + i)

/-- The start fails at a step from 6 on: SAFE and event 0xB030 (R475). -/
def State.startFails (s : State) (step : Nat) : State :=
  (s.safeOn.onPower fun p => { p with lampTest := false }).event 0xB030 ([ofBool s.power.full] ++ bytesBE (s.rdM R.SYS_CAUSE_CAUSE) 2 ++ [step])

/-- A block becomes unusable with the consequence of the block table (R476, R481). -/
def State.markUnusable (s : State) (b : Nat) : State :=
  if s.unusable b then s
  else
    let s1 := s.wrM R.BST_UNUSABLE_UNUSABLE (setBit (s.rdM R.BST_UNUSABLE_UNUSABLE) b true)
    match blockLane b with
    | some l =>
      let s2 := (s1.loseLane l).powerOff (laneDom l)
      if 2 ≤ Lane.list.countP fun v => !s2.laneUsable v then s2.startFails s.power.step else s2
    | none =>
      match b with
      | 12 => s1.coreOff .x
      | 13 => s1.coreOff .y
      | 14 => { s1 with twin := { s1.twin with noLink := true } }
      | _ => s1.startFails s.power.step

/-- Self-tests run: in a full start up to step 5, and in an orderly shutdown. -/
def State.testing (s : State) (b : Nat) : Bool :=
  decide (b < 17) && decide (s.dom (blockDom b) = 2) && (decide (b ≠ 15) || s.fitted)
    && ((decide (s.mode = mStarting) && s.power.full && decide (s.power.step ≤ 5)) || s.power.stopping)

/-- The supply condition of R482. -/
def State.testSupply (s : State) : Bool :=
  decide (s.rdM R.PWR_SUPPLY_INBAND = 1) && decide (s.rdM R.PWR_SUPPLY_HOLD = 0) && decide (s.rdM R.PWR_SUPPLY_HOLDUP_OK = 1)

/-- A result is final. With the last one the results are complete. -/
def State.blockDone (s : State) (b v : Nat) : State :=
  let s1 := (s.setBlockRes b v).onPower fun p => { p with retry := p.retry.filter (· != b), waiting := if p.waiting = some b then none else p.waiting }
  if s1.allTested ∧ !s1.power.stopping then (s1.wrM R.BST_RESULT_SOURCE 2).wrM R.BST_RESULT_VALID 1 else s1

/-- SELF_TEST_BLOCK: the signature is compared with the reference; a failure is repeated once (R481, R483). -/
def execSelfTestBlock (block : Nat) (signature : Word) (marchOk : Bool) (s : State) : Host.Outcome State Fault Refusal :=
  if !s.testing block || !s.testSupply || decide (s.headroom < blockStamp block) then .next s
  else
    let s1 := { s with d0 := { s.d0 with sigs := mapInsert s.d0.sigs block signature } }
    if signature = Config.bistReference block ∧ marchOk then .next (s1.blockDone block 1)
    else if s.power.retry.contains block then
      let s2 := (s1.blockDone block 2).event 0xB031 ([block] ++ bytesBE signature.toNat 8)
      .next (if s.power.stopping then s2 else s2.markUnusable block)
    else .next (s1.onPower fun p => { p with retry := p.retry ++ [block] })

/-- SELF_TEST_ABORT: a condition fails, before a test or during it (R482, R486). -/
def execSelfTestAbort (block conds : Nat) (s : State) : Host.Outcome State Fault Refusal :=
  .next (if s.testing block then
    (((s.setBlockRes block 0).wrM R.BST_RESULT_VALID 0).event 0xB032 [block, conds % 8]).onPower fun p =>
      { p with waiting := some block, shutdown := p.shutdown }
    else s)

/-- SELF_TEST_RESUME: a waiting test starts once the conditions hold; while it waits 0xB032 is recorded again every 60 s, with
failed conditions that the command does not give (R482). -/
def execSelfTestResume (waiting : Bool) (s : State) : Host.Outcome State Fault Refusal :=
  match s.power.waiting with
  | none => .next s
  | some b =>
    if waiting then .next (s.event 0xB032 [b, s.freshNat % 8]).drawn
    else if s.testSupply then .next (s.onPower fun p => { p with waiting := none })
    else .next s

/-! ## The fill (R280, R281) -/

/-- FILL_COMPLETE: every word of the lane holds the zero codeword; a write that the bus code refuses, and the retry with it, make the
lane unusable (R279 to R281); the memory and address of the record are not given. The lane shows FILL_ERR, though its domain is off
and nobody reads it (log entry 168). -/
def execFillComplete (l : Lane) (ok : Bool) (sramUs dramMs : Nat) (s : State) : Host.Outcome State Fault Refusal :=
  let tested := !s.power.full || (List.range 4).all fun i => decide (s.blockRes (4 * l.bit + i) = 1)
  if s.mode ≠ mStarting ∨ s.dom (laneDom l) ≠ 2 ∨ (s.lane l).running ∨ s.rd l R.MEM_FILL_DRAM_DONE = 1 ∨ tested = false then .next s
  else if ok then
    .next (((((s.onLane l fun x => { x with mem := [], chk := [] }).wr l R.MEM_FILL_SRAM_DONE 1).wr l R.MEM_FILL_DRAM_DONE 1).wr l
      R.MEM_FILL_SRAM_US sramUs).wr l R.MEM_FILL_DRAM_MS dramMs)
  else
    let a := s.freshWord.toNat
    let met (s : State) : State := s.event 0x5005 (eccData 2 4 5 0xFF 0xFF a)
    let s1 := ((met (met s.drawn)).event 0x5030 ([s.freshNat % 2] ++ bytesBE a 8)).markUnusable (4 * l.bit + 3)
    .next (((s1.wr l R.MEM_ECC_STAT_BUS_DET 2).eccAddr l 2 4 5 0 0 a).wr l R.MEM_FILL_FILL_ERR 1)

/-! ## Voted writes of PWR_DOM_CTRL (R462, R484) -/

/-- DOMAIN_OFF_REQUEST: a voted write of PWR_DOM_CTRL. -/
def execDomainOffRequest (l : Lane) (c : CoreId) (v : Word) (s : State) : Host.Outcome State Fault Refusal :=
  .next (s.regWriteBy l c R.PWR_DOM_CTRL v fun s => s.votedWrite l R.PWR_DOM_CTRL v)

/-- SHUTDOWN_RESTART: SHUTDOWN = 0b01, the other fields as they stand. -/
def execShutdownRestart (l : Lane) (c : CoreId) (s : State) : Host.Outcome State Fault Refusal :=
  .next (s.regAccess l c R.PWR_DOM_CTRL true fun s =>
    s.votedWrite l R.PWR_DOM_CTRL (R.PWR_DOM_CTRL_SHUTDOWN.put (s.modReg R.PWR_DOM_CTRL) 1))

/-- SHUTDOWN_STANDBY: SHUTDOWN = 0b10. -/
def execShutdownStandby (l : Lane) (c : CoreId) (s : State) : Host.Outcome State Fault Refusal :=
  .next (s.regAccess l c R.PWR_DOM_CTRL true fun s =>
    s.votedWrite l R.PWR_DOM_CTRL (R.PWR_DOM_CTRL_SHUTDOWN.put (s.modReg R.PWR_DOM_CTRL) 2))

/-- The write close applies a voted PWR_DOM_CTRL: an orderly shutdown is requested, and the domain of a lane that is OUT is
switched off; anything else is not applied (R462, R484). -/
def State.applyDomCtrl (s : State) (v : Word) : State :=
  let sh := R.PWR_DOM_CTRL_SHUTDOWN.of v
  let on := R.PWR_DOM_CTRL_ON.of v
  let old := s.rdM R.PWR_DOM_CTRL_ON
  let lane := Lane.list.find? fun l => decide (s.st l = 0) && decide (on = setBit old l.bit false) && bit old l.bit
  let s1 :=
    if on = old then s
    else match lane with
      | some l => if s.mode = mRunning ∨ s.mode = mDegraded ∨ s.mode = mCommissioning then
          ((s.wrM R.PWR_DOM_CTRL_ON on).loseLane l).setDom (laneDom l) 0 else s.incM R.PWR_VW_REFUSE_CNT
      | none => s.incM R.PWR_VW_REFUSE_CNT
  if sh = 0 ∨ sh = 3 then s1
  else if s1.safe ∨ s1.mode = mHalted ∨ s1.cyc.kind = RsKind.conversion then s1.event 0xB034 []
  else s1.onPower fun p => { p with shutdown := sh }

/-- The write close applies a voted PWR_BUDGET: a value outside its range is not applied and recorded (R472). NOM has a
range of its own (R494). -/
def State.applyBudget (s : State) (v : Word) : State :=
  let m := R.PWR_BUDGET_MOD_LIMIT.of v
  let f := R.PWR_BUDGET_FIELD_LIMIT.of v
  let n := R.PWR_BUDGET_NOM.of v
  let s1 := if n ≤ 5 then s.wrM R.PWR_BUDGET_NOM n else s
  let s3 := if 50000 ≤ m ∧ m ≤ 61600 ∧ 25000 ≤ f then (s1.wrM R.PWR_BUDGET_MOD_LIMIT m).wrM R.PWR_BUDGET_FIELD_LIMIT f
    else s1.event 0xB021 []
  s3.wrM R.PWR_SUPPLY_LOW90 (ofBool (decide (s3.rdM R.PWR_SUPPLY_VIN < 9 * nominal (s3.rdM R.PWR_BUDGET_NOM))))

/-! ## Orderly shutdown (R485, R486) -/

/-- SRAM candidates of a lane are burnt into the fuse map of their bank, while it has a free entry (R294). It is part of the test of
the lane's SRAM block under its BIST stamp (R481): the domain is on, the test has a result, and the stamp fits (R468). Records of this time
are kept in D0. -/
def State.burnFuses (results : Nat) (s : State) (l : Lane) : State :=
  let block := 4 * l.bit + 2
  if s.dom (laneDom l) ≠ 2 ∨ bits results (2 * block + 1) (2 * block) = 0 ∨ s.headroom < 1500 then s
  else (s.d0.cand.get l).foldl
    (fun (s : State) (c : Nat × Nat × Nat) =>
      if c.1 ≠ 0 then s
      else
        let bank := c.2.2 / 1024
        let row := c.2.2 % 1024
        let data := [c.1, c.2.1] ++ bytesBE c.2.2 4
        if 16 ≤ (s.d0.fuses.get l).countP fun f => f.1 == bank then s.pendRecord 0x5022 data
        else ({ s with d0 := { s.d0 with
          fuses := s.d0.fuses.set l ((s.d0.fuses.get l) ++ [(bank, row)])
          cand := s.d0.cand.set l ((s.d0.cand.get l).erase c) } }).pendRecord 0x5021 data) s

/-- Everything that D7 still buffers is written, and the store closed (R485, step 2). -/
def State.closeStore (s : State) : State :=
  let subs := s.log.outbox
  let s1 := subs.foldl State.submit (s.onLog fun x => { x with outbox := [] })
  let rs := s1.log.buffer
  (rs.foldl State.limitRec (s1.onLog fun x => { x with buffer := [] })).onLog fun x => { x with closed := true }

/-- ORDERLY_SHUTDOWN: after the boundary that began it, the store is closed, the tests run with the results given (two bits a
block, as in BST_RESULT.RES), fuses are burnt, the domains go off and the module enters STANDBY (R485). Results that are
not complete leave VALID 0 (R486). With a restart the firmware slots exchange roles when the inactive one holds an image to change over
to (R516). -/
def execOrderlyShutdown (results : Nat) (s : State) : Host.Outcome State Fault Refusal :=
  if !s.power.stopping || s.safe then .next s
  else
    let s1 := Lane.list.foldl (State.burnFuses results) s.closeStore
    let s2 := ((s1.wrM R.BST_RESULT_RES (results % 2 ^ 34)).notApplicable).wrM R.BST_RESULT_SOURCE 1
    let s3 := s2.wrM R.BST_RESULT_VALID (ofBool s2.allTested)
    let s4 := ({ s3 with d0 := { s3.d0 with orderly := true } }.pendRecord 0xB033 []).domainsOff.onPower fun p => { p with supply := .standby, cause := if p.shutdown = 1 then 3 else 1 }
    .next (if s.power.shutdown = 1 ∧ s.sec.fwDue then
        { s4 with sec := { s4.sec with firmware := s.sec.firmwareIna, firmwareIna := s.sec.firmware, fwDue := false } }
      else s4)

/-! ## Front lamps (R599, R600) -/

/-- What a lamp shows; a flashing lamp is lit for 500 ms in each 1 s (R599). -/
inductive Light where
  | dark | steady | flashing
deriving DecidableEq, Repr

/-- The seven lamps: RUN, LEAD, NET X and NET Y green, DEGRADED and FORCED amber, SAFE red (R599). -/
structure Lamps where
  run : Light
  lead : Light
  degraded : Light
  forced : Light
  safe : Light
  netX : Light
  netY : Light
deriving DecidableEq, Repr

/-- A lamp that is lit steadily or not at all. -/
def steadyIf (b : Bool) : Light := if b then .steady else .dark

/-- The RUN lamp (R599). -/
def State.runLamp (s : State) : Light :=
  if s.mode = mRunning ∨ s.mode = mDegraded then .steady
  else if s.mode = mStarting ∨ s.mode = mIntegrating ∨ s.mode = mCommissioning then .flashing
  else .dark

/-- The lamps as the power manager drives them (R599, R600): dark in OFF, all lit in the lamp test, and SAFE with the latch. Under
SAFE, and while only D0 and D1 have power, none but SAFE and the NET lamps is lit (log entry 188). -/
def State.lamps (s : State) : Lamps :=
  let on := decide (s.power.supply = .on)
  let up := on && !s.safe
  if s.power.supply = .off then ⟨.dark, .dark, .dark, .dark, .dark, .dark, .dark⟩
  else if on && s.power.lampTest then ⟨.steady, .steady, .steady, .steady, .steady, .steady, .steady⟩
  else
    { run := if up then s.runLamp else .dark
      lead := steadyIf (up && decide (s.rdM R.TWN_ROLE_ROLE = 1))
      degraded := steadyIf (up && decide (s.votes = 2))
      forced := steadyIf (up && (decide (s.rdM R.TSK_STAT_FORCED = 1) || decide (s.mode = mHalted)))
      safe := steadyIf s.safe
      netX := steadyIf (on && decide (s.rdM R.DNR_STAT_INT_X = 1))
      netY := steadyIf (on && decide (s.rdM R.DNR_STAT_INT_Y = 1)) }

end Sys2Proof.Machine
end

