-- ==== Sys2Proof/Machine/Vote.lean ====
section
/-! DEFINITION. Machine/Vote.lean: close markers, the vote of the seals, canaries and outcome records (R191, R212,
R235 to R245, R256, R260). -/
namespace Sys2Proof.Machine

/-- A lane's outcome for a task: a value V, a failure with its CLASS, or late (R235, R236). -/
inductive SealOutcome where
  | value (v : Word)
  | failed (cls : Nat)
  | late
deriving DecidableEq, Repr

/-- The outcome that a lane's counted record gives. -/
def LaneTask.outcome (t : LaneTask) : SealOutcome :=
  match t.counted, t.sent with
  | true, some (0, v, _) => .value v
  | true, some (c, _, _) => .failed c
  | _, _ => .late

/-- What the vote of one task gives: CMP_VOTE.OUTCOME, the voted V, and the odd lanes. -/
structure Decision where
  code : Nat
  v : Option Word
  odd : List Lane
deriving DecidableEq, Repr

/-- CMP_VOTE.OUTCOME codes (R270). -/
def voUnanimous : Nat := 1
def voMajority : Nat := 2
def voAgreement : Nat := 3
def voNone : Nat := 4
def voFailure : Nat := 5

/-- The values among outcomes. -/
def valuesOf (os : List (Lane × SealOutcome)) : List (Lane × Word) :=
  os.filterMap fun o => match o.2 with | .value v => some (o.1, v) | _ => none

/-- The lanes that failed. -/
def failedOf (os : List (Lane × SealOutcome)) : List Lane :=
  os.filterMap fun o => match o.2 with | .failed _ => some o.1 | _ => none

/-- The vote of three lanes (R243). -/
def voteThree (os : List (Lane × SealOutcome)) : Decision :=
  let vs := valuesOf os
  let fs := failedOf os
  match vs with
  | [(_, v1), (_, v2), (_, v3)] =>
    if v1 = v2 ∧ v2 = v3 then ⟨voUnanimous, some v1, []⟩
    else if v1 = v2 ∨ v1 = v3 then ⟨voMajority, some v1, (vs.filter fun p => p.2 != v1).map (·.1)⟩
    else if v2 = v3 then ⟨voMajority, some v2, (vs.filter fun p => p.2 != v2).map (·.1)⟩
    else ⟨voFailure, none, []⟩
  | [(l1, v1), (l2, v2)] =>
    if v1 = v2 then ⟨voMajority, some v1, (os.map (·.1)).filter fun l => l != l1 && l != l2⟩ else ⟨voFailure, none, []⟩
  | _ => if 2 ≤ fs.length then ⟨voFailure, none, []⟩ else ⟨voNone, none, fs⟩

/-- The vote of two lanes (R244). -/
def voteTwo (os : List (Lane × SealOutcome)) : Decision :=
  match valuesOf os with
  | [(_, v1), (_, v2)] => if v1 = v2 then ⟨voAgreement, some v1, []⟩ else ⟨voFailure, none, []⟩
  | _ => if (failedOf os).isEmpty then ⟨voNone, none, []⟩ else ⟨voFailure, none, []⟩

/-- The vote of a task by the number of voting lanes. -/
def decideTask (os : List (Lane × SealOutcome)) : Decision :=
  match os.length with
  | 3 => voteThree os
  | 2 => voteTwo os
  | _ => ⟨voFailure, none, []⟩

/-- The source by which a lane with an outcome is named (R246). -/
def SealOutcome.source : SealOutcome → Nat
  | .value _ => srcSeal
  | .failed 1 => srcPq
  | .failed _ => srcPass
  | .late => srcLate

/-- SEAL_DEADLINE: a lane that has not sent its close marker with its last record sends it now (R191). -/
def execSealDeadline (l : Lane) (s : State) : Host.Outcome State Fault Refusal :=
  .next (if s.cyc.active && (s.lane l).running && !(s.lane l).closed then s.onLane l LaneState.close else s)

/-- An armed injection of point 0x4, one bit of SEAL before CHK is formed, in a lane's record (R261). -/
def State.injectSeal (s : State) (l : Lane) (t : Nat) : State :=
  let x := s.takeInject l 4
  match x.1 with
  | some (b, _) =>
    let flip (w : Word) : Word := w ^^^ BitVec.ofNat 64 (1 <<< b)
    x.2.onLane l fun y =>
      let z := y.onTask t fun k => { k with sent := k.sent.map fun r => (r.1, flip r.2.1, r.2.2) }
      { z with records := z.records.map fun r => if r.type = 1 ∧ r.task = t then { r with w1 := flip r.w1 } else r }
  | none => x.2

/-- The lanes whose outcome names them (R246): odd lanes, and every lane with an outcome F. A failure by different
values names nobody (R243). -/
def namedBy (os : List (Lane × SealOutcome)) (d : Decision) : List (Lane × Nat) :=
  os.filterMap fun o =>
    match o.2 with
    | .failed c => some (o.1, (SealOutcome.failed c).source)
    | x => if d.odd.contains o.1 then some (o.1, x.source) else none

/-- The lanes' seals for a task disagree: two of them sent different values. -/
def sealsDiffer (os : List (Lane × SealOutcome)) : Bool :=
  match valuesOf os with
  | [] => false
  | p :: ps => ps.any fun q => q.2 != p.2

/-- CMP_VOTE shows the vote of a task, with kt in place of k in a test round set (R186, R270), and a disagreement of seals the
task in CMP_MISMATCH (R234, R270). -/
def State.showVote (s : State) (t : Nat) (os : List (Lane × SealOutcome)) (d : Decision) : State :=
  let agree := os.filter fun o => match d.v, o.2 with | some v, .value w => v == w | _, _ => false
  let s1 := (((((s.wrM R.CMP_VOTE_RS s.rs).wrM R.CMP_VOTE_OUTCOME d.code).wrM R.CMP_VOTE_TASK t).wrM R.CMP_VOTE_ODD
    (maskOf d.odd)).wrM R.CMP_VOTE_AGREE (maskOf (agree.map (·.1))))
  if sealsDiffer os then
    Lane.list.foldl (fun s l => s.wr l R.CMP_MISMATCH_TASK t) { s1 with cyc := { s1.cyc with sealOff := setBit s1.cyc.sealOff t true } }
  else s1

/-- One task is voted among the lanes of the vote set (R243, R244). -/
def State.voteTask (s0 : State) (vs : List Lane) (t : Nat) (ovr : Bool) : State :=
  let s := if ovr then s0 else vs.foldl (fun s l => s.injectSeal l t) s0
  let os := vs.map fun l => (l, if ovr then { (s.lane l).task t with counted := true }.outcome else ((s.lane l).task t).outcome)
  let d := decideTask os
  let s1 := s.showVote t os d
  let s2 := match d.v with
    | some v =>
      if ovr then s1
      else { s1 with cyc := { s1.cyc with
        voted := setBit s1.cyc.voted t true
        vseal := Vector.ofFn fun i => if i.val = t then v else s1.cyc.vseal[i] } }
    | none => s1
  -- SAFE goes before an isolation that arises with it (R12, R259)
  let s4 := if d.code = voFailure then (namedBy os d).foldl (fun s n => s.noteName n.1 n.2) s2
    else (namedBy os d).foldl (fun s n => s.nameLane n.1 n.2 t) s2
  let s5 := if d.code = voFailure then s4.latchSafe else s4
  let s6 := if d.code = voNone ∧ !ovr then s5.overrunTask t 0x3001 else s5
  -- a late lane's passes run on: their seals are voted when they end (R214)
  if ovr then Lane.list.foldl (fun s l => s.onLane l fun x => x.onTask t fun k => { k with ovr := false }) s6
  else if d.code = voNone then
    Lane.list.foldl (fun s l => s.onLane l fun x => x.onTask t fun k => { k with ovr := true }) s6
  else s6

/-- The lane in PROBATION, if there is one. -/
def State.probation (s : State) : Option Lane := Lane.list.find? fun l => decide (s.st l = 2)

/-- Whether the record of a lane in PROBATION for a due task makes the round set unclean (R256). -/
def State.probationOff (s : State) (o : Lane) (t : Nat) : Bool :=
  match ((s.lane o).task t).outcome with
  | .failed _ => true
  | .value v => bit s.cyc.voted t && (if h : t < 16 then s.cyc.vseal[t] != v else false)
  | .late => bit s.cyc.voted t

/-- The records of a lane in PROBATION are compared with the voted V (R256). -/
def State.probationVote (s : State) : State :=
  match s.probation with
  | none => s
  | some o =>
    if s.dueTasks.any (s.probationOff o) && decide (s.cyc.probBad = 0) then { s with cyc := { s.cyc with probBad := 1 } } else s

/-- The overrun cycles whose seals are all there: every lane of the vote set has sent its record (R214). -/
def State.overReady (s : State) : List Nat :=
  (List.range 16).filter fun t =>
    !s.voters.isEmpty && s.voters.all fun l => ((s.lane l).task t).ovr && ((s.lane l).task t).sent.isSome

/-- The records of the built-in test task that its passes gave in a test round set are voted; a name is kept only, and nothing
overruns (R186, R261). The task's number is not given: any task whose passes ended in this round set is it. -/
def State.voteTest (s : State) : State :=
  let vs := s.voters
  let ts := (List.range 16).filter fun t => vs.any fun l => ((s.lane l).task t).sent.isSome
  ts.foldl (fun (s0 : State) (t : Nat) =>
    let s := vs.foldl (fun s l => s.injectSeal l t) s0
    let os := vs.map fun l => (l, ((s.lane l).task t).outcome)
    let d := decideTask os
    (namedBy os d).foldl (fun s n => s.nameLane n.1 n.2 t) (s.showVote t os d)) s

/-- The injections of a test round set that no pass of the built-in test task has taken (R261, points 0x1 to 0x4): every lane
computes the same seal, so a bit inverted in one lane names that lane; a damaged record is retransmitted. -/
def State.testVote (s : State) : State :=
  Lane.list.foldl
    (fun s l =>
      match (s.lane l).inject with
      | some (p, _, _) =>
        let s1 := (s.takeInject l p).2
        if p = 1 ∨ p = 2 then s1.nameLane l srcPq noTaskNo
        else if p = 4 then s1.nameLane l srcSeal noTaskNo
        else if p = 3 then
          let o := l.others
          Lane.list.foldl (fun s v => s.wr v R.CMP_INJECT_CAUGHT 1) ((s1.inc o.1 R.XLE_STAT_CRCERR).inc o.2 R.XLE_STAT_CRCERR)
        else s
      | none => s) s

/-- The canary test: a lane whose comparator gives a wrong result is named (R260). `bad` is the mask of such lanes; an
armed injection of point 0x8 adds its lane. The lane's outcome record shows the failure. -/
def State.canary (s : State) (bad : Nat) : State :=
  Lane.list.foldl
    (fun s l =>
      let x := s.takeInject l 8
      if (s.lane l).running && (bit bad l.bit || x.1.isSome) then
        { x.2 with cyc := { x.2.cyc with canary := x.2.cyc.canary ||| l.mask } }.nameLane l srcCanary noTaskNo
      else x.2) s

/-- VOTE: each due task is decided from the lanes' outcomes once every close marker has arrived (R191, R243, R244);
overrun cycles that have ended are voted under the same tables (R214); the canaries follow (R260). -/
def execVote (canaryBad : Nat) (s : State) : Host.Outcome State Fault Refusal :=
  let s0 := if s.cyc.active then s.overReady.foldl (fun s t => s.voteTask s.voters t true) s else s
  let allClosed := s.voters.all fun l => (s.lane l).closed
  let ready := decide (s.cyc.kind = .halted) || decide (s.cyc.kind = .conversion) || (s.did phPost && allClosed)
  .next (if decide (s.cyc.kind = RsKind.test) then s.once [] phVote fun s =>
      s.voteTest.testVote.canary canaryBad
    else if ready then s0.once [] phVote fun s =>
      let vs := s.voters
      let s1 := s.dueTasks.foldl (fun s t => s.voteTask vs t false) s
      s1.probationVote.canary canaryBad
    else s0)

/-- A probation round set found unclean isolates the lane again (R256); the record names the task when its seals are the cause. -/
def State.judgeUnclean (s : State) : State :=
  match s.probation with
  | some o =>
    if s.cyc.probBad = 0 then s
    else
      let t := if s.cyc.probBad = 1 then (s.dueTasks.find? (s.probationOff o)).getD noTaskNo else noTaskNo
      (s.event 0x4004 [o.code, s.cyc.probBad]).isolate o t
  | none => s

/-- The bits of W1 of an outcome record (R239): view, odd lanes, SAFE decision, canary failure. -/
def State.outcomeBits (s : State) (l : Lane) : Nat :=
  s.rd l R.CMP_VOTE_VIEW + s.rdM R.CMP_VOTE_ODD * 16 + ofBool s.safe * 256 + ofBool (bit s.cyc.canary l.bit) * 512

/-- The bits of W1 in which outcome records are compared: view, odd lanes and SAFE decision (R245). -/
def outcomeMask : Nat := 0x177

/-- An outcome or a config record as a lane sends it (R239). -/
def State.sendRecord (s : State) (l : Lane) (type : Nat) (w1 w2 : Word) : State :=
  s.onLane l fun x =>
    { x with records := x.records ++
        [{ rs := s.rs, type := type, task := 0, prob := decide (s.st l = 2), ovr := false, cls := 0, pstat := 0, qstat := 0
           w1 := w1, w2 := w2 }] }

/-- What the outcome records of the vote set show (R245, R248): the lanes that request SAFE, and the lanes whose record is missing
or differs from every other one. -/
def outcomeOdd (vs : List Lane) (rec' : Lane → Option Nat) : List Lane :=
  let seen (l : Lane) : Option Nat := (rec' l).map fun r => r &&& outcomeMask
  vs.filter fun l => (seen l).isNone || (vs.filter fun v => v != l).all fun v => seen v != seen l

/-- The reaction to the outcome records (R245, R246, R248): two requests for SAFE, or one among two lanes, latch it, and so does a
difference between two lanes; a lane that alone requests SAFE among three is named for that too. -/
def State.judgeOutcomes (s : State) (vs asks odd : List Lane) : State :=
  if asks ≠ [] ∧ (2 ≤ asks.length ∨ vs.length < 3) then (odd.foldl (fun s l => s.noteName l srcOutcome) s).latchSafe
  else
    let s1 := asks.foldl (fun s l => s.setMismatch l srcSafeReq) s
    if vs.length = 3 ∨ s.cyc.kind = RsKind.test then s1.nameLanes odd srcOutcome noTaskNo
    else if odd.isEmpty then s1 else s1.latchSafe

/-- OUTCOME_RECORD: the lanes exchange their outcome records. `lost` is the mask of lanes whose record is missing;
`damage` the bits of W1 that differ in a lane's record from what it should carry. A lane whose record is missing or
differs from those of the other two is named; with two lanes a difference latches SAFE (R245). In a test round set of two lanes
the injecting lane is the one named (R261). -/
def execOutcomeRecord (lost : Nat) (damage : PerLane Nat) (s : State) : Host.Outcome State Fault Refusal :=
  .next (s.once [phVote] phOutcome fun s =>
    let inj : List (Lane × Nat) × State := Lane.list.foldl
      (fun (a : List (Lane × Nat) × State) (l : Lane) =>
        let x := a.2.takeInject l 5
        match x.1 with
        | some (b, _) => (a.1 ++ [(l, 1 <<< (b % 3))], x.2)
        | none => (a.1, x.2)) ([], s)
    let flip (l : Lane) : Nat :=
      (damage.get l &&& (outcomeMask ||| 0x200)) ^^^ ((inj.1.find? fun p => p.1 == l).map (·.2)).getD 0
    let rec' (l : Lane) : Option Nat := if bit lost l.bit then none else some (inj.2.outcomeBits l ^^^ flip l)
    let vs := inj.2.voters
    let senders := vs ++ (inj.2.probation.toList)
    let s1 := senders.foldl (fun s l => match rec' l with | some r => s.sendRecord l 2 (BitVec.ofNat 64 r) 0 | none => s) inj.2
    let asks := vs.filter fun l => match rec' l with | some r => bit r 8 && !s1.safe | none => false
    let odd := outcomeOdd vs rec'
    let s2 := s1.judgeOutcomes vs asks (if s1.cyc.kind = RsKind.test ∧ vs.length < 3 then inj.1.map (·.1) else odd)
    match s2.probation with
    | some o =>
      let ref := vs.head?.bind rec'
      State.judgeUnclean (if (rec' o).map (fun r => bits r 8 4) ≠ ref.map (fun r => bits r 8 4) ∧ s2.cyc.probBad = 0 then
        { s2 with cyc := { s2.cyc with probBad := 2 } }
      else s2)
    | none => s2)

end Sys2Proof.Machine
end

