-- ==== Sys2Proof/Machine/Change.lean ====
section
/-! DEFINITION. Machine/Change.lean: writing the state image, conversion, the update guards and the change-over of station
data (R109, R207, R222 to R227, R501, R506 to R518). -/
namespace Sys2Proof.Machine

/-! ## State words (R107, R109, R207) -/

/-- The dynamic signature of round set k (R107). -/
def dsigOf (k : Nat) : Nat := k * 0x0B5F3A71 % 2 ^ 29

/-- A lane writes a state word in both forms: the plain value, and the coded word with its own A, the word's B and a D. -/
def State.postWord (s : State) (l : Lane) (t : TaskImage) (a d : Nat) (r : Ref) (n : Nat) : State :=
  let addr := t.stateBase + refOffset r
  (s.writeWord l none mCore0 (some 2) addr (BitVec.ofNat 64 (n % 2 ^ 32))).writeWord l none mCore0 (some 2) (addr + 8)
    (encodeWord a (n % 2 ^ 32) (sigB t r) d)

/-- The coded state of a task is written with one D, which becomes its D_prev (R109). -/
def State.writeTask (s : State) (l : Lane) (t : TaskImage) (a d : Nat) (ws : List (Ref × Nat)) : State :=
  let s1 := ws.foldl (fun (s : State) (w : Ref × Nat) => s.postWord l t a d w.1 w.2) s
  (s1.wr l (R.RTE_DPREV_DPREV t.task) d).wr l (R.RTE_DPREV_VALID t.task) 1

/-- The footprint words of a task's state copy (R254). -/
def copyWords (t : TaskImage) : List Ref := t.footprint.flatMap footWords

/-- The initial plain values of a task, from the image. -/
def initialWords (t : TaskImage) : List (Ref × Nat) := t.words.map fun w => (w.1, w.2.1)

/-- The logic of an image stands in a lane's DRAM (R506). -/
def State.loadLogic (s : State) (l : Lane) (b : StationBody) : State :=
  b.tasks.foldl (fun (s : State) (t : TaskImage) =>
    (t.logic.zipIdx).foldl (fun (s : State) (w : Word × Nat) => 
      let a := t.logicBase + 8 * w.2
      (s.onLane l fun x => x.putWord a w.1).breakResv l none a) s) s

/-- Poison in an image slot is cleared: each 4 KB page that holds a damaged word is written again from the image (R297). -/
def State.mendPages (s : State) (l : Lane) (b : StationBody) : State :=
  let ws := b.tasks.flatMap fun t => (t.logic.zipIdx).map fun w => (t.logicBase + 8 * w.2, w.1)
  let bad := ws.filterMap fun w => if ((s.lane l).good w.1).isNone then some (w.1 / 4096) else none
  (ws.filter fun w => bad.contains (w.1 / 4096)).foldl
    (fun (s : State) (w : Nat × Word) => (s.onLane l fun x => x.putWord w.1 w.2).breakResv l none w.1) s

/-- The pages of both slots of a lane, the inactive one where its load is complete (R297). -/
def State.mendSlots (s : State) (l : Lane) : State :=
  let mend (s : State) (i : Option Image) : State := match i.bind fun x => x.station with | some b => s.mendPages l b | none => s
  let s1 := mend s s.upd.active
  if bit s1.upd.valid l.bit then mend s1 s1.upd.inactive else s1

/-! ## Guards (R508) -/

/-- The footprint words of a task that are word w of an element, or of a route. -/
def wordsAt (t : TaskImage) (route : Bool) (w : Nat) : List Ref :=
  (t.footprint.filter fun f => f.route == route).map fun f => mkRef (ofBool route) f.id w

/-- The words that the guards read: locks, routes and approach sections. -/
def State.guardReads (s : State) : List (Nat × Ref) :=
  match s.station with
  | some b =>
    (b.tasks.flatMap fun t => (wordsAt t false 4 ++ wordsAt t true 0).map fun r => (t.task, r)) ++ b.approach
  | none => []

/-- An element lock is not FREE, or a route is LOCKED, OPEN, IN_USE or CANCELLING: (lock, route). -/
def State.routesBusy (s : State) : Bool × Bool :=
  let ts := match s.station with | some b => b.tasks | none => []
  (ts.any fun t => (wordsAt t false 4).any fun r => s.committedWord t.task r != stateCode 1
   , ts.any fun t => (wordsAt t true 0).any fun r => isCode (s.committedWord t.task r) [5, 6, 7, 8])

/-- A section marked as approach does not read CLEAR. -/
def State.approachBusy (s : State) : Bool :=
  match s.station with
  | some b => b.approach.any fun p => s.committedWord p.1 p.2 != stateCode 1
  | none => false

/-- An enabled task whose last due round set did not end in a fresh dispatch, or that has not had one yet (R223, R508). -/
def State.dispatchNotFresh (s : State) : Bool :=
  (List.range 16).any fun t => decide (s.rd s.mainLane (R.TSK_CFG_EN t) = 1) && !bit s.cyc.fresh t

/-- The eight bits of UPD_GUARD (R508). -/
def State.guards (s : State) : Nat :=
  let rt := s.routesBusy
  let tw := s.rdM R.TWN_ROLE_STATE
  ofBool (rt.1 || rt.2) + 2 * ofBool s.approachBusy + 4 * s.rdM R.PWR_SUPPLY_LOW90
    + 8 * ofBool (decide (s.rdM R.PWR_SUPPLY_HOLDUP_OK = 0)) + 16 * s.rdM R.SEC_STAT_OWNER_LOCK
    + 32 * ofBool s.dispatchNotFresh + 64 * ofBool ([1, 2, 3, 4, 6].contains tw)
    + 128 * ofBool (s.safe || decide (s.mode = mHalted) || decide (s.mode = mStarting) || Lane.list.any fun l => s.st l = 1 || s.st l = 2)

/-! ## Conversion (R222 to R227) -/

/-- The failed conditions of R223 and R259, as 0x3031 carries them. -/
def State.convFailed (s : State) : Nat :=
  let rt := s.routesBusy
  ofBool rt.1 + 2 * ofBool rt.2 + 4 * ofBool s.approachBusy + 8 * ofBool s.dispatchNotFresh
    + 16 * ofBool (Lane.list.any fun l => s.st l ≠ 3)

/-- The old task whose footprint holds a word: the task of the same number, since each task has its own state image (R206), else
another one. -/
def ownerOf (b : StationBody) (task : Nat) (r : Ref) : Option TaskImage :=
  (b.tasks.find? fun t => t.task == task && inFoot t r).orElse fun _ => b.tasks.find? fun t => inFoot t r

/-- The old value of a word, whatever its record's KIND. -/
def State.oldValue (s : State) (old : StationBody) (nt : TaskImage) (r : Ref) : Option Nat :=
  (ownerOf old nt.task r).map fun t => s.committedWord t.task r

/-- The old value of a word, when its record is in both images with the same KIND (R224). -/
def State.oldWord (s : State) (old : StationBody) (nt : TaskImage) (r : Ref) : Option Nat :=
  match ownerOf old nt.task r with
  | none => none
  | some t =>
    let sameKind := decide (refSpace r = 1) || decide (elementKind t (refId r) = elementKind nt (refId r))
    if sameKind then some (s.committedWord t.task r) else none

/-- The timer of an image that a TSTATE or TREM word belongs to. -/
def timerOf (ts : List TimerSpec) (r : Ref) : Option (TimerSpec × Bool) :=
  match ts.find? fun x => x.tstate == r with
  | some x => some (x, true)
  | none => (ts.find? fun x => refAt x.tstate (refWord x.tstate + 1) == r).map fun x => (x, false)

/-- A word of a timer after conversion (R225). -/
def State.convTimer (s : State) (old : StationBody) (nt : TaskImage) (x : TimerSpec) (isState : Bool) : Nat :=
  let oldTimers := match ownerOf old nt.task x.tstate with | some t => t.timers | none => []
  let was (r : Ref) : Option Nat := s.oldWord old nt r
  match oldTimers.find? fun y => y.tstate == x.tstate, was x.tstate with
  | some y, some st =>
    if y.duration = x.duration ∧ y.fingerprint = x.fingerprint then
      if isState then st else (was (refAt x.tstate (refWord x.tstate + 1))).getD 0
    else if st = stateCode 1 then (if isState then stateCode 1 else 0)
    else (if isState then stateCode 3 else x.duration)
  | _, _ => if isState then stateCode 1 else 0

/-- The initial value of a word. -/
def initOf (t : TaskImage) (r : Ref) : Nat := match t.words.find? fun w => w.1 == r with | some w => w.2.1 | none => 0

/-- A word after conversion (R224 to R226). -/
def State.convWord (s : State) (old : StationBody) (nt : TaskImage) (r : Ref) : Nat :=
  let init := initOf nt r
  match s.oldWord old nt r with
  | none => init
  | some v =>
    let rstate := mkRef 1 (refId r) 0
    let pending := decide (refSpace r = 1) && isCode ((s.oldWord old nt rstate).getD 0) [3, 4]
    if pending && decide (refWord r ≤ 1) then stateCode 1
    else
      match ((nt.marks.find? fun m => m.1 == r).map fun m => m.2 : Option CarryMark) with
      | some .carry => v
      | some .timer => match timerOf nt.timers r with | some (x, isState) => s.convTimer old nt x isState | none => init
      | some (.edge (some src)) => (s.oldValue old nt src).getD init
      | _ => init

/-- The routes that a conversion takes back (R226). -/
def State.withdrawnRoutes (s : State) (old : StationBody) : List Nat :=
  old.tasks.flatMap fun t => (wordsAt t true 0).filterMap fun r => if isCode (s.committedWord t.task r) [3, 4] then some (refId r) else none

/-- TSK_RSET and TSK_CFGt of an image, to take effect at the next boundary (R227, R230). -/
def taskRegs (b : StationBody) : List (Nat × Word) :=
  (R.TSK_RSET, BitVec.ofNat 64 b.period)
    :: (List.range 16).map fun t => (R.TSK_CFG t, match b.tasks.find? fun x => x.task == t with | some x => x.cfg | none => 0)

/-- The slots exchange roles: the lanes with a valid copy of the inactive image run it (R253, R507). -/
def State.swapSlots (s : State) : State :=
  let id := identOf s.upd.inactive
  let s1 := (maskLanes s.upd.valid).foldl (fun (s : State) (l : Lane) => s.onLane l fun x => { x with imageId := id }) s
  State.judgeClaim47 { s1 with upd := { s1.upd with active := s.upd.inactive, inactive := s.upd.active } }

/-- What the module keeps of the earlier image as the new one takes effect: the exports of the tasks of `keep` and the connections
that the new image has; forces and last fresh dispatches go, and every task runs for the first time (R227). -/
def State.keepOnly (s : State) (new : StationBody) (keep : List TaskImage) : State :=
  { s with
    cyc := { s.cyc with
      firstRun := 0xFFFF, forces := [], forceRead := [], fresh := 0
      exports := s.cyc.exports.filter fun e => keep.any fun t => t.task == e.1 }
    tele := { s.tele with conns := s.tele.conns.filter fun c => new.inbound.any fun e => e.conn == c.conn } }

/-- The coded state of the new image written by every lane that runs (R224, R226). -/
def State.writeConverted (s : State) (old new : StationBody) (kc : Nat) : State :=
  let words := new.tasks.map fun t => (t, (initialWords t).map fun w => (w.1, s.convWord old t w.1))
  s.runningLanes.foldl
    (fun (s : State) (l : Lane) =>
      words.foldl (fun (s : State) (p : TaskImage × List (Ref × Nat)) => s.writeTask l p.1 (new.codingA.get l) (dsigOf kc) p.2) s) s

/-- The end of conversion round set kc (R224 to R227): every lane writes the coded state with D(kc), the images exchange slots, and
the new task configuration loads with the boundary that follows. -/
def State.convert (s0 : State) (kc : Nat) : State :=
  match s0.station, s0.upd.inactive.bind fun i => i.station with
  | some old, some new =>
    let s := s0.readState (old.tasks.flatMap fun t => (t.footprint.flatMap footWords).map fun r => (t.task, r))
    let s1 := (s.withdrawnRoutes old).foldl (fun (s : State) (r : Nat) => s.event 0x3032 (bytesBE r 2)) (s.writeConverted old new kc)
    let keep := new.tasks.filter fun t => old.tasks.any fun u => u.task == t.task && u.exports == t.exports
    let s2 := s1.swapSlots.keepOnly new keep
    ((s2.onLanes fun x => { x with tskPend := taskRegs new }).wrM R.TSK_STAT_FORCED 0).event 0x3030 []
  | _, _ => s0

/-! ## Slots and loading (R506, R507, R521) -/

def upIdle : Nat := 0
def upApply : Nat := 1
def upReady : Nat := 2
def upCommitted : Nat := 3
def upConvert : Nat := 4
def upCompare : Nat := 5
def upChanged : Nat := 6
def upReattach : Nat := 7

/-- UPD_STAT.STAGE. -/
def State.stage (s : State) : Nat := s.rdM R.UPD_STAT_STAGE

/-- The stage set. -/
def State.setStage (s : State) (v : Nat) : State := s.wrM R.UPD_STAT_STAGE v

/-- The update engine's state changed. -/
def State.onUpd (s : State) (f : Upd → Upd) : State := { s with upd := f s.upd }

/-- A change-over of station data is in progress. -/
def State.changing (s : State) : Bool := decide (upCommitted ≤ s.stage) && decide (s.stage ≤ upCompare)

/-- Loading of the inactive slot begins (R506). -/
def State.startLoad (s : State) : State :=
  if s.changing || s.upd.inactive.isNone then s else (s.setStage upApply).onUpd fun u => { u with valid := 0 }

/-- UPD_LOAD: UPD_CTRL.LOAD (R506, R521). -/
def execUpdLoad (l : Lane) (c : CoreId) (s : State) : Host.Outcome State Fault Refusal :=
  .next (s.regAccess l c R.UPD_CTRL true fun s => s.startLoad)

/-- IMAGE_LOAD: D7 streams an image to the lanes; a failing page is counted, recorded and reloaded once, and a second failure
makes the lane's copy invalid and names the lane when it is VOTING (R506). A load of the inactive slot ends in READY when every lane of the vote set holds a
valid copy (R507). -/
def execImageLoad (badPages : PerLane Nat) (secondBad : PerLane Bool) (s : State) : Host.Outcome State Fault Refusal :=
  if s.dom 7 ≠ 2 then .next s
  else
    let s1 := s.runningLanes.foldl
      (fun (s : State) (l : Lane) =>
        iter (fun s => (s.inc l R.UPD_STAT_PAGE_ERR).eventL l 0xC012 []) (badPages.get l) s) s
    let good := s1.runningLanes.filter fun l => !secondBad.get l
    let s2 := s1.nameLanes (s1.voters.filter secondBad.get) srcCfg noTaskNo
    if s2.stage ≠ upApply then .next s2
    else
      match s2.upd.inactive.bind fun i => i.station with
      | none => .next s2
      | some b =>
        let s3 := (good.foldl (fun (s : State) (l : Lane) => s.loadLogic l b) s2).onUpd fun u => { u with valid := maskOf good }
        .next (if s3.voters.all fun l => good.contains l then s3.setStage upReady else s3)

/-! ## Commit, abort, timeout (R509, R511, R513, R515) -/

/-- The minute counter D0 holds. -/
def State.opmin (s : State) : Nat := s.rdM R.PWR_D0_OPMIN

/-- The round set number nearest to k whose bits 31:0 are those given (R307, R521). -/
def State.nearRs (s : State) (n : Nat) : Nat := ((s.k : Int) + roundDiff n s.k).toNat

/-- kc, of which UPD_CHG shows bits 31:0 (R521). -/
def State.kc (s : State) : Nat := s.nearRs (s.rdM R.UPD_CHG_KC)

/-- A committed change-over: kc = k + 2 (R511). -/
def State.commitChange (s : State) (alone : Bool) : State :=
  (((s.setStage upCommitted).wrM R.UPD_CHG_KC (s.k + 2)).event 0xC020 []).onUpd fun u =>
    { u with alone := alone, isS := alone, since := s.opmin, agreed := false }

/-- The commit that two conditions let through: an agreed owner command and READY (R497, R511). A guard bit postpones it. -/
def State.tryCommit (s : State) : State :=
  if !s.upd.agreed || s.stage ≠ upReady then s
  else if s.guards ≠ 0 then s.event 0xC021 [s.guards]
  else
    let base : Bool := match s.upd.inactive with | some i => decide (i.base = identOf s.upd.active) | none => false
    let twinReady : Bool := match s.twin.upd with
      | some r => decide (r.ident = identOf s.upd.inactive) && decide (r.stage = upReady)
      | none => false
    if !s.paired || !base then s.commitChange true
    else if s.rdM R.TWN_ROLE_ROLE = 1 ∧ twinReady then s.commitChange false
    else s

/-- UPD_COMMIT: UPD_CTRL.COMMIT (R511). -/
def execUpdCommit (l : Lane) (c : CoreId) (s : State) : Host.Outcome State Fault Refusal :=
  .next (s.regAccess l c R.UPD_CTRL true fun s => s.tryCommit)

/-- The change-over is abandoned (R509, R513): a module that has converted leaves and goes back to the old image at the next
boundary; one that has not, its conversion round set not yet at its end, keeps its loaded slot. -/
def State.abandon (s : State) (code : Nat) (data : List Nat) : State :=
  if !s.changing then s
  else
    let converted := decide (upConvert ≤ s.stage) && s.upd.isS && decide (s.cyc.kind ≠ RsKind.conversion)
    let s1 := ((s.event code data).setStage (if converted then upReattach else upReady)).wrM R.UPD_STAT_CMP_OK 0
    let s2 := s1.onUpd fun u => { u with revert := converted, agreed := false, ready := false }
    if converted && s2.paired then { s2 with twin := { s2.twin with outcome := some 0xA } } else s2

/-- UPD_ABORT: UPD_CTRL.ABORT, before kx (R513, R521). The record's cause does not apply and is all ones. -/
def execUpdAbort (l : Lane) (c : CoreId) (s : State) : Host.Outcome State Fault Refusal :=
  .next (s.regAccess l c R.UPD_CTRL true fun s => s.abandon 0xC025 [0xFF])

/-- CHANGE_OVER_TIMEOUT: not finished within TIMEOUT minutes (R509). -/
def execChangeOverTimeout (s : State) : Host.Outcome State Fault Refusal :=
  .next (if s.upd.since + s.rd s.mainLane R.UPD_CTRL_TIMEOUT ≤ s.opmin then s.abandon 0xC025 [1] else s)

/-- A write of UPD_CTRL: CMP_RS 2 to 64 and TIMEOUT 1 to 240, other values not applied; then LOAD, COMMIT and ABORT. -/
def State.writeUpdCtrl (s : State) (l : Lane) (v : Word) : State :=
  let n := R.UPD_CTRL_CMP_RS.of v
  let t := R.UPD_CTRL_TIMEOUT.of v
  let s1 := if 2 ≤ n ∧ n ≤ 64 then s.wr l R.UPD_CTRL_CMP_RS n else s
  let s2 := if 1 ≤ t ∧ t ≤ 240 then s1.wr l R.UPD_CTRL_TIMEOUT t else s1
  let s3 := if R.UPD_CTRL_LOAD.of v = 1 then s2.startLoad else s2
  let s4 := if R.UPD_CTRL_COMMIT.of v = 1 then s3.tryCommit else s3
  if R.UPD_CTRL_ABORT.of v = 1 then s4.abandon 0xC025 [0xFF] else s4

/-- The guards are evaluated at a sorting: UPD_GUARD, and a commit that waits for kc moves on (R508, R519). -/
def State.judgeGuards (s : State) : State :=
  let g := s.guards
  let s1 := s.wrM R.UPD_GUARD_GUARD g
  if s1.stage = upCompare ∧ g ≠ 0 then s1.onUpd fun u => { u with ready := false } else s1

/-! ## Firmware (R501, R518) -/

/-- FIRMWARE_MINIMUM_RAISE: after 1 h in RUNNING or DEGRADED the fused minimum rises to the active firmware's SECVER (R501). -/
def execFirmwareMinimumRaise (s : State) : Host.Outcome State Fault Refusal :=
  match s.sec.booted with
  | some i =>
    .next (if s.mode = mRunning ∨ s.mode = mDegraded then { s with sec := { s.sec with minSecver := max s.sec.minSecver i.secver } } else s)
  | none => .next s

/-- STAR_FIRMWARE_APPLY: to one core, at a schedule cycle boundary, while the other is ACTIVE and the module integrated on its channel; the core restarts
with its ports disabled and integrates again (R518). -/
def execStarFirmwareApply (ch : Chan) (img : Image) (s : State) : Host.Outcome State Fault Refusal :=
  let other : Chan := match ch with | .x => .y | .y => .x
  let integ := s.rdM (pick other R.DNR_STAT_INT_X R.DNR_STAT_INT_Y)
  if s.round % 64 = 0 ∧ img.kind = 3 ∧ s.imageCheck img = 1 ∧ s.coreState other = 2 ∧ integ = 1 ∧ s.coreState ch ≠ 0 then
    let s1 := (s.setCoreState ch 1).onStar ch fun x => { resetStar with tables := x.tables }
    .next (({ s1 with sec := { s1.sec with starFw := s1.sec.starFw.set ch img.bodyHash } }).event 0xC050 [])
  else .next s

end Sys2Proof.Machine
end

