-- ==== Sys2Proof/Machine/Agree.lean ====
section
/-! DEFINITION. Machine/Agree.lean: agreement, held flags and the posting of the inputs (R201 to R209, R215, R220). -/
namespace Sys2Proof.Machine

/-- Twin operation is enabled and the twin link usable (R400, R481). -/
def State.twinOn (s : State) : Bool := decide (s.rdM R.TWN_CTRL_EN = 1) && !s.twin.noLink

/-- The twins exchange records: TWN_ROLE.STATE is TRANSFER, TRACK or PAIRED (R404, R407, R414). -/
def State.exchanges (s : State) : Bool :=
  s.twinOn && decide (3 ≤ s.rdM R.TWN_ROLE_STATE) && decide (s.rdM R.TWN_ROLE_STATE ≤ 5)

/-- AGREEMENT: the lanes agree the field inputs and the forces, run the reception checks, and evaluate the cells and the
update guards; with a twin that exchanges records, loss at the sorting waits for the
pair combination (R201, R384, R389, R405). A test round set sorts for the built-in test task only, which has no field input and
no telegram: the skew is judged (R186, R188). -/
def execAgreement (s : State) : Host.Outcome State Fault Refusal :=
  .next (s.once [phCopy] phAgree fun s =>
    if s.cyc.kind = RsKind.test then s.judgeSkew
    else
    let s1 := s.judgeSkew.agreeInputs.applyForces.receiveTelegrams
    (if s1.exchanges then s1 else s1.loseAtSorting).diagnose.judgeGuards)

/-! ## Held flags (R215) -/

/-- A plain or coded pass of a task is still held in a lane's engine. -/
def State.holdsPass (s : State) (l : Lane) (t : Nat) : Bool :=
  (s.eng l).queue.any fun p => decide (p.desc.task = t) && decide (p.desc.kind ≠ .look)

/-- HELD_FLAG: a due task is skipped on the flags of two of three lanes, or of one of two (R215). -/
def execHeldFlag (s : State) : Host.Outcome State Fault Refusal :=
  .next (s.once [phAgree] phHeld fun s =>
    if !s.runs then s
    else
      let due := maskTasks s.due
      let need := if s.votes < 3 then 1 else 2
      let skipped := due.filter fun t => decide (need ≤ (s.voters.filter fun l => s.holdsPass l t).length)
      let flags := Lane.list.flatMap fun l =>
        (due.filter fun t => s.holdsPass l t && !skipped.contains t).map fun t => (l.code, t)
      let s1 := { s with cyc := { s.cyc with
        skipped := skipped.foldl (fun m t => setBit m t true) 0
        heldFlags := flags } }
      skipped.foldl (fun (s : State) (t : Nat) => s.overrunTask t 0x3002) s1)

/-! ## Posting (R204, R207 to R209, R220) -/

/-- The word and value that a row of the input map gives. -/
def State.mapRow (s : State) (r : InputMapRow) : Ref × Nat :=
  (r.word, match s.input r.input with
    | .zero => stateCode r.code0
    | .one => stateCode r.code1
    | .unknown => codeUnknown)

/-- The value that an applying input force gives a word. -/
def State.forcedWord (s : State) (r : Ref) : Option Nat :=
  (s.cyc.forces.find? fun e => decide (bits e.2.1.toNat 63 60 = 1) && decide (forceRef e.2.1 = r)).map fun e =>
    e.2.2.toNat % 2 ^ 32

/-- The mapped words of a task with their values, forces applied (R204, R220, R387). -/
def State.mappedWords (s : State) (t : Nat) : List (Ref × Nat) :=
  match s.station with
  | none => []
  | some b =>
    let field := (b.inputMap.filter fun r => r.task == t).map s.mapRow
    let conns := ((b.inbound.filter fun c => c.task == t).flatMap s.connWords).map fun w => w.2
    (field ++ conns).map fun w => (w.1, (s.forcedWord w.1).getD w.2)

/-- The imported words of a task: the exporter's export area, or its initial value before its first fresh dispatch (R209). -/
def State.importedWords (s : State) (t : TaskImage) : List (Ref × Nat) :=
  t.imports.map fun i =>
    (i.dst, match s.cyc.exports.find? fun e => e.1 == i.exporter && e.2.1 == i.src with
      | some e => e.2.2
      | none => initOf (s.taskImg i.exporter) i.src)

/-- The control word of a task: DETECT of its control element (R208). In the first round set after a halt none is TRUE
(R267). -/
def State.controlWord (s : State) (t : TaskImage) : Ref × Nat :=
  (mkRef 0 t.control 2, boolCode (bit s.cyc.firstRun t.task && !s.cyc.afterHalt))

/-- The mapped words that this posting changes (R204). -/
def State.changedWords (s : State) (t : Nat) (ws : List (Ref × Nat)) : List Ref :=
  (ws.filter fun w => s.cyc.posted.all fun p => p.1 != t || p.2.1 != w.1 || p.2.2 != w.2).map fun w => w.1

/-- CHG_LO and CHG_HI of the elements whose mapped words changed (R161). -/
def changeFilter (rs : List Ref) : Word × Word :=
  rs.foldl (fun (a : Word × Word) (r : Ref) =>
    (a.1 ||| BitVec.ofNat 64 (1 <<< (refId r % 64)), a.2 ||| BitVec.ofNat 64 (1 <<< (refId r / 64 % 64)))) (0, 0)

/-- The change filter of a task goes into the hint area of its last look-ahead pass, with CHG_VALID (R161, R204). -/
def State.writeChange (s : State) (l : Lane) (t : Nat) (changed : List Ref) : State :=
  match assoc (s.eng l).areas t with
  | none => s
  | some area =>
    let f := changeFilter changed
    ((s.writeWord l none mCore0 (some 2) (area + 0x18) f.1).writeWord l none mCore0 (some 2) (area + 0x20) f.2).writeWord l
      none mCore0 (some 2) (area + 0x30) 1

/-- A lane posts a task's words (R207), and the change filter. -/
def State.postTask (s : State) (l : Lane) (t : TaskImage) (ws : List (Ref × Nat)) (changed : List Ref) : State :=
  let d := s.rd l (R.RTE_DPREV_DPREV t.task)
  let s1 := ws.foldl (fun (s : State) (w : Ref × Nat) => s.postWord l t (s.codingA l) d w.1 w.2) s
  (s1.onLane l fun x => x.onTask t.task fun _ => resetTask).writeChange l t.task changed

/-- The change filter of a task that posts nothing at this sorting, from the mapped words that differ from those last posted
(R204). -/
def State.noteChange (s : State) (t : Nat) : State :=
  let changed := s.changedWords t (s.mappedWords t)
  s.runningLanes.foldl (fun (s : State) (l : Lane) => s.writeChange l t changed) s

/-- A task is posted in every lane that runs it: not in a lane whose own held flag is set (R207, R215). -/
def State.postDue (s : State) (lanes : List Lane) (t : Nat) : State :=
  let img := s.taskImg t
  let mapped := s.mappedWords t
  let ws := mapped ++ s.importedWords img ++ [s.controlWord img]
  let changed := s.changedWords t mapped
  let go := lanes.filter fun l => !s.cyc.heldFlags.contains (l.code, t)
  let s1 := go.foldl (fun (s : State) (l : Lane) => s.postTask l img ws changed) s
  { s1 with cyc := { s1.cyc with
    posted := (s1.cyc.posted.filter fun p => p.1 != t) ++ mapped.map fun w => (t, w.1, w.2)
    firstRun := if s1.cyc.afterHalt then s1.cyc.firstRun else setBit s1.cyc.firstRun t false } }

/-- The lanes that post and run passes: the vote set and a lane in PROBATION (R256). -/
def State.postingLanes (s : State) : List Lane := s.voters ++ s.probation.toList

/-- The tasks of the image that runs. -/
def State.imageTasks (s : State) : List Nat := match s.station with | some b => b.tasks.map fun t => t.task | none => []

/-- INPUT_POSTING: the inputs of every due task that is not skipped are posted; every other task gets its change filter (R204,
R207). -/
def execInputPosting (s : State) : Host.Outcome State Fault Refusal :=
  .next (s.once [phHeld] phPost fun s =>
    if !s.runs then s
    else
      let due := s.dueTasks
      ((s.imageTasks.filter fun t => !due.contains t).foldl State.noteChange s) |> fun s =>
        due.foldl (fun (s : State) (t : Nat) => s.postDue s.postingLanes t) s)

end Sys2Proof.Machine
end

