-- ==== Sys2Proof/Machine/Alu.lean ====
section
/-! DEFINITION. Machine/Alu.lean: register and immediate arithmetic of the control cores (R59 and the tables of
opcodes 0x01 to 0x0B, chapter 02). -/
namespace Sys2Proof.Machine

/-- An instruction that writes one general register from the core's state and completes. -/
def State.alu (s : State) (l : Lane) (c : CoreId) (gd : GReg) (f : Core → Word) : State :=
  s.coreOp l c .u fun x => x.setG gd (f x)

/-- An instruction that writes one general register, or traps with ARITH and changes neither gd nor the flags (R59). -/
def State.aluTrap (s : State) (l : Lane) (c : CoreId) (gd : GReg) (trap : Core → Bool) (f : Core → Word) : State :=
  s.issue l c .u fun s =>
    if trap (s.core l c) then s.exception l c exArith 0 else (s.onCore l c fun x => x.setG gd (f x)).retire l c

/-- An instruction that writes one general register and the flags (R59). -/
def State.aluFlags (s : State) (l : Lane) (c : CoreId) (gd : GReg) (f : Core → Word) (fl : Core → FlagSet) : State :=
  s.coreOp l c .u fun x => (x.setG gd (f x)).setFlags (fl x)

/-- An instruction that sets the flags only. -/
def State.cmpFlags (s : State) (l : Lane) (c : CoreId) (fl : Core → FlagSet) : State :=
  s.coreOp l c .u fun x => x.setFlags (fl x)

/-- ADD: gd = ga + gb. -/
def execAdd (l : Lane) (c : CoreId) (gd ga gb : GReg) (s : State) :
    Host.Outcome State Fault Refusal :=
  .next (s.alu l c gd fun x => x.g ga + x.g gb)

/-- SUB: gd = ga − gb. -/
def execSub (l : Lane) (c : CoreId) (gd ga gb : GReg) (s : State) :
    Host.Outcome State Fault Refusal :=
  .next (s.alu l c gd fun x => x.g ga - x.g gb)

/-- ADDS: gd = ga + gb; set n z c v. -/
def execAdds (l : Lane) (c : CoreId) (gd ga gb : GReg) (s : State) :
    Host.Outcome State Fault Refusal :=
  .next (s.aluFlags l c gd (fun x => x.g ga + x.g gb) fun x => addFlags (x.g ga) (x.g gb) 0)

/-- SUBS: gd = ga + ~gb + 1; set n z c v. -/
def execSubs (l : Lane) (c : CoreId) (gd ga gb : GReg) (s : State) :
    Host.Outcome State Fault Refusal :=
  .next (s.aluFlags l c gd (fun x => x.g ga + ~~~(x.g gb) + 1) fun x => subFlags (x.g ga) (x.g gb))

/-- ADDV: traps on signed overflow of ga + gb (R76, ARITH). -/
def execAddv (l : Lane) (c : CoreId) (gd ga gb : GReg) (s : State) :
    Host.Outcome State Fault Refusal :=
  .next (s.aluTrap l c gd (fun x => outsideInt64 ((x.g ga).toInt + (x.g gb).toInt)) fun x => x.g ga + x.g gb)

/-- SUBV: traps on signed overflow of ga − gb. -/
def execSubv (l : Lane) (c : CoreId) (gd ga gb : GReg) (s : State) :
    Host.Outcome State Fault Refusal :=
  .next (s.aluTrap l c gd (fun x => outsideInt64 ((x.g ga).toInt - (x.g gb).toInt)) fun x => x.g ga - x.g gb)

/-- CMP: flags of ga + ~gb + 1. -/
def execCmp (l : Lane) (c : CoreId) (ga gb : GReg) (s : State) :
    Host.Outcome State Fault Refusal :=
  .next (s.cmpFlags l c fun x => subFlags (x.g ga) (x.g gb))

/-- AND: gd = ga & gb. -/
def execAnd (l : Lane) (c : CoreId) (gd ga gb : GReg) (s : State) :
    Host.Outcome State Fault Refusal :=
  .next (s.alu l c gd fun x => x.g ga &&& x.g gb)

/-- OR: gd = ga | gb. -/
def execOr (l : Lane) (c : CoreId) (gd ga gb : GReg) (s : State) :
    Host.Outcome State Fault Refusal :=
  .next (s.alu l c gd fun x => x.g ga ||| x.g gb)

/-- XOR: gd = ga ^ gb. -/
def execXor (l : Lane) (c : CoreId) (gd ga gb : GReg) (s : State) :
    Host.Outcome State Fault Refusal :=
  .next (s.alu l c gd fun x => x.g ga ^^^ x.g gb)

/-- ANDN: gd = ga & ~gb. -/
def execAndn (l : Lane) (c : CoreId) (gd ga gb : GReg) (s : State) :
    Host.Outcome State Fault Refusal :=
  .next (s.alu l c gd fun x => x.g ga &&& ~~~(x.g gb))

/-- SLT: 1 if ga < gb signed. -/
def execSlt (l : Lane) (c : CoreId) (gd ga gb : GReg) (s : State) :
    Host.Outcome State Fault Refusal :=
  .next (s.alu l c gd fun x => BitVec.ofNat 64 (ofBool ((x.g ga).slt (x.g gb))))

/-- SLTU: 1 if ga < gb unsigned. -/
def execSltu (l : Lane) (c : CoreId) (gd ga gb : GReg) (s : State) :
    Host.Outcome State Fault Refusal :=
  .next (s.alu l c gd fun x => BitVec.ofNat 64 (ofBool ((x.g ga).ult (x.g gb))))

/-- SLL: gd = ga shifted by gb[5:0]. -/
def execSll (l : Lane) (c : CoreId) (gd ga gb : GReg) (s : State) :
    Host.Outcome State Fault Refusal :=
  .next (s.alu l c gd fun x => shiftBy 0 (x.g ga) (shiftAmount (x.g gb)))

/-- SRL: gd = ga shifted by gb[5:0]. -/
def execSrl (l : Lane) (c : CoreId) (gd ga gb : GReg) (s : State) :
    Host.Outcome State Fault Refusal :=
  .next (s.alu l c gd fun x => shiftBy 1 (x.g ga) (shiftAmount (x.g gb)))

/-- SRA: gd = ga shifted by gb[5:0]. -/
def execSra (l : Lane) (c : CoreId) (gd ga gb : GReg) (s : State) :
    Host.Outcome State Fault Refusal :=
  .next (s.alu l c gd fun x => shiftBy 2 (x.g ga) (shiftAmount (x.g gb)))

/-- ROR: gd = ga shifted by gb[5:0]. -/
def execRor (l : Lane) (c : CoreId) (gd ga gb : GReg) (s : State) :
    Host.Outcome State Fault Refusal :=
  .next (s.alu l c gd fun x => shiftBy 3 (x.g ga) (shiftAmount (x.g gb)))

/-- MUL: low 64 bits of the product. -/
def execMul (l : Lane) (c : CoreId) (gd ga gb : GReg) (s : State) :
    Host.Outcome State Fault Refusal :=
  .next (s.alu l c gd fun x => x.g ga * x.g gb)

/-- MULH: high 64 bits of the signed product. -/
def execMulh (l : Lane) (c : CoreId) (gd ga gb : GReg) (s : State) :
    Host.Outcome State Fault Refusal :=
  .next (s.alu l c gd fun x => BitVec.ofInt 64 ((x.g ga).toInt * (x.g gb).toInt / 2 ^ 64))

/-- MULHU: high 64 bits of the unsigned product. -/
def execMulhu (l : Lane) (c : CoreId) (gd ga gb : GReg) (s : State) :
    Host.Outcome State Fault Refusal :=
  .next (s.alu l c gd fun x => BitVec.ofNat 64 ((x.g ga).toNat * (x.g gb).toNat / 2 ^ 64))

/-- MULV: traps when the signed product lies outside 64 bits. -/
def execMulv (l : Lane) (c : CoreId) (gd ga gb : GReg) (s : State) :
    Host.Outcome State Fault Refusal :=
  .next (s.aluTrap l c gd (fun x => outsideInt64 ((x.g ga).toInt * (x.g gb).toInt)) fun x => x.g ga * x.g gb)

/-- DIV: signed quotient rounded toward zero; traps on zero and on −2^63 / −1. -/
def execDiv (l : Lane) (c : CoreId) (gd ga gb : GReg) (s : State) :
    Host.Outcome State Fault Refusal :=
  .next (s.aluTrap l c gd (fun x => divTraps (x.g ga) (x.g gb)) fun x => BitVec.ofInt 64 ((x.g ga).toInt.tdiv (x.g gb).toInt))

/-- DIVU: unsigned quotient; traps on zero. -/
def execDivu (l : Lane) (c : CoreId) (gd ga gb : GReg) (s : State) :
    Host.Outcome State Fault Refusal :=
  .next (s.aluTrap l c gd (fun x => decide (x.g gb = 0)) fun x => BitVec.ofNat 64 ((x.g ga).toNat / (x.g gb).toNat))

/-- REM: ga − gb × (ga div gb), sign of ga; traps as DIV. -/
def execRem (l : Lane) (c : CoreId) (gd ga gb : GReg) (s : State) :
    Host.Outcome State Fault Refusal :=
  .next (s.aluTrap l c gd (fun x => divTraps (x.g ga) (x.g gb)) fun x => BitVec.ofInt 64 ((x.g ga).toInt.tmod (x.g gb).toInt))

/-- REMU: ga mod gb; traps on zero. -/
def execRemu (l : Lane) (c : CoreId) (gd ga gb : GReg) (s : State) :
    Host.Outcome State Fault Refusal :=
  .next (s.aluTrap l c gd (fun x => decide (x.g gb = 0)) fun x => BitVec.ofNat 64 ((x.g ga).toNat % (x.g gb).toNat))

/-- CLZ: count of leading zero bits, 64 for zero. -/
def execClz (l : Lane) (c : CoreId) (gd ga : GReg) (s : State) :
    Host.Outcome State Fault Refusal :=
  .next (s.alu l c gd fun x => BitVec.ofNat 64 (clz (x.g ga)))

/-- POPC: count of one bits. -/
def execPopc (l : Lane) (c : CoreId) (gd ga : GReg) (s : State) :
    Host.Outcome State Fault Refusal :=
  .next (s.alu l c gd fun x => BitVec.ofNat 64 (popcount (x.g ga).toNat 64))

/-- ADDI: gd = ga + sext(imm16). -/
def execAddi (l : Lane) (c : CoreId) (gd ga : GReg) (imm : BitVec 16) (s : State) :
    Host.Outcome State Fault Refusal :=
  .next (s.alu l c gd fun x => x.g ga + sext16 imm)

/-- ANDI: gd = ga & zext(imm16). -/
def execAndi (l : Lane) (c : CoreId) (gd ga : GReg) (imm : BitVec 16) (s : State) :
    Host.Outcome State Fault Refusal :=
  .next (s.alu l c gd fun x => x.g ga &&& zext16 imm)

/-- ORI: gd = ga | zext(imm16); ORI g0, g0, 0 is the NOP. -/
def execOri (l : Lane) (c : CoreId) (gd ga : GReg) (imm : BitVec 16) (s : State) :
    Host.Outcome State Fault Refusal :=
  .next (s.alu l c gd fun x => x.g ga ||| zext16 imm)

/-- XORI: gd = ga ^ zext(imm16). -/
def execXori (l : Lane) (c : CoreId) (gd ga : GReg) (imm : BitVec 16) (s : State) :
    Host.Outcome State Fault Refusal :=
  .next (s.alu l c gd fun x => x.g ga ^^^ zext16 imm)

/-- SLTI: 1 if ga < sext(imm16) signed. -/
def execSlti (l : Lane) (c : CoreId) (gd ga : GReg) (imm : BitVec 16) (s : State) :
    Host.Outcome State Fault Refusal :=
  .next (s.alu l c gd fun x => BitVec.ofNat 64 (ofBool ((x.g ga).slt (sext16 imm))))

/-- SLTIU: 1 if ga < sext(imm16) unsigned. -/
def execSltiu (l : Lane) (c : CoreId) (gd ga : GReg) (imm : BitVec 16) (s : State) :
    Host.Outcome State Fault Refusal :=
  .next (s.alu l c gd fun x => BitVec.ofNat 64 (ofBool ((x.g ga).ult (sext16 imm))))

/-- QSET: gd = zext(imm16) << 16k. -/
def execQset (l : Lane) (c : CoreId) (gd : GReg) (imm : BitVec 16) (k : BitVec 2) (s : State) :
    Host.Outcome State Fault Refusal :=
  .next (s.alu l c gd fun _ => insertQuarter 0 k imm)

/-- QINS: bits 16k+15:16k of gd replaced. -/
def execQins (l : Lane) (c : CoreId) (gd : GReg) (imm : BitVec 16) (k : BitVec 2) (s : State) :
    Host.Outcome State Fault Refusal :=
  .next (s.alu l c gd fun x => insertQuarter (x.g gd) k imm)

/-- SHI: gd = ga shifted by s as t. -/
def execShi (l : Lane) (c : CoreId) (gd ga : GReg) (t : BitVec 2) (sh : BitVec 6) (s : State) :
    Host.Outcome State Fault Refusal :=
  .next (s.alu l c gd fun x => shiftBy t (x.g ga) sh.toNat)

/-- CMPI: flags of ga + ~sext(imm16) + 1. -/
def execCmpi (l : Lane) (c : CoreId) (ga : GReg) (imm : BitVec 16) (s : State) :
    Host.Outcome State Fault Refusal :=
  .next (s.cmpFlags l c fun x => subFlags (x.g ga) (sext16 imm))

end Sys2Proof.Machine
end

