-- ==== Sys2Proof/Machine/Net.lean ====
section
/-! DEFINITION. Machine/Net.lean: the module as a node of Denras: SYNC and MGMT, loss and takeover, schedule requests and
tables, poste restante claims, frames for the lanes, the frames it sends, and the start of a round (chapters 08 and 09). -/
namespace Sys2Proof.Machine

/-! ## Signed numbers on the wire -/

/-- A signed number as n big-endian bytes. -/
def bytesInt (v : Int) (n : Nat) : List Nat := bytesBE ((v % (2 ^ (8 * n) : Nat)).toNat) n

/-- The signed number that n bytes at an offset spell. -/
def intAt (bs : List Nat) (off n : Nat) : Int :=
  let v := numAt bs off n
  if 2 ^ (8 * n - 1) ≤ v then (v : Int) - (2 ^ (8 * n) : Nat) else v

/-- A signed 16-bit value, saturating at 32,767 in either direction (TIM_STAT). -/
def sat16 (d : Int) : Nat := offsetField d

/-! ## Schedule change (R331 to R334) -/

/-- DATA of the schedule records (R606). -/
def State.schedData (s : State) : List Nat :=
  [s.rdM R.DNR_SCHED_SEL_NOW, s.rdM R.DNR_SCHED_SEL_NEXT] ++ bytesBE (s.rdM R.DNR_SCHED_SEL_SWITCH_ROUND) 4

/-- A change is announced. -/
def State.announce (s : State) (next round : Nat) : State :=
  let s1 := (((s.wrM R.DNR_SCHED_SEL_PEND 1).wrM R.DNR_SCHED_SEL_CONF 0).wrM R.DNR_SCHED_SEL_NEXT next).wrM
    R.DNR_SCHED_SEL_SWITCH_ROUND round
  s1.event 0x6020 s1.schedData

/-- A change is confirmed. -/
def State.confirm (s : State) : State := let s1 := s.wrM R.DNR_SCHED_SEL_CONF 1; s1.event 0x6021 s1.schedData

/-- A change is cancelled. -/
def State.cancelChange (s : State) : State := (s.event 0x6023 s.schedData).wrM R.DNR_SCHED_SEL_PEND 0

/-- The module's own claim lapses when the schedule changes (R330). -/
def State.dropClaim (s : State) : State :=
  ((s.wrM R.DNR_SLOT_CLAIM_STATE 0).wrM R.DNR_SLOT_CLAIM_SLOT 0).wrM R.DNR_SLOT_CLAIM_FREE 0

/-- The confirmed change takes place at SWITCH_ROUND (R333, R334). -/
def State.switchSchedule (s : State) : State :=
  if s.rdM R.DNR_SCHED_SEL_PEND = 1 ∧ s.rdM R.DNR_SCHED_SEL_CONF = 1 ∧ s.round = s.rdM R.DNR_SCHED_SEL_SWITCH_ROUND then
    let s1 := ((s.wrM R.DNR_SCHED_SEL_NOW (s.rdM R.DNR_SCHED_SEL_NEXT)).wrM R.DNR_SCHED_SEL_PEND 0).wrM R.DNR_SCHED_SEL_CONF 0
    let s2 := s1.dropClaim.event 0x6022 s.schedData
    { s2 with net := { s2.net with freeSlots := [], owes := [] } }
  else s

/-- The leader at a schedule cycle boundary: it confirms, prolongs, cancels or announces a change (R331, R332). -/
def State.leadSchedules (s0 : State) : State :=
  let reqs := if s0.rd s0.mainLane R.DNR_SCHED_SEL_REQV = 1 then s0.rd s0.mainLane R.DNR_SCHED_SEL_REQ :: s0.net.requests
    else s0.net.requests
  let members := s0.net.members
  let s := { s0 with net := { s0.net with requests := [], members := [] } }
  let now := s.rdM R.DNR_SCHED_SEL_NOW
  let want := (reqs.filter (· != now)).foldl max 0
  if s.rdM R.DNR_SCHED_SEL_PEND = 0 then
    if (reqs.any (· != now)) ∧ s.net.swapRound.isNone then
      ({ s with net := { s.net with acks := members.map fun n => (n, false), annAge := 0 } }).announce want ((s.round + 128) % 2 ^ 32)
    else s
  else if s.rdM R.DNR_SCHED_SEL_CONF = 1 then s
  else if s.net.acks.all (·.2) then s.confirm
  else if s.net.annAge = 0 then
    ({ s with net := { s.net with annAge := 1, acks := s.net.acks.map fun (a : Nat × Bool) => (a.1, false) } }).wrM
      R.DNR_SCHED_SEL_SWITCH_ROUND ((s.round + 128) % 2 ^ 32)
  else s.cancelChange

/-! ## SYNC and MGMT (R327, R333, R351 to R357) -/

/-- The module has the external time duty (R360, R399). -/
def State.extDuty (s : State) : Bool := decide (s.rdM R.TWN_ROLE_ROLE = 1)

/-- The port of a core through which a node's sync entry sends, and its depth (R311, R353). -/
def State.syncDepth (s : State) (ch : Chan) (node : Nat) : Nat :=
  match (s.guardTable ch).find? fun e => seKind e = 1 && seNode e = node with
  | some e => s.rdM (R.STR_PORT_CTRL_DEPTH (portN ch (sePort ch e)))
  | none => 0

/-- The expected local arrival time of a SYNC at a core (R353). -/
def State.expected (s : State) (ch : Chan) (f : Frame) : Nat :=
  numAt f.payload 2 8 + 1600 * f.slot +
    (if s.coreRole ch = 2 then numAt f.payload 10 4 + s.rdM (R.TIM_LDLY_DELAY (portN ch (s.upPort ch)))
     else 640 * s.syncDepth ch f.node)

/-- The domain of a SYNC, by its sender (R356); a sender not yet known takes the leader's domain in slot 0, and in slot 1
the domain that the leader does not hold. -/
def State.domainOf (s : State) (f : Frame) : Nat × State :=
  let d0 := s.rdM R.TIM_DOM_SEL_DOM0_ID
  let d1 := s.rdM R.TIM_DOM_SEL_DOM1_ID
  if d0 ≠ 0 ∧ f.node = d0 then (0, s)
  else if d1 ≠ 0 ∧ f.node = d1 then (1, s)
  else if f.slot = 0 ∨ (d1 ≠ 0 ∧ s.rdM R.DNR_STAT_LEADER_ID = d1) then (0, s.wrM R.TIM_DOM_SEL_DOM0_ID f.node)
  else (1, s.wrM R.TIM_DOM_SEL_DOM1_ID f.node)

/-- The external time fields of a SYNC are taken over (R351, R360). -/
def State.takeExternal (s : State) (p : List Nat) : State :=
  let s1 := { s with time := { s.time with extOff := intAt p 14 8, extRate := intAt p 22 4, rstart := numAt p 2 8 } }
  let s2 := ((s1.wrM R.TIM_STAT_EXT_VALID (numAt p 26 1 % 2)).wrM R.TIM_STAT_EXT_HOLD (bits (numAt p 26 1) 1 1)).wrM
    R.TIM_STAT_EXT_SRC (bits (numAt p 26 1) 3 2)
  s2.wrAll R.TIM_RATE_EXT (numAt p 22 4)

/-- An accepted SYNC reaches the module on a channel, postmarked t in the core's time (R322, R327, R353 to R360). -/
def State.takeSync (s : State) (ch : Chan) (t : Nat) (frame : Frame) : State :=
    let d := s.domainOf frame
    let theta : Int := (t : Int) - s.expected ch frame
    let s1 := d.2.onStar ch fun x => { x with theta := if d.1 = 0 then (some theta, x.theta.2) else (x.theta.1, some theta) }
    let s2 := { s1 with
      net := { s1.net with
        noSync := s1.net.noSync.set ch 0
        sync01 := if frame.slot = 0 then (true, s1.net.sync01.2) else (s1.net.sync01.1, true) }
      time := { s1.time with missed := 0 } }
    let s3 := if frame.slot = 0 then s2.wrM R.DNR_STAT_LEADER_ID frame.node else s2
    let s4 := if s.dnr = dnInteg then
        let t := if s.net.timing = 1 ∧ !s.net.heardNow then
            s3.onStar ch fun x => { x with steer := { x.steer with rate := -theta * 100000 } }
          else s3
        (t.takeTiming frame.round theta).wrM R.DNR_SCHED_SEL_NOW frame.sched
      else if frame.slot = 0 ∧ frame.node ≠ s.nodeId then
        (s3.wrM R.DNR_STAT_LEADER 0).wrM R.DNR_STAT_TWINSYNC (ofBool (twinField frame.payload 0 == some s.nodeId))
      else s3
    let s5 := if s.extDuty || (s.time.dom != d.1 && decide (s.time.dom < 2)) then s4 else s4.takeExternal frame.payload
    if s.time.dom = 2 then ({ s5 with time := { s5.time with dom := d.1 } }).event 0x7003 (bytesInt theta 8) else s5

/-- SYNC_RECEIVED: the SYNC that a core has delivered in slot 0 or 1 of this round (R43, R353). -/
def execSyncReceived (ch : Chan) (slot : Nat) (s : State) : Host.Outcome State Fault Refusal :=
  match s.heardOn ch fun c => decide (c.frame.kind = fkSync) && decide (c.slot = slot) && decide (slot < 2) with
  | some c => .next (if s.dnr = dnInteg ∨ s.dnr = dnActive then s.takeSync ch c.postmark c.frame else s)
  | none => .next s

/-- The poste restante slots of the schedule in force, in ascending order. -/
def State.claimSlots (s : State) : List Nat := (s.ownTable.filter fun e => seKind e = 3).map seSlot

/-- The claim map of a MGMT frame: slots and claimants; none for a free slot (R310, R329). -/
def State.claimMap (s : State) (p : List Nat) : List (Nat × Option Nat) :=
  (s.claimSlots.zip (List.range 40)).map fun e => (e.1, twinField p (16 + 2 * e.2))

/-- The lowest free slot of the last claim map is claimed (R329). -/
def State.askSlot (s : State) : State :=
  let st := s.rdM R.DNR_SLOT_CLAIM_STATE
  if st = 1 ∨ st = 2 then s
  else
    match s.net.freeSlots with
    | f :: _ => (s.wrM R.DNR_SLOT_CLAIM_STATE 1).wrM R.DNR_SLOT_CLAIM_SLOT f
    | [] => s.wrM R.DNR_SLOT_CLAIM_STATE 3

/-- An accepted MGMT frame: leader, schedule change, role swap and claim map (R327, R329, R333). -/
def State.takeMgmt (s : State) (p : List Nat) : State :=
    let flags := numAt p 4 1
    let own := decide (s.rdM R.DNR_STAT_LEADER = 1)
    let pend := bit flags 4
    let was := decide (s.rdM R.DNR_SCHED_SEL_PEND = 1)
    let conf := decide (s.rdM R.DNR_SCHED_SEL_CONF = 1)
    let s1 := if own then s else s.wrM R.DNR_STAT_LEADER_ID (numAt p 0 2 % 4096)
    let s2 := if own ∨ conf then s1
      else if pend then
        let a := if was then (s1.wrM R.DNR_SCHED_SEL_NEXT (bits flags 3 2)).wrM R.DNR_SCHED_SEL_SWITCH_ROUND (numAt p 8 4)
          else s1.announce (bits flags 3 2) (numAt p 8 4)
        if bit flags 5 then a.confirm else a
      else if was then s1.cancelChange
      else if s.dnr = dnInteg then s1.wrM R.DNR_SCHED_SEL_NOW (bits flags 1 0)
      else s1
    let s3 := if own then s2
      else { s2 with net := { s2.net with swapRound := if bit flags 6 then some (numAt p 12 4) else none } }
    let map := s3.claimMap p
    let free := (map.filter fun e => e.2.isNone).map (·.1)
    let s4 := ({ s3 with net := { s3.net with freeSlots := free } }).wrM R.DNR_SLOT_CLAIM_FREE free.length
    let st := s4.rdM R.DNR_SLOT_CLAIM_STATE
    let holder := ((map.find? fun e => e.1 == s4.rdM R.DNR_SLOT_CLAIM_SLOT).bind (·.2))
    if st = 1 then
        (match holder, free with
         | some n, f :: _ => if n = s.nodeId then s4.wrM R.DNR_SLOT_CLAIM_STATE 2 else s4.wrM R.DNR_SLOT_CLAIM_SLOT f
         | some n, [] => if n = s.nodeId then s4.wrM R.DNR_SLOT_CLAIM_STATE 2
             else (s4.wrM R.DNR_SLOT_CLAIM_STATE 3).wrM R.DNR_SLOT_CLAIM_SLOT 0
         | none, _ => s4)
      else if st = 2 ∧ holder ≠ some s.nodeId then (s4.wrM R.DNR_SLOT_CLAIM_STATE 0).wrM R.DNR_SLOT_CLAIM_SLOT 0
      else if s4.log.settings.again then (s4.onSettings fun x => { x with again := false }).askSlot
      else s4

/-- MGMT_RECEIVED: the MGMT frame that a core has delivered in this round (R43, R333). -/
def execMgmtReceived (ch : Chan) (s : State) : Host.Outcome State Fault Refusal :=
  match s.heardOn ch fun c => decide (c.frame.kind = fkMgmt) with
  | some c => .next (if s.dnr = dnInteg ∨ s.dnr = dnActive then s.takeMgmt c.frame.payload else s)
  | none => .next s

/-! ## Loss, silence and takeover (R322, R325, R327) -/

/-- SYNC_LOSS: 8 rounds in a row without SYNC: the module turns SILENT, and a core returns to LISTEN (R322, R325). -/
def execSyncLoss (s : State) : Host.Outcome State Fault Refusal :=
  let core (s : State) (ch : Chan) : State :=
    if s.coreState ch = 2 ∧ 9 ≤ (s.star ch).noSync then ((s.endClaims ch).setCoreState ch 1).onStar ch fun x => { x with coldTick := none }
    else s
  let s1 := core (core s .x) .y
  .next (if s1.dnr = dnActive ∧ 9 ≤ s1.net.noSync.x ∧ 9 ≤ s1.net.noSync.y ∧ 8 ≤ s1.net.activeFor then
      let s2 := s1.protocol dnSilent 1
      { s2 with net := { s2.net with silent := 8 } }
    else s1)

/-- SILENT_TIMEOUT: 8 rounds of silence have elapsed (R322). -/
def execSilentTimeout (s : State) : Host.Outcome State Fault Refusal :=
  .next (if s.dnr = dnSilent ∧ s.net.silent = 0 then s.listen 1 else s)

/-- LEADER_TAKEOVER: slot 0 was empty in two rounds in which slot 1 carried SYNC: the twin becomes leader (R327); a change
that is not confirmed is cancelled (R333). -/
def execLeaderTakeover (s : State) : Host.Outcome State Fault Refusal :=
  if s.dnr = dnActive ∧ s.rdM R.DNR_STAT_TWINSYNC = 1 ∧ 2 ≤ s.net.slot0Empty then
    let s1 := ((s.wrM R.DNR_STAT_LEADER 1).wrM R.DNR_STAT_TWINSYNC 0).wrM R.DNR_STAT_LEADER_ID s.nodeId
    let s2 := ({ s1 with net := { s1.net with slot0Empty := 0, requests := [], members := [] } }).event 0x6040 (bytesBE s.nodeId 2)
    .next (if s2.rdM R.DNR_SCHED_SEL_PEND = 1 ∧ s2.rdM R.DNR_SCHED_SEL_CONF = 0 then s2.cancelChange else s2)
  else .next s

/-! ## Register commands (R329 to R334, R342) -/

/-- A write of DNR_SCHED_SEL (R331). -/
def State.writeSchedSel (s : State) (l : Lane) (v : Word) : State :=
    (s.wr l R.DNR_SCHED_SEL_REQV (R.DNR_SCHED_SEL_REQV.of v)).wr l R.DNR_SCHED_SEL_REQ (R.DNR_SCHED_SEL_REQ.of v)

/-- SCHEDULE_REQUEST: a write of DNR_SCHED_SEL sets REQ and REQV (R331). -/
def execScheduleRequest (l : Lane) (c : CoreId) (v : Word) (s : State) : Host.Outcome State Fault Refusal :=
  .next (s.regWriteBy l c R.DNR_SCHED_SEL v fun s => s.writeSchedSel l v)

/-- DNR_SLOT_CLAIM.REQ written 1 (R329). The settings record keeps the claim (R517). -/
def State.requestSlot (s0 : State) : State :=
  let s := s0.onSettings fun x => { x with slot := true, again := false }
  s.askSlot

/-- SLOT_CLAIM_REQUEST: DNR_SLOT_CLAIM.REQ written 1: the lowest free slot of the last claim map is claimed (R329). -/
def execSlotClaimRequest (l : Lane) (c : CoreId) (s : State) : Host.Outcome State Fault Refusal :=
  .next (s.regAccess l c R.DNR_SLOT_CLAIM true fun s => s.requestSlot)

/-- DNR_SLOT_CLAIM.REL written 1 (R330). The settings record forgets the claim (R517). -/
def State.releaseSlot (s0 : State) : State :=
  let s := s0.onSettings fun x => { x with slot := false, again := false }
  let st := s.rdM R.DNR_SLOT_CLAIM_STATE
  let s1 := (s.wrM R.DNR_SLOT_CLAIM_STATE 0).wrM R.DNR_SLOT_CLAIM_SLOT 0
  if st = 2 then { s1 with net := { s1.net with owes := s1.net.owes ++ [s.rdM R.DNR_SLOT_CLAIM_SLOT] } } else s1

/-- SLOT_CLAIM_RELEASE: DNR_SLOT_CLAIM.REL written 1: a CLAIM with RELEASE follows in the slot (R330). -/
def execSlotClaimRelease (l : Lane) (c : CoreId) (s : State) : Host.Outcome State Fault Refusal :=
  .next (s.regAccess l c R.DNR_SLOT_CLAIM true fun s => s.releaseSlot)

/-- A table with one entry replaced; the entries before it that the table lacks are zero. -/
def setEntry (t : List Word) (i : Nat) (w : Word) : List Word :=
  t.take i ++ List.replicate (i - t.length) 0 ++ [w] ++ t.drop (i + 1)

/-- A write of DNR_TBL_DATA (R334, R340). -/
def State.writeTable (s : State) (l : Lane) (v : Word) : State :=
    let n := s.rd l R.DNR_TBL_ADDR_SCHED
    let i := s.rd l R.DNR_TBL_ADDR_ENTRY
    let inForce := decide (s.dnr ≠ dnOff) && decide (s.rdM R.DNR_SCHED_SEL_NOW = n)
    let open' := decide (s.mode = mStarting) || decide (s.cyc.kind = .conversion)
    let s1 := if open' && !inForce then
        s.onLane l fun x => { x with sched := Vector.ofFn fun k => if k.val = n then setEntry (tableOf x.sched n) i v else x.sched[k] }
      else s
    s1.wr l R.DNR_TBL_ADDR_ENTRY (i + 1)

/-- SCHEDULE_TABLE_WRITE: an entry of a lane's schedule table, in STARTING or a conversion round set, and never of the
schedule in force (R334, R340). -/
def execScheduleTableWrite (l : Lane) (c : CoreId) (v : Word) (s : State) : Host.Outcome State Fault Refusal :=
  .next (s.regAccess l c R.DNR_TBL_DATA true fun s => s.writeTable l v)

/-- A write of STR_GT_DATA (R35, R342). -/
def State.writeStream (s : State) (l : Lane) (v : Word) : State :=
    if !s.cyc.active then s.incM (vwRefuse R.STR_GT_DATA) else s.onLane l fun x => { x with stream := x.stream ++ [v] }

/-- GUARDIAN_STREAM_WRITE: an entry is appended to the lane's pending guardian stream; before the first boundary marker the
write is refused (R35, R342). -/
def execGuardianStreamWrite (l : Lane) (c : CoreId) (v : Word) (s : State) : Host.Outcome State Fault Refusal :=
  .next (s.regAccess l c R.STR_GT_DATA true fun s => s.writeStream l v)

/-! ## Frames for the lanes (R43, R197, R320, R335) -/

/-- CRC-8 of the Denras header (R309). -/
def crc8 (bs : List Nat) : Nat := bs.foldl (crcByte 8 0x07) 0

/-- The bytes of a frame from the destination address to the end of the payload (R308, R309). -/
def frameBytes (f : Frame) : List Nat :=
  let chan := match f.chan with | .x => 0 | .y => 1
  let head := [16 + f.kind % 16] ++ bytesBE (f.node * 16 + chan * 8) 2
    ++ bytesBE (f.slot * 64 + f.sched * 16 + f.req * 4 + ofBool f.reqv * 2 + ofBool f.ack) 2
    ++ bytesBE f.round 4 ++ [f.state * 32 % 256, f.len % 256]
  [0x03, 0x44, 0x4E, 0x00, 0x00, if f.destX then 1 else 2] ++ [0x02, 0x44, 0x4E, 0x00] ++ bytesBE (chan * 4096 + f.node) 2
    ++ [0x88, 0xB5] ++ head ++ [crc8 head] ++ (List.range 96).map fun j => f.payload.getD j 0 % 256

/-- The 134 bytes of a frame on the wire: preamble, SFD, the bytes above and the FCS, whose lowest byte goes first (R308). -/
def wireBytes (f : Frame) : List Nat :=
  List.replicate 7 0x55 ++ [0xD5] ++ frameBytes f ++ bytesLE (crc32 (frameBytes f)) 4

/-- A copy that may be kept (R335). -/
def goodCopy (c : Option RxCopy) : Option RxCopy := c.filter fun x => x.complete && !x.truncated

/-- The copy of a slot that a lane keeps, and whether it is the one of channel Y (R335). -/
def keptCopy (x y : Option RxCopy) : Option (RxCopy × Bool) :=
  match goodCopy x, goodCopy y with
  | some c, _ => some (c, false)
  | none, some c => some (c, true)
  | none, none => none

/-- Whether a Denras frame is addressed to the module (R197). -/
def State.addressed (s : State) (f : Frame) : Bool :=
  decide (f.kind = fkData) && decide (numAt f.payload 0 1 = 1) &&
    (match s.station with
     | some b => decide (bits (numAt f.payload 4 4) 19 8 = b.node0)
     | none => false)

/-- A frame copy that reaches the MAC of a lane is counted and snooped (R538, R543). -/
def State.hearCopy (s : State) (l : Lane) (c : Option RxCopy) : State :=
  match c with
  | some x => if x.complete then (s.pmc l 5 0 .plain).snoop l 5 none (frameBytes x.frame) else s.pmc l 5 0 .plain
  | none => s

/-- Two own frames in a row were truncated on a channel: the module leaves it, and turns SILENT when it has left the other one so
too (R320, R322). -/
def State.leaveChannel (s : State) (ch : Chan) : State :=
  let s1 := { s with net := { s.net with quiet := s.net.quiet.set ch 9 } }
  if 2 ≤ s1.net.trunc.x ∧ 2 ≤ s1.net.trunc.y then
    let s2 := s1.protocol dnSilent 2
    { s2 with net := { s2.net with silent := 8, trunc := .all 0 } }
  else (s1.wrM (pick ch R.DNR_STAT_INT_X R.DNR_STAT_INT_Y) 0).event 0x6004 [chanNum ch, 2]

/-- The slot of an own frame of this round has passed on a channel. Every accepted frame returns to its sender, so a frame that did
not come back whole and unmarked was truncated (R318); truncations are counted, and two in a row take the module off the channel
(R320, R322, R336). -/
def State.ownEcho (s : State) (l : Lane) (ch : Chan) (slot : Nat) (c : Option RxCopy) : State :=
  if !(s.net.sent.get ch).contains slot then s
  else
    let back : Bool := match c with | some x => x.complete && !x.truncated && decide (x.frame.node = s.nodeId) | none => false
    let s1 := if back then s else (s.wr l R.DNR_STAT_OWN_TRUNC (s.rd l R.DNR_STAT_OWN_TRUNC + 1)).pmc l 5 2 .plain
    if l ≠ s.mainLane ∨ s.dnr ≠ dnActive then s1
    else if back then { s1 with net := { s1.net with trunc := s1.net.trunc.set ch 0 } }
    else
      let n := s1.net.trunc.get ch + 1
      let s2 := { s1 with net := { s1.net with trunc := s1.net.trunc.set ch n, truncNow := s1.net.truncNow.set ch true } }
      if n = 2 then s2.leaveChannel ch else s2

/-- What the module's protocol takes from a frame that it kept: the nodes heard, requests, acknowledgements and its own
claim (R329, R331, R332). -/
def State.noteFrame (s : State) (f : Frame) : State :=
  let s1 := { s with net := { s.net with
    members := if s.net.members.contains f.node then s.net.members else f.node :: s.net.members
    requests := if f.reqv then f.req :: s.net.requests.filter (· != f.req) else s.net.requests
    acks := s.net.acks.map fun a => if a.1 = f.node then (a.1, f.ack) else a } }
  if f.kind = fkClaim ∧ f.node = s.nodeId ∧ s.rdM R.DNR_SLOT_CLAIM_STATE = 1 ∧ s.rdM R.DNR_SLOT_CLAIM_SLOT = f.slot then
    s1.wrM R.DNR_SLOT_CLAIM_STATE 2
  else s1

/-- A lane's MAC takes the copy of a slot's frame from the queue of a channel, if the channel is enabled (R43, R340). -/
def State.takeCopy (s : State) (l : Lane) (ch : Chan) (slot : Nat) : Option RxCopy × State :=
  let q := (s.lane l).rx.get ch
  match q.find? fun c => c.slot == slot with
  | none => (none, s)
  | some c =>
    (if s.rd l (pick ch R.DNR_CTRL_EN_X R.DNR_CTRL_EN_Y) = 1 then some c else none,
      s.onLane l fun x => { x with rx := x.rx.set ch (q.erase c) })

/-- The frame of a slot is written into the lane's memory. A word that the bus code refuses discards the frame, which is counted in
DNR_STAT (R279); its address is not given (log entry 145). -/
def State.macWrite (s : State) (l : Lane) (c : Option RxCopy) : Option RxCopy × State :=
  if c.isNone || !((s.lane l).bus.any fun h => h.path == .macWrite) then (c, s)
  else
    match s.drawn.cross l .macWrite 5 (8 * (s.freshNat % 2 ^ 29)) 0 with
    | (some _, s1) => (c, s1)
    | (none, s1) => (none, s1.wr l R.DNR_STAT_RXOVF (s1.rd l R.DNR_STAT_RXOVF + 1))

/-- The gather-set entry of a kept copy (R197, R335). -/
def gatherEntry (c : RxCopy) (isY : Bool) : GFrame :=
  { slot := c.frame.slot, postmark := c.postmark, crc := crc32c (frameBytes c.frame), wan := false, chanY := isY, port := c.port
    node := c.frame.node, len := c.frame.len, payload := c.frame.payload }

/-- LANE_FRAME_RECEIVED: the copies of a slot's frame reach a lane's MACs; it keeps X if good, else Y, and a telegram addressed
to the module enters the gather set being filled (R43, R197, R335). -/
def execLaneFrameReceived (l : Lane) (slot : Nat) (s : State) : Host.Outcome State Fault Refusal :=
  if (s.lane l).running = false then .next s
  else
    let qx := s.takeCopy l .x slot
    let qy := qx.2.takeCopy l .y slot
    let x := qy.2.macWrite l qx.1
    let y := x.2.macWrite l qy.1
    let s1 := ((((y.2.transferEnds l .mac).hearCopy l x.1).hearCopy l y.1).ownEcho l .x slot qx.1).ownEcho l .y slot qy.1
    match keptCopy x.1 y.1 with
    | none => .next s1
    | some (c, isY) =>
      let s2 := if isY then (s1.wr l R.DNR_STAT_COPY_Y (s1.rd l R.DNR_STAT_COPY_Y + 1)).pmc l 5 1 .plain else s1
      let s3 := if l = s2.mainLane then s2.noteFrame c.frame else s2
      .next (if s3.addressed c.frame then s3.onLane l fun z => { z with inbox := z.inbox ++ [gatherEntry c isY] } else s3)

/-! ## Frames the module sends (R44, R195, R313) -/

/-- A TWIN field: the node ID of the leader's twin (R310). The sender of slot 1 is that twin itself. -/
def State.twinBytes (s : State) : List Nat :=
  let n := if s.rdM R.DNR_STAT_TWINSYNC = 1 then s.nodeId else s.twinId
  bytesBE (if n = 0 then 0 else 0x8000 + n) 2

/-- T of the start of the current round. -/
def State.roundStart (s : State) : Nat := s.time.now / 1000000 * 1000000

/-- The SYNC payload (R351). -/
def State.syncPayload (s : State) : List Nat :=
  s.twinBytes ++ bytesBE s.roundStart 8 ++ bytesBE 0 4 ++ bytesInt s.time.extOff 8 ++ bytesInt s.time.extRate 4
    ++ [s.rdM R.TIM_STAT_EXT_VALID + 2 * s.rdM R.TIM_STAT_EXT_HOLD + 4 * s.rdM R.TIM_STAT_EXT_SRC]

/-- The MGMT payload (R310, R330). -/
def State.mgmtPayload (s : State) : List Nat :=
  let ch := if s.rdM R.DNR_STAT_INT_X = 1 then Chan.x else .y
  let flags := s.rdM R.DNR_SCHED_SEL_NOW + 4 * s.rdM R.DNR_SCHED_SEL_NEXT + 16 * s.rdM R.DNR_SCHED_SEL_PEND
    + 32 * s.rdM R.DNR_SCHED_SEL_CONF + 64 * ofBool s.net.swapRound.isSome
  bytesBE s.nodeId 2 ++ s.twinBytes ++ [flags, 0, 0, 0] ++ bytesBE (s.rdM R.DNR_SCHED_SEL_SWITCH_ROUND) 4
    ++ bytesBE (s.net.swapRound.getD 0) 4
    ++ s.claimSlots.flatMap fun sl =>
      bytesBE (match (s.rootClaims ch).find? fun c => c.slot == sl with | some c => 0x8000 + c.node | none => 0) 2

/-- A slot of this round lies in the window of R195. -/
def State.inWindow (s : State) (slot : Nat) : Bool :=
  let start := s.cyc.rounds * 1000000 + 1600 * slot
  decide (s.cyc.active) && decide (620000 + s.period * 500000 ≤ start) && decide (start + 1600 + 100000 ≤ s.period * 1000000)

/-- An alarm frame: up to five entries of one RS from the head of the alarm queue (R535, R536). -/
def State.alarmFrame (s : State) : Option (List Nat × State) :=
  match s.log.alarmQ with
  | [] => none
  | a :: _ =>
    let es := (s.log.alarmQ.takeWhile fun e => e.1 == a.1).take 5
    let body := [0x81, es.length, 0, 0] ++ bytesBE a.1 4 ++ (List.range 5).flatMap fun i =>
      match es[i]? with
      | some e => bytesBE e.2.1 2 ++ bytesBE e.2.2.1 2 ++ [0, 0, 0, 0] ++ (List.range 8).map fun j => e.2.2.2.getD j 0
      | none => List.replicate 16 0
    some (body ++ bytesBE (crc32c body) 4, { s with log := { s.log with alarmQ := s.log.alarmQ.drop es.length } })

/-- The next telegram of category 2 is taken for a SAFE pigeonhole (R378). -/
def State.takeTelegram (s : State) : Option (List Nat × State) :=
  match (s.cyc.queue.filter fun q => q.2.1 == 2)[s.cyc.sentCount]? with
  | some q =>
    some (q.2.2, { s with cyc := { s.cyc with sentCount := s.cyc.sentCount + 1 } })
  | none => none

/-- The module's own entry in a slot of this round. -/
def State.ownEntry (s : State) (slot : Nat) : Option Word :=
  s.ownTable.find? fun e => decide (seKind e = 0) && decide (seSlot e = slot) && seOccurs e s.round && decide (seNode e = s.nodeId)

/-- The payload of a CLAIM: RELEASE, and 95 bytes of diagnostic data, which the module leaves zero: its alarm entries go out in DIAG
pigeonholes only (R310, R536). -/
def claimPayload (release : Bool) : List Nat := ofBool release :: List.replicate 95 0

/-- KIND and payload of the frame that the lanes hand over for a slot, and the state in which it is fixed. -/
def State.content (s : State) (slot : Nat) : Option ((Nat × List Nat) × State) :=
  if slot = 0 then
    if s.dnr = dnCold then some ((fkCold, s.twinBytes), s)
    else if s.dnr = dnActive ∧ s.rdM R.DNR_STAT_LEADER = 1 then some ((fkSync, s.syncPayload), s) else none
  else if s.dnr ≠ dnActive then none
  else if slot = 1 then if s.rdM R.DNR_STAT_TWINSYNC = 1 then some ((fkSync, s.syncPayload), s) else none
  else if slot = 2 then if s.rdM R.DNR_STAT_LEADER = 1 then some ((fkMgmt, s.mgmtPayload), s) else none
  else
    match s.ownEntry slot with
    | some e =>
      let made := if seUse e then (if s.inWindow slot then s.takeTelegram else none) else s.alarmFrame
      some (match made with | some m => ((fkData, m.1), m.2) | none => ((fkNull, []), s))
    | none =>
      if s.net.owes.contains slot then
        some ((fkClaim, claimPayload true), { s with net := { s.net with owes := s.net.owes.filter (· != slot) } })
      else if (s.rdM R.DNR_SLOT_CLAIM_STATE = 1 ∨ s.rdM R.DNR_SLOT_CLAIM_STATE = 2) ∧ s.rdM R.DNR_SLOT_CLAIM_SLOT = slot then
        some ((fkClaim, claimPayload false), s)
      else none

/-- The content of a slot, fixed once for both channels (R335). -/
def State.fixContent (s : State) (slot : Nat) : Option ((Nat × List Nat) × State) :=
  match s.net.tx with
  | some (r, sl, k, p) =>
    if r = s.round ∧ sl = slot then some ((k, p), s)
    else (s.content slot).map fun c => (c.1, { c.2 with net := { c.2.net with tx := some (s.round, slot, c.1.1, c.1.2) } })
  | none => (s.content slot).map fun c => (c.1, { c.2 with net := { c.2.net with tx := some (s.round, slot, c.1.1, c.1.2) } })

/-- The frame as it leaves on a channel (R309). -/
def State.ownFrame (s : State) (ch : Chan) (slot kind : Nat) (p : List Nat) : Frame :=
  let l := s.mainLane
  let pend := decide (s.rdM R.DNR_SCHED_SEL_PEND = 1)
  { destX := decide (ch = .x), chan := ch, etherOk := true, hcrcOk := true, kind := kind, node := s.nodeId, slot := slot
    sched := s.rdM R.DNR_SCHED_SEL_NOW, req := s.rd l R.DNR_SCHED_SEL_REQ, reqv := decide (s.rd l R.DNR_SCHED_SEL_REQV = 1)
    ack := pend && !(tableOf (s.lane l).sched (s.rdM R.DNR_SCHED_SEL_NEXT)).isEmpty, round := s.round, state := s.dnr
    len := p.length, payload := p }

/-- Whether a transmit selector may send: channel enabled, not left, not failed, its core in service (R320, R337, R248). -/
def State.mayTransmit (s : State) (ch : Chan) : Bool :=
  s.chanEnabled ch && decide (s.net.quiet.get ch = 0) && decide (s.rdM (pick ch R.STR_STAT_SELF_X R.STR_STAT_SELF_Y) = 0)
    && decide (s.coreState ch ≠ 0) && decide (s.coreState ch ≠ 3) && !s.safe

/-- The transmit selector compares the lanes' copies bit for bit (R36, R44). `absent` are the lanes without a copy, `differ`
those whose copy differs from every other. The result says whether a copy leaves. -/
def State.selectCopy (s : State) (absent differ : Nat) : Bool × State :=
  let vs := s.voters
  let gone := vs.filter fun l => bit absent l.bit || !(s.lane l).running
  let odd := vs.filter fun l => bit differ l.bit && !gone.contains l
  let good := vs.filter fun l => !gone.contains l && !odd.contains l
  if 2 ≤ good.length then (true, s.nameLanes (odd ++ gone) srcTxsel noTaskNo)
  else if gone.length = vs.length then (false, s)
  else if vs.length = 3 ∧ gone.length = 2 then (false, s.nameLanes (odd ++ good) srcTxsel noTaskNo)
  else (false, s.latchSafe)

/-- The injection of point 0x7 in a channel's copies (R261). -/
def State.injectTx (s : State) (ch : Chan) : Nat × State :=
  Lane.list.foldl
    (fun (a : Nat × State) (l : Lane) =>
      match (a.2.lane l).inject with
      | some (7, _, b) => if b = decide (ch = .y) then (a.1 ||| l.mask, (a.2.takeInject l 7).2) else a
      | _ => a) (0, s)

/-- The instant at which the SFD of an own frame reaches port 0 of a core, in the core's time: `off` after the slot start; while the
module cold-starts, at steps of 1,000 µs from the expiry of its listen timer (R321, R345). -/
def State.sfdAt (s : State) (ch : Chan) (slot : Nat) (off : Int) : Nat :=
  if s.dnr = dnCold then s.net.coldAt + 1000000 * s.net.cold
  else ((s.star ch).epoch + (s.round * 1000000 + 1600 * slot : Nat) + off).toNat

/-- A frame leaves the transmit selector of a channel: it reaches the core on its internal port (R44, R301). -/
def State.launch (s : State) (ch : Chan) (slot : Nat) (off : Int) (f : Frame) : State :=
  let s1 := { s with net := { s.net with
    wire := s.net.wire.set ch (some f), octets := s.net.octets.set ch (wireBytes f)
    sent := s.net.sent.set ch (slot :: s.net.sent.get ch) } }
  (s1.runningLanes.foldl (fun (s : State) (l : Lane) => s.snoop l 6 none (frameBytes f)) s1).ingress ch 0 (s.sfdAt ch slot off) f true

/-- The lanes whose TST_DELAY.DNR leaves less than 20 µs between the handover of a copy and the slot start: their copies are missing
(R44, R546). -/
def State.lateHandover (s : State) (lead : Nat) : Nat :=
  maskOf (Lane.list.filter fun l => decide (lead < 20000 + s.rd l R.TST_DELAY_DNR))

/-- TRANSMIT_SLOT: a slot of the module starts on a channel, and the transmit selector sends the copy on which two lanes
agree (R44, R313). In a test round set no frame leaves, and an injection shows (R186, R261). -/
def execTransmitSlot (ch : Chan) (slot absent differ lead : Nat) (off : Int) (s : State) : Host.Outcome State Fault Refusal :=
  if s.cyc.kind = .test then
    let i := s.injectTx ch
    .next (i.2.nameLanes (Lane.list.filter fun l => bit (i.1 ||| differ) l.bit) srcTxsel noTaskNo)
  else if 588 ≤ slot then .next s
  else
    match s.fixContent slot with
    | none => .next s
    | some (c, s1) =>
      if !s.mayTransmit ch then .next s
      else
        let i := s1.injectTx ch
        let sel := i.2.selectCopy (absent ||| s.lateHandover lead) (differ ||| i.1)
        .next (if sel.1 then sel.2.launch ch slot off (s.ownFrame ch slot c.1 c.2) else sel.2)

/-! ## The start of a round (R307, R325, R344, R354 to R359) -/

/-- A star core at the start of a round: its round number, the counts of R319, R325 and R330, and a switch or swap that
falls in this round. `other` is the module's other core as it stood: with slot 0 empty on both channels in two rounds in which slot 1
carried SYNC, slot 0 is the twin's (R327). A released claim ends (R330). -/
def State.tickCore (s0 : State) (other : StarCore) (ch : Chan) : State :=
  let x := s0.star ch
  let s := (x.claims.filter fun c => c.released).foldl (fun (s : State) (c : PrClaim) => s.endClaim ch c.slot) s0
  let s1 := (List.range 9).foldl
    (fun (s : State) (p : Nat) =>
      if s.rdM (R.STR_BLOCK_CNT_BLOCKED (portN ch p)) = 1 ∧ !x.sfd.contains p then s.incM (R.STR_BLOCK_CNT_SILENT (portN ch p))
      else s) s
  let r := (x.round + 1) % 2 ^ 32
  let s2 := s1.onStar ch fun x =>
    { x with
      round := r, coldRounds := min 8 (x.coldRounds + 1), noSync := min 9 (x.noSync + 1), coldTick := none, claimTick := none
      forwarded := [], inner := [], sfd := [], theta := (none, none)
      slot0Empty := if !x.sync01.1 && x.sync01.2 && !other.sync01.1 then min 2 (x.slot0Empty + 1) else 0
      sync01 := (false, false)
      claims := x.claims.map fun c => { c with idle := min 64 (c.idle + 1) }
      seen := (x.seen.filter fun c => !c.released && decide (c.idle < 63)).map fun c => { c with idle := c.idle + 1 }
      links := x.links.map fun k => { k with t1 := none, bad := min 9 (k.bad + 1) } }
  if s2.coreState ch ≠ 2 then s2
  else
    let s3 : State := match x.switch with
      | some (n, at') =>
        if r = at' then
          ((s2.endClaims ch).wrM (pick ch R.STR_STAT_SCHED_X R.STR_STAT_SCHED_Y) n).onStar ch fun y => { y with switch := none, seen := [] }
        else s2
      | none => s2
    if x.swap = some r then s3.onStar ch fun y => { y with leader := y.twin, twin := y.leader, swap := none }
    else if 2 ≤ (s3.star ch).slot0Empty ∧ x.twin ≠ 0 then
      s3.onStar ch fun y => { y with leader := y.twin, twin := 0, slot0Empty := 0 }
    else s3

/-- The core that the lanes align to (R353). -/
def State.alignCore (s : State) : Chan := if s.coreState .x ≠ 2 ∨ s.rdM R.DNR_STAT_INT_X = 0 then .y else .x

/-- A core of a module that does not lead steers on its own θ of the domain in use; `force` admits one domain only, and Δ is as it
stood (R353, R354, R357). -/
def State.steerCore (s : State) (force : Nat) (delta : Int) (ch : Chan) : State :=
  s.onStar ch fun x =>
    { x with steer :=
      match if force = 2 then none else x.theta.1, if force = 1 then none else x.theta.2 with
      | some a, _ => x.steer.on a
      | none, some b => x.steer.on (b - delta)
      | none, none => x.steer.hold }

/-- FORCE, which in COMMISSIONING admits one domain only (R370). -/
def State.timeForce (s : State) : Nat := if s.mode = mCommissioning then s.rd s.mainLane R.TIM_DOM_SEL_FORCE else 0

/-- Both cores are steered, but for those of the leader of domain 0 (R356, R357). -/
def State.steerCores (s : State) : State :=
  if s.rdM R.DNR_STAT_LEADER = 1 then s
  else (s.steerCore s.timeForce s.time.delta .x).steerCore s.timeForce s.time.delta .y

/-- Δ, the mean difference of the two domains over 64 rounds, takes the pair of the last round (R356). -/
def State.noteDelta (s : State) (th : Option Int × Option Int) : State :=
  match th.1, th.2 with
  | some a, some b =>
    let ds := ((b - a) :: s.time.deltas).take 64
    { s with time := { s.time with deltas := ds, delta := ds.foldl (· + ·) 0 / ds.length } }
  | _, _ => s

/-- The domain that is used and its θ: domain 0, else domain 1 less Δ, which then goes down by 5 ns a round; with neither, the domain
stays (R356). -/
def State.pickDomain (s : State) (th : Option Int × Option Int) : Nat × Int × State :=
  match if s.timeForce = 2 then none else th.1, if s.timeForce = 1 then none else th.2 with
  | some a, _ => (0, a, s)
  | none, some b =>
    let d := s.time.delta
    (1, b - d, { s with time := { s.time with delta := if 0 < d then max 0 (d - 5) else min 0 (d + 5) } })
  | none, none => (s.time.dom, 0, s)

/-- A lane follows the core that it aligns to and shows it (R354, R370). -/
def State.steerLane (s : State) (dom : Nat) (theta : Int) (l : Lane) : State :=
  let y := (s.star s.alignCore).steer
  let a := ((((((s.onLane l fun x => { x with steer := y }).wr l R.TIM_RATE_LANE (y.rate % 2 ^ 32).toNat).wr l R.TIM_STAT_DOM dom).wr l
    R.TIM_STAT_DELTA (sat16 s.time.delta)).wr l R.TIM_STAT_THETA (sat16 theta)).wr l
    R.TIM_STAT_CORE (chanNum s.alignCore))
  if dom = 2 then a.inc l R.TIM_STAT_HOLD_R else a.wr l R.TIM_STAT_HOLD_R 0

/-- Steering on the SYNC of the last round (R354, R356, R357): the cores, Δ, the domain used, and the lanes. -/
def State.steer (s0 : State) : State :=
  let s := s0.steerCores
  let th := (s.star s.alignCore).theta
  let x := (s.noteDelta th).pickDomain th
  let lead := decide (s.rdM R.DNR_STAT_LEADER = 1)
  let dom := if lead then 0 else x.1
  let theta := if lead then 0 else x.2.1
  let s3 := { x.2.2 with time := { x.2.2.time with dom := dom } }
  let s4 := if s.time.dom < 2 ∧ dom < 2 ∧ dom ≠ s.time.dom then s3.event 0x7001 (bytesInt s3.time.delta 4 ++ [dom]) else s3
  s4.runningLanes.foldl (fun (s : State) (l : Lane) => s.steerLane dom theta l) s4

/-- The lanes compare their time with the cores' on becoming ACTIVE: an offset of more than 20 µs is stepped at the next
boundary, and the round set that ends there is a step round set; a smaller one is slewed out (R359). -/
def State.compareTime (s : State) : State :=
  if s.time.lag.natAbs ≤ 20000 then s
  else
    let s1 := { s with
      time := { s.time with stepBy := -s.time.lag, lag := 0 }
      cyc := { s.cyc with kind := if s.cyc.kind = RsKind.normal ∨ s.cyc.kind = RsKind.conversion then .step else s.cyc.kind } }
    (s1.runningLanes.foldl (fun (s : State) (l : Lane) => s.wr l R.TIM_STAT_STEP 1) s1).event 0x7004 []

/-- An offset of the module's own time of up to 20 µs is slewed out at 100 ppm, 100 ns a round (R359). -/
def State.slewLag (s : State) : State :=
  let d := s.time.lag
  if s.dnr = dnActive ∧ d.natAbs ≤ 20000 then
    { s with time := { s.time with lag := if 0 < d then max 0 (d - 100) else min 0 (d + 100) } }
  else s

/-- The module becomes ACTIVE (R322). -/
def State.becomeActive (s : State) : State :=
  let s1 := s.wrM R.DNR_STAT_STATE dnActive
  let s2 := { s1 with
    net := { s1.net with
      activeFor := 0, trunc := .all 0, truncNow := .all false, truncLast := .all false, slot0Empty := 0, requests := []
      members := [] } }
  s2.compareTime

/-- The upward links that a module's timing needs are measured (R322). -/
def State.linksReady (s : State) : Bool :=
  [Chan.x, .y].all fun ch => s.coreRole ch != 2 || s.coreState ch != 2 || s.rdM (R.TIM_LDLY_VALID (portN ch (s.upPort ch))) == 1

/-- The protocol state at the start of a round (R322). -/
def State.tickProtocol (s : State) : State :=
  if s.dnr = dnListen then
    { s with net := { s.net with heard := if s.net.heardNow then s.net.heard + 1 else 0, heardNow := false } }
  else if s.dnr = dnCold then
    if 7 ≤ s.net.cold then
      ((s.becomeActive.wrM R.DNR_STAT_LEADER 1).wrM R.DNR_STAT_LEADER_ID s.nodeId).wrM R.DNR_SCHED_SEL_NOW 0
    else { s with net := { s.net with cold := s.net.cold + 1 } }
  else if s.dnr = dnInteg then
    let s1 := { s with net := { s.net with timing := if s.net.heardNow then s.net.timing else 0, heardNow := false } }
    if 2 ≤ s1.net.timing ∧ s1.linksReady ∧ 8 ≤ s1.round then s1.becomeActive else s1
  else if s.dnr = dnActive then
    { s with net := { s.net with
      activeFor := min 8 (s.net.activeFor + 1)
      slot0Empty := if !s.net.sync01.1 && s.net.sync01.2 then min 2 (s.net.slot0Empty + 1) else 0 } }
  else if s.dnr = dnSilent then { s with net := { s.net with silent := s.net.silent - 1 } }
  else s

/-- Integration on the channels (R336). -/
def State.tickIntegration (s : State) : State :=
  let n := s.net
  let s1 := { s with net := { n with
    noSync := ⟨min 9 (n.noSync.x + 1), min 9 (n.noSync.y + 1)⟩, truncLast := n.truncNow, truncNow := .all false
    quiet := ⟨n.quiet.x - 1, n.quiet.y - 1⟩, sync01 := (false, false), sent := .all []
    trunc := ⟨if n.quiet.x = 1 then 0 else n.trunc.x, if n.quiet.y = 1 then 0 else n.trunc.y⟩ } }
  let one (s : State) (ch : Chan) : State :=
    let f := pick ch R.DNR_STAT_INT_X R.DNR_STAT_INT_Y
    let on := decide (s.dnr = dnActive) && decide (s.net.noSync.get ch < 9) && !s.net.truncLast.get ch && decide (s.net.quiet.get ch = 0)
    let t := s.wrM f (ofBool on)
    if on && decide (s.rdM f = 0) then t.event 0x6003 [chanNum ch] else t
  one (one s1 .x) .y

/-- A role swap of the leading pair falls in this round (R327). -/
def State.swapSync (s : State) : State :=
  if s.net.swapRound = some s.round ∧ s.dnr = dnActive then
    let lead := decide (s.rdM R.DNR_STAT_LEADER = 1)
    let twin := decide (s.rdM R.DNR_STAT_TWINSYNC = 1)
    let s1 := { s with net := { s.net with swapRound := none } }
    if lead then
      (((s1.wrM R.DNR_STAT_LEADER 0).wrM R.DNR_STAT_TWINSYNC 1).wrM R.DNR_STAT_LEADER_ID s.twinId).event 0x6040 (bytesBE s.twinId 2)
    else if twin then
      (((s1.wrM R.DNR_STAT_LEADER 1).wrM R.DNR_STAT_TWINSYNC 0).wrM R.DNR_STAT_LEADER_ID s.nodeId).event 0x6040 (bytesBE s.nodeId 2)
    else s1
  else s

/-- The events of a round that only the clocks, the caches and the links know are counted (R537, R538). -/
def State.countTicks (s : State) (ticks : List (Lane × PmcTick)) : State :=
  ticks.foldl (fun (s : State) (t : Lane × PmcTick) =>
    if (s.lane t.1).running then s.pmcMany t.1 t.2.cls t.2.num (if t.2.cls = 1 then .level t.2.lvl else .plain) t.2.count else s) s

/-- The words that pass on the XLE in a round are not given; a unit that folds them holds a free value (R543; log entry 184). -/
def State.foldXle (s : State) : State :=
  s.runningLanes.foldl (fun (s : State) (l : Lane) =>
    (s.crcUnits l 7 none ++ s.crcUnits l 8 none).foldl (fun (s : State) (u : Nat) =>
      (s.wr l (R.CRC_VAL_VAL u) (s.freshNat % 2 ^ (crcParam (s.rd l (R.CRC_CFG_POLY u))).1)).drawn) s) s

/-- ROUND_TICK: a round starts (R344): interrupt source 1 in every lane, the round number, steering on the round that ended,
the protocol's counts, and what falls at this round. -/
def execRoundTick (hits : List (Lane × BusHit)) (ticks : List (Lane × PmcTick)) (s0 : State) : Host.Outcome State Fault Refusal :=
  let s := hits.foldl (fun (s : State) (h : Lane × BusHit) => s.onLane h.1 fun x => { x with bus := x.bus ++ [h.2] }) (s0.countTicks ticks).foldXle
  let s1 := s.runningLanes.foldl (fun (s : State) (l : Lane) => (s.raise l 1).pmc l 0 2 .plain) s
  let s2 := { s1 with
    time := { s1.time with now := (s1.time.now / 1000000 + 1) * 1000000, missed := min 3 (s1.time.missed + 1) }
    cyc := { s1.cyc with rounds := s1.cyc.rounds + 1 } }
  let s3 := s2.wrM R.DNR_ROUND_ROUND (s2.round + 1)
  let s4 := if s3.dnr = dnActive then s3.steer else s3
  let s5 := ((s4.tickCore (s4.star .y) .x).tickCore (s4.star .x) .y).tickProtocol.tickIntegration.switchSchedule.slewLag
  let s6 := if s5.dnr = dnActive ∧ s5.rdM R.DNR_STAT_LEADER = 1 ∧ s5.round % 64 = 0 then s5.leadSchedules else s5
  .next s6.swapSync

end Sys2Proof.Machine
end

