-- ==== Sys2Proof/Machine/Output.lean ====
section
/-! DEFINITION. Machine/Output.lean: the dispatch start (R193, R194, R209, R211, R216, R390 to R392, R439 to R441). -/
namespace Sys2Proof.Machine

/-- Look-ahead passes that wait or run end with status 0x4; a preempted one waits too (R89, R91, R170, R193). -/
def State.cancelLook (s : State) (l : Lane) : State :=
  ((s.eng l).queue.filter fun p => decide (p.desc.kind = .look)).foldl (fun s p => s.endHeld l p 4) s

/-! ## Fresh dispatches (R209, R211, R216) -/

/-- The tasks that dispatch afresh: due, with a voted result, not overrun. -/
def State.freshTasks (s : State) : List Nat :=
  if s.cyc.kind = .normal ∧ !s.safe then s.dueTasks.filter fun t => bit s.cyc.voted t && !bit s.cyc.overran t else []

/-- What the round set leaves of the tasks' freshness (R223): a due task's bit follows this round set's dispatch. -/
def State.noteFresh (s : State) (fresh : List Nat) : State :=
  if s.runs then
    { s with cyc := { s.cyc with
      fresh := (maskTasks s.due).foldl (fun m t => setBit m t (fresh.contains t)) s.cyc.fresh } }
  else s

/-- The words of the committed state that a fresh dispatch takes: export areas, outbound DATA, output cells (R209, R377, R439). -/
def State.dispatchReads (s : State) (fresh : List Nat) : List (Nat × Ref) :=
  let own (t : Nat) : List (Nat × Ref) := (s.taskImg t).exports.map fun r => (t, r)
  let sent : List (Nat × Ref) := match s.station with
    | some b => (b.outbound.flatMap fun o => o.words.map fun r => (o.task, r)) ++ b.cells.map fun x => (x.task, x.word)
    | none => []
  fresh.flatMap own ++ sent.filter fun w => fresh.contains w.1

/-- A fresh dispatch of a task: CONSEC and STALE cleared, its export area written from the committed state. -/
def State.freshen (s : State) (t : Nat) : State :=
  let s1 := s.setConsec t 0
  let s2 := s1.wrM R.TSK_OVR_STALE (setBit (s1.rdM R.TSK_OVR_STALE) t false)
  { s2 with cyc := { s2.cyc with
    exports := (s2.cyc.exports.filter fun e => e.1 != t) ++ (s.taskImg t).exports.map fun r => (t, r, s.committedWord t r) } }

/-! ## Output cells (R220, R391, R392, R440) -/

/-- The image's entry for a local output cell. -/
def State.cellSpec (s : State) (c : Nat) : Option CellSpec :=
  match s.station with
  | some b => b.cells.find? fun x => x.cell == c
  | none => none

/-- What an applying output force gives a cell. -/
def State.forcedCell (s : State) (c : Nat) : Option Bool :=
  (s.cyc.forces.find? fun e => decide (bits e.2.1.toNat 63 60 = 2) && decide (bits e.2.1.toNat 4 0 = c)).map fun e =>
    decide (e.2.2.toNat = codeTrue)

/-- A cell that lists a connection which is LOST or RESTORING (R391, R392). -/
def State.cellWithdrawn (s : State) (c : Nat) : Bool :=
  match s.cellSpec c with
  | some x => x.deps.any s.connDown
  | none => false

/-- A cell that the changed module leaves to its twin during a comparison (R511, step 4). -/
def State.cellLeft (s : State) (c : Nat) : Bool :=
  s.unchangedOnly && (match s.cellSpec c with | some x => !x.unchanged | none => true)

/-- What one cell is written with: nothing when its MASK bit is clear. Forces apply first, then what R391 and the cell's
state require (R220, R440). -/
def State.cellWrite (s : State) (fresh : List Nat) (c : Nat) : Option Bool :=
  if s.cellLeft c then some false
  else if s.cellFailed c || s.cellWithdrawn c then some false
  else
    match s.forcedCell c, s.cellSpec c with
    | some v, _ => some v
    | none, some x => if fresh.contains x.task then some (decide (s.committedWord x.task x.word = codeTrue)) else none
    | none, none => none

/-- The module's outputs count: RUNNING, DEGRADED, or COMMISSIONING with a station image, with a role (R441, R480). -/
def State.outputsCount (s : State) : Bool :=
  s.takesPart && (decide (s.mode = mRunning) || decide (s.mode = mDegraded)
    || (decide (s.mode = mCommissioning) && s.station.isSome))

/-- CO_g is to be energised (R441). -/
def State.wantsGroup (s : State) (g : Nat) : Bool := s.outputsCount && !bit s.cutOff g && !s.cellFailed (24 + g)

/-- The TAG under which the lanes hold a group's stamp. -/
def groupTag (g : Nat) : Nat := 2 + g

/-- Every lane of the vote set requests the GROUP_ON stamp of a group. -/
def State.requestGroup (s : State) (g : Nat) : State :=
  let v := R.PWR_STAMP_REQ_ARG.put (R.PWR_STAMP_REQ_TAG.put (R.PWR_STAMP_REQ_KIND.put 0 stGroupOn) (groupTag g)) g
  s.voters.foldl (fun (s : State) (l : Lane) => s.requestStamp l v) s

/-- CO_g as the K firmware writes it: energised only under its stamp (R441, R469). -/
def State.groupWrite (s : State) (g : Nat) : Bool := s.wantsGroup g && (bit s.outReq (24 + g) || s.holdsStamp stGroupOn g)

/-- The cells that this dispatch writes. -/
def State.cellWrites (s : State) (fresh : List Nat) : List (Nat × Bool) :=
  (List.range 24).filterMap fun c => (s.cellWrite fresh c).map fun v => (c, v)

/-- FIO_OUT_REQ and FIO_LEN as this dispatch writes them. A module that takes no part writes every cell de-energised (R410,
R421). -/
def State.dispatchWord (s : State) (fresh : List Nat) : Word :=
  let cells := if s.takesPart then s.cellWrites fresh else (List.range 24).map fun c => (c, false)
  let mask := cells.foldl (fun m x => setBit m x.1 true) 0
  let val := cells.foldl (fun m x => setBit m x.1 x.2) 0
  let co := (List.range 3).foldl (fun m g => setBit m g (s.groupWrite g)) 0
  R.FIO_OUT_REQ_COMASK.put (R.FIO_OUT_REQ_MASK.put (R.FIO_OUT_REQ_CO.put (R.FIO_OUT_REQ_CELL.put 0 val) co) mask) 7

/-- The lanes write FIO_OUT_REQ and their enables (R194, R440); a CB-TX3-N has no cells to write (R2). A module that attaches keeps
what it would write. -/
def State.dispatchOutputs (s0 : State) (fresh : List Nat) : State :=
  let s := if s0.attaching then
      { s0 with twin := { s0.twin with would := (s0.cellWrites fresh).foldl (fun m x => setBit m x.1 x.2) s0.twin.would } }
    else s0
  let v := s.dispatchWord fresh
  if !s.fitted then s
  else
  let s1 := (List.range 3).foldl (fun (s : State) (g : Nat) =>
    if s.wantsGroup g && !s.groupWrite g then s.requestGroup g else s) s
  s1.voters.foldl (fun (s : State) (l : Lane) => (s.votedWrite l R.FIO_OUT_REQ v).writeLen l v) s1

/-- DISPATCH_START: look-ahead passes are cancelled, a third overrun latches SAFE, connections past their deadline are lost,
and the telegrams and output writes of the round set are built (R193, R194). Nothing is written to the outputs in a
conversion, step, test or halted round set (R186, R222, R266, R359). -/
def execDispatchStart (s : State) : Host.Outcome State Fault Refusal :=
  .next (s.once [phOutcome] phDispatch fun s =>
    let s1 := s.runningLanes.foldl State.cancelLook s
    let s2 := match maskTasks s1.cyc.third with
      | t :: _ => s1.setSafe 0x3003 [t, 3]
      | [] => s1
    if s2.cyc.kind = .test then s2
    else
      let s2' := s2.expire s2.dispatchMark 0x8002
      let fresh := s2'.freshTasks
      let s3 := s2'.readState (s2'.dispatchReads fresh)
      let s4 := (fresh.foldl State.freshen s3).wrM R.TSK_STAT_FRESH (fresh.foldl (fun m t => setBit m t true) 0)
      let s5 := (s4.noteFresh fresh).queueTelegrams
      if s5.cyc.kind = .normal ∧ !s5.safe then s5.dispatchOutputs fresh else s5)

end Sys2Proof.Machine
end

