-- ==== Sys2Proof/Machine/Twin.lean ====
section
/-! DEFINITION. Machine/Twin.lean: twin operation (chapter 11) and the twins' part of a change-over (R510 to R514). -/
namespace Sys2Proof.Machine

/-! ## Roles and states -/

/-- TWN_ROLE.STATE values (R424). -/
def twAlone : Nat := 0
def twHello : Nat := 1
def twTiming : Nat := 2
def twTransfer : Nat := 3
def twTrack : Nat := 4
def twPaired : Nat := 5
def twLeft : Nat := 6

/-- The twin state. -/
def State.tw (s : State) : Nat := s.rdM R.TWN_ROLE_STATE

/-- The twin state set. -/
def State.setTw (s : State) (v : Nat) : State := s.wrM R.TWN_ROLE_STATE v

/-- Twin operation changed. -/
def State.onTwin (s : State) (f : Twin → Twin) : State := { s with twin := f s.twin }

/-- The role. -/
def State.role (s : State) : Nat := s.rdM R.TWN_ROLE_ROLE

/-- The module becomes LEAD: cold-start leadership with it (R401). -/
def State.becomeLead (s : State) : State := (s.wrM R.TWN_ROLE_ROLE 1).wrAll R.DNR_CTRL_CS_EN 1

/-- The module becomes SHADOW, or gives up its role (R401, R410). -/
def State.loseLead (s : State) (role : Nat) : State := (s.wrM R.TWN_ROLE_ROLE role).wrAll R.DNR_CTRL_CS_EN 0

/-- The module runs alone as LEAD (R401, R409). -/
def State.runAlone (s : State) : State := ((s.becomeLead.setTw twAlone).onTwin fun x => { x with hello := none }).event 0x9003 []

/-- The pair is the leading pair: its node or its twin's is the Denras leader (R399). -/
def State.leadingPair (s : State) : Bool :=
  let id := s.rdM R.DNR_STAT_LEADER_ID
  decide (id ≠ 0) && (decide (id = s.nodeId) || decide (id = s.twinId))

/-- A frame or record of the twin was received on the twin link. -/
def State.seenTwin (s : State) : State := s.onTwin fun x => { x with lastFrame := some s.time.now }

/-- The tasks that the station image enables. -/
def State.enabledTasks (s : State) : List Nat :=
  match s.station with
  | some b => (b.tasks.filter fun t => bit t.cfg.toNat 63).map fun t => t.task
  | none => []

/-- The tasks still to transfer, lowest first (R414). -/
def State.toTransfer (s : State) : List Nat := (List.range 16).filter fun t => s.enabledTasks.contains t && !s.twin.transferred.contains t

/-- The transfer of tasks starts again at step 4 of R414. -/
def State.restartTransfer (s : State) : State :=
  let s1 := (s.setTw twTransfer).onTwin fun x => { x with transferred := [], equalRun := 0 }
  s1.wrM R.TWN_ROLE_XFER_LEFT s1.toTransfer.length

/-- A task's transfer is complete; after the last one the module, or its twin, is in TRACK (R414). -/
def State.transferDone (s : State) (t : Nat) : State :=
  let s1 := s.onTwin fun x => { x with transferred := x.transferred ++ [t], equalRun := 0 }
  let n := s1.toTransfer.length
  let s2 := s1.wrM R.TWN_ROLE_XFER_LEFT n
  if n = 0 then s2.setTw twTrack else s2

/-! ## HELLO (R400, R401, R480, R516, R519) -/

/-- The image identity of a HELLO is acceptable: equal, or as a change-over allows (R400, R519). -/
def State.helloIdentOk (s : State) (h : Hello) : Bool :=
  let open' (n : Nat) : Bool := decide (n = upCommitted) || decide (n = upCompare)
  decide (h.ident = identOf s.upd.active)
    || (decide (h.ident = identOf s.upd.inactive) && s.upd.inactive.isSome && (open' s.stage || open' h.stage))

/-- The HELLO that the module sends (R400, R516). -/
def State.ownHello (s : State) : Hello :=
  { wellFormed := true, position := s.rdM R.TWN_ROLE_POS, node := s.nodeId, serial := s.modReg R.SYS_SERIAL, hwtype := s.hwType
    ident := identOf s.upd.active, twinProto := (s.sec.booted.map fun i => i.twinProto).getD 0, stage := s.stage
    commissioning := decide (s.mode = mCommissioning) }

/-- The cause for which a HELLO is refused, 0 for none (R400, R606). Firmware with another TWINPROTO counts as image
identity (R516). -/
def State.helloCause (s : State) (h : Hello) : Nat :=
  let protoOk : Bool := match s.sec.booted with | some i => decide (h.twinProto = i.twinProto) | none => true
  if !h.wellFormed then 5
  else if h.position = s.rdM R.TWN_ROLE_POS then 1
  else if h.node ≠ s.twinId then 2
  else if h.hwtype ≠ s.hwType then 3
  else if !s.helloIdentOk h || !protoOk then 4
  else 0

/-- A HELLO is refused: the module runs alone; one that has changed over to an image its twin no longer agrees to goes back
to the old slot (R400, R519). -/
def State.refuseHello (s : State) (h : Hello) (cause : Nat) : State :=
  let s1 := (s.wrM R.TWN_CMP_LAST 7).event 0x9002 [cause]
  let newHere : Bool := match s.upd.active with
    | some i => decide (i.base = h.ident) && decide (h.ident = identOf s.upd.inactive) && s.upd.inactive.isSome
    | none => false
  let s2 := if cause = 4 && newHere then s1.onUpd fun u => { u with revert := true } else s1
  if s2.tw = twAlone ∨ s2.tw = twLeft then s2
  else (s2.runAlone.wrM R.TWN_ROLE_XFER_LEFT 0).onTwin fun x => { x with transferred := [], equalRun := 0, outcome := none }

/-- HELLO_RECEIVED (R400, R401). A module in COMMISSIONING accepts none; one that hears COMMISSIONING waits (R480). -/
def execHelloReceived (h : Hello) (s : State) : Host.Outcome State Fault Refusal :=
  if !s.twinOn || decide (s.mode ≤ mStarting) || s.safe then .next s
  else
    let s1 := s.seenTwin.onTwin fun x => { x with twinComm := h.wellFormed && h.commissioning }
    if s1.mode = mCommissioning ∨ s1.twin.twinComm then .next s1
    else
      let cause := s1.helloCause h
      if cause ≠ 0 then .next (s1.refuseHello h cause)
      else
        let s2 := (s1.onTwin fun x => { x with hello := some h }).wrM R.TWN_ROLE_PARTNER h.node
        if s2.tw = twHello then
          .next ((if s2.rdM R.TWN_ROLE_POS = 0 then s2.becomeLead else s2).setTw twTiming)
        else if s2.tw = twAlone then .next (s2.setTw twTiming)
        else .next s2

/-- HELLO_TIMEOUT: no HELLO was accepted within 2 s of the end of STARTING (R401). -/
def execHelloTimeout (s : State) : Host.Outcome State Fault Refusal :=
  .next (if s.tw = twHello ∧ !s.twin.twinComm ∧ !s.safe then s.runAlone else s)

/-- TWIN_LINK_CHANGE: a fibre pair goes up or down; both down is the link down (R422, R424). -/
def execTwinLinkChange (pairB up : Bool) (s : State) : Host.Outcome State Fault Refusal :=
  let was := decide (s.rdM R.TWN_ROLE_LINK_A = 1) || decide (s.rdM R.TWN_ROLE_LINK_B = 1)
  let s1 := s.wrM (if pairB then R.TWN_ROLE_LINK_B else R.TWN_ROLE_LINK_A) (ofBool up)
  let now := decide (s1.rdM R.TWN_ROLE_LINK_A = 1) || decide (s1.rdM R.TWN_ROLE_LINK_B = 1)
  if was && !now then
    let s2 := s1.event 0x9016 []
    .next (if s2.tw = twTransfer ∨ s2.tw = twTrack then s2.restartTransfer else s2)
  else .next s1

/-! ## Input records (R403 to R406) -/

/-- One entry of CONNS: accepted in this gather set, and bits 14:0 of its SCRC. -/
def Conn.entry (c : Conn) : Bool × Nat := match c.accepted with | some x => (true, x) | none => (false, 0)

/-- The module's own input record (R403). -/
def State.inputRecord (s : State) : InputRec :=
  { rs := s.k, att := decide (s.role = 0), alone := !s.twin.met, field := if s.fitted then (List.range 48).map s.input else List.replicate 48 .zero
    inst := s.cyc.inst, conns := s.inbound.map fun e => (s.conn e.conn).entry, chkOk := true }

/-- TWIN_INPUT_RECORD_SEND: the record goes to the twin link, while a twin attaches or is attached (R404), as a copy on which two
lanes agree; the other lanes are reported to CMP (R402). -/
def execTwinInputRecordSend (absent differ : Nat) (s : State) : Host.Outcome State Fault Refusal :=
  .next (s.once [phAgree] phTwinSend fun s =>
    if s.exchanges then
      let sel := s.selectCopy absent differ
      if sel.1 then sel.2.onTwin fun x => { x with sent := some s.inputRecord } else sel.2
    else s)

/-- TWIN_INPUT_RECORD: the twin's record of this round set; one that comes late, of another round set or damaged is ignored, and of
the two fibre pairs' copies the first good one counts (R45, R404). -/
def execTwinInputRecord (rec : InputRec) (s : State) : Host.Outcome State Fault Refusal :=
  .next (if s.exchanges ∧ rec.chkOk ∧ rec.rs = s.k ∧ !s.did phPair then
    s.seenTwin.onTwin fun x => { x with got := x.got.orElse fun _ => some rec } else s)

/-- A telegram that the pair does not accept is withdrawn: the connection returns to its state before this gather set
and posts as if no telegram of it had come
(R405). -/
def State.withdrawConn (s : State) (e : InConn) : State :=
  let c := s.conn e.conn
  match c.before with
  | some (ph, seq, tLast, data, bytes) =>
    ((s.setConn { c with
      phase := ph, seq := seq, tLast := tLast, data := data, bytes := bytes, accepted := none, failed := false, fresh := false }).incM
      R.TWN_CMP_HOLD_CNT).event 0x9017 (bytesBE e.conn 4)
  | none => s

/-- The connections are combined, entry by entry of the inbound table (R405). -/
def State.pairConns (s : State) (theirs : List (Bool × Nat)) : State :=
  s.inbound.zipIdx.foldl
    (fun (s : State) (e : InConn × Nat) =>
      let own := (s.conn e.1.conn).entry
      if own.1 && theirs.getD e.2 (false, 0) != own then s.withdrawConn e.1 else s) s

/-- The field inputs are combined as the two-present rows of R201, against the previous values; a module that attaches takes
its twin's (R405, R406). -/
def State.pairInputs (s : State) (r : InputRec) : State :=
  let one (i : Nat) : Tri :=
    let v := r.field.getD i .unknown
    if s.role = 0 then v else (agreeTri [s.input i, v] (s.cyc.prev.getD i .unknown)).1
  { s with cyc := { s.cyc with
    inputs := if s.fitted then (List.range nField).map fun i => if i < 48 then one i else s.input i else []
    inst := if s.role = 0 then r.inst else min s.cyc.inst r.inst } }

/-- The posted words that the combination changes are rewritten (R404). -/
def State.repost (s : State) (t : Nat) : State :=
  let img := s.taskImg t
  let mapped := s.mappedWords t
  let changed := s.changedWords t mapped
  let ws := mapped.filter fun w => changed.contains w.1
  if ws.isEmpty then s
  else
    let f := changeFilter changed
    let one (s : State) (l : Lane) : State :=
      let d := s.rd l (R.RTE_DPREV_DPREV t)
      let s1 := ws.foldl (fun (s : State) (w : Ref × Nat) => s.postWord l img (s.codingA l) d w.1 w.2) s
      match assoc (s1.eng l).areas t with
      | some a =>
        let s1 := s1.visit l [a + 0x18, a + 0x20]
        let old (i : Nat) : Word := ((s1.lane l).good (a + i)).getD 0
        (s1.writeWord l none mCore0 (some 2) (a + 0x18) (old 0x18 ||| f.1)).writeWord l none mCore0 (some 2) (a + 0x20) (old 0x20 ||| f.2)
      | none => s1
    let go := s.postingLanes.filter fun l => !s.cyc.heldFlags.contains (l.code, t)
    let s1 := go.foldl one s
    { s1 with cyc := { s1.cyc with posted := (s1.cyc.posted.filter fun p => p.1 != t) ++ mapped.map fun w => (t, w.1, w.2) } }

/-- PAIR_COMBINATION: with a record of the twin that counts, inputs and connections are combined; without one the module keeps
its own and the round set is UNPAIRED. Loss at the sorting is decided afterwards (R404 to R406). -/
def execPairCombination (s : State) : Host.Outcome State Fault Refusal :=
  .next (s.once [phPost] phPair fun s =>
    if !s.exchanges then s
    else
      let s1 := match s.twin.got with
        | some r =>
          if r.att then s.onTwin fun x => { x with paired := false }
          else
            ((s.pairInputs r).pairConns r.conns).onTwin fun x => { x with paired := true }
        | none => s.onTwin fun x => { x with paired := false }
      let s2 := s1.loseAtSorting
      if s2.runs then s2.dueTasks.foldl State.repost s2 else s2)

/-! ## Compare records (R407, R408) -/

/-- The cluster round number of the next boundary (R407). -/
def State.nextBoundaryRound (s : State) : Nat := (s.round + (s.period - s.cyc.rounds)) % 2 ^ 32

/-- A clean round set (R407). -/
def State.cleanRs (s : State) : Bool := decide (s.cyc.named = 0) && decide (s.cyc.overran = 0) && !s.safe

/-- The module's own compare record (R407). A module that attaches reports what it would have applied and released. -/
def State.compareRecord (s : State) : CompareRec :=
  let pend := decide (s.rdM R.TWN_SWST_PEND = 1)
  { rs := s.k, nextb := s.nextBoundaryRound, clean := s.cleanRs, safe := s.safe
    conv := decide (s.cyc.kind = .conversion), step := decide (s.cyc.kind = .step), forced := !s.cyc.forces.isEmpty
    unpaired := !s.twin.paired, track := decide (s.role = 0), swapreq := pend, role := s.role, due := s.due
    outreq := if s.attaching then s.twin.would else bits s.outReq 23 0
    swapk := if pend then s.rdM R.TWN_SWST_SWAPK else 0
    vseal := (List.finRange 16).map fun t => if bit s.due t.val && bit s.cyc.voted t.val then s.cyc.vseal[t] else 0
    telegrams := s.twin.released, chkOk := true }

/-- The module's own update record (R510). -/
def State.updateRecord (s : State) : UpdRec :=
  { rs := s.k, ident := identOf s.upd.inactive, stage := s.stage, ready := s.upd.ready, kc := s.rdM R.UPD_CHG_KC, chkOk := true }

/-- COMPARE_RECORD_SEND: after the dispatch close (R407), as a copy on which two lanes agree (R402); by the same deadline the update
record (R510) and the cut-off notice to an attached twin (R448) go. -/
def execCompareRecordSend (absent differ : Nat) (s : State) : Host.Outcome State Fault Refusal :=
  .next (s.once [phClose] phCompareSend fun s =>
    if s.exchanges then
      let sel := s.selectCopy absent differ
      if sel.1 then sel.2.onTwin fun x =>
        { x with
          own := some s.compareRecord
          ownUpd := some s.updateRecord
          notice := if s.paired then some (s.k, s.field.cutOwn) else none }
      else sel.2
    else s)

/-- COMPARE_RECORD: the twin's record of this round set (R407, R408); the first good copy counts (R45). -/
def execCompareRecord (rec : CompareRec) (s : State) : Host.Outcome State Fault Refusal :=
  .next (if s.exchanges ∧ rec.chkOk ∧ rec.rs = s.k ∧ !s.did phTwin then
    s.seenTwin.onTwin fun x => { x with theirs := x.theirs.orElse fun _ => some rec } else s)

/-! ## The decision (R409) -/

/-- Two lists of released telegrams are equal, connection by connection. -/
def sameTelegrams (xs ys : List (Nat × List Nat)) : Bool :=
  decide (xs.length = ys.length) && xs.all fun x => ys.contains x

/-- The compare of R408. -/
def equalRecords (x y : CompareRec) : Bool :=
  decide (x.rs = y.rs) && decide (x.nextb = y.nextb) && decide (x.due = y.due) && decide (x.outreq = y.outreq)
    && decide (x.vseal = y.vseal) && decide (x.forced = y.forced) && sameTelegrams x.telegrams y.telegrams

/-- The new station image of a change-over: S runs it, L holds it in its inactive slot. -/
def State.newStation (s : State) : Option StationBody := if s.upd.isS then s.station else s.upd.inactive.bind fun i => i.station

/-- The compare of a change-over: UNCHANGED cells and connections only (R511, step 4). -/
def State.equalChanged (s : State) (x y : CompareRec) : Bool :=
  match s.newStation with
  | none => false
  | some b =>
    let mask := (b.cells.filter fun c => c.unchanged).foldl (fun m c => setBit m c.cell true) 0
    let same (r : CompareRec) : List (Nat × List Nat) :=
      r.telegrams.filter fun t => b.outbound.any fun o => o.conn == t.1 && o.unchanged
    decide (x.rs = y.rs) && decide (x.due = y.due) && decide (x.forced = y.forced)
      && decide (x.outreq &&& mask = y.outreq &&& mask) && sameTelegrams (same x) (same y)

/-- The outcome at the next boundary. -/
def State.setOutcome (s : State) (row : Nat) : State := s.onTwin fun x => { x with outcome := some row }

/-- The row of R409 that two records which differ give. -/
def differRow (own theirs : Bool) : Nat :=
  match own, theirs with
  | true, false => 4
  | false, true => 5
  | true, true => 6
  | false, false => 7

/-- TWN_CMP.LAST for a row: whether it is this module that leaves. -/
def State.lastOf (s : State) (row : Nat) : Nat :=
  match row with
  | 4 => 1
  | 5 => 2
  | 6 => 3
  | _ => if s.role = 2 then 2 else 1

/-- The records are unequal: while the twin attaches the transfer starts again, else a module leaves (R409, R414). -/
def State.recordsDiffer (s : State) (own theirs : CompareRec) : State :=
  let s1 := ((s.wrM R.TWN_CMP_DIFF 1).incM R.TWN_CMP_DIFF_CNT).onTwin fun x => { x with equalRun := 0 }
  if s1.paired then
    let row := differRow own.clean theirs.clean
    (s1.wrM R.TWN_CMP_LAST (s1.lastOf row)).setOutcome row
  else if s1.tw = twTrack then s1.restartTransfer
  else s1

/-- The records are equal. -/
def State.recordsEqual (s : State) : State :=
  ((s.wrM R.TWN_CMP_DIFF 0).wrM R.TWN_CMP_LAST 0).onTwin fun x => { x with equalRun := x.equalRun + 1 }

/-- The compare of a change-over (R511 to R513): equal ones count towards READY, an unequal one abandons it. -/
def State.compareChange (s : State) (own theirs : CompareRec) : State :=
  if s.equalChanged own theirs then
    let s1 := s.recordsEqual.incM R.UPD_STAT_CMP_OK
    let go := decide (s1.rd s1.mainLane R.UPD_CTRL_CMP_RS ≤ s1.rdM R.UPD_STAT_CMP_OK) && decide (s1.guards = 0)
    s1.onUpd fun u => { u with ready := go }
  else
    (((s.wrM R.TWN_CMP_DIFF 1).incM R.TWN_CMP_DIFF_CNT).onTwin fun x => { x with equalRun := 0 }).abandon 0xC023 []

/-- The SHADOW takes a swap that the LEAD's record requests (R417). -/
def State.takeSwap (s : State) (theirs : CompareRec) : State :=
  if s.role = 2 ∧ s.paired ∧ theirs.role = 1 ∧ theirs.swapreq then
    (s.wrM R.TWN_SWST_PEND 1).wrM R.TWN_SWST_SWAPK theirs.swapk
  else s

/-- Both records of a round set are there (R408, R409, R412). Row 0x9 is a step of this module, 0x19 one of its twin. -/
def State.decideRecords (s0 : State) (own theirs : CompareRec) : State :=
  let s := (((((s0.takeSwap theirs).wrM R.TWN_CMP_MISS 0).wrM R.TWN_CMP_OCLEAN (ofBool own.clean)).wrM R.TWN_CMP_PCLEAN (ofBool theirs.clean)).onTwin
    fun x => { x with missRun := 0 })
  if theirs.safe then (s.wrM R.TWN_CMP_LAST 4).setOutcome 1
  else if own.step || theirs.step then
    let keep := own.step && theirs.step && decide (own.nextb = theirs.nextb) && decide (own.rs = theirs.rs)
    let t := s.wrM R.TWN_CMP_LAST 6
    if keep || !t.paired then t
    else if own.step && theirs.step then t.setOutcome 7
    else if own.step then t.setOutcome 9
    else t.setOutcome 0x19
  else if own.conv || theirs.conv then s.wrM R.TWN_CMP_LAST 6
  else if s.stage = upCompare ∧ !s.upd.alone then s.compareChange own theirs
  else if equalRecords own theirs then s.recordsEqual
  else s.recordsDiffer own theirs

/-- The twin's record is missing (R409). -/
def State.recordMissing (s0 : State) (framesSeen : Bool) : State :=
  let s := ((s0.wrM R.TWN_CMP_MISS 1).incM R.TWN_CMP_MISS_CNT).onTwin fun x => { x with equalRun := 0 }
  if !framesSeen then (s.wrM R.TWN_CMP_LAST 4).setOutcome 1
  else
    let n := s.twin.missRun + 1
    let s1 := s.onTwin fun x => { x with missRun := if 2 ≤ n then 0 else n }
    if n < 2 then s1.wrM R.TWN_CMP_LAST 6
    else
      let s2 := (s1.wrM R.TWN_CMP_LAST 5).event 0x9016 []
      if s2.paired then s2.setOutcome 2 else if s2.tw = twTrack ∨ s2.tw = twTransfer then s2.restartTransfer else s2

/-! ## Trails (R234) -/

/-- The first window in which the trails of the running lanes differ. -/
def State.firstWindow (s : State) : Option Nat :=
  let entry (l : Lane) (off : Nat) : Option Word := (s.lane l).good (s.rd l R.CMP_SCOPE_TRAIL_BASE * 0x10000 + off)
  let differ (off : Nat) : Bool :=
    match s.runningLanes with
    | l :: rest => rest.any fun v => entry v off != entry l off
    | [] => false
  (List.range 4096).find? fun n => differ (8 * n) || differ (0x8000 + 8 * n)

/-- After a seal disagreement on the traced task, a vote that failed among them, the lanes exchange their trails (R234). -/
def State.exchangeTrails (s : State) : State :=
  let l := s.mainLane
  let t := s.rd l R.CMP_SCOPE_TRAIL_TASK
  if bit s.cyc.sealOff t && decide (s.rd l R.CMP_SCOPE_TRAIL_EN = 1) then
    let s := s.runningLanes.foldl (fun (s : State) (v : Lane) =>
      s.visit v ((List.range 0x2000).map fun n => s.rd v R.CMP_SCOPE_TRAIL_BASE * 0x10000 + 8 * n)) s
    match s.firstWindow with
    | some n => (s.wrAll R.CMP_MISMATCH_FIRST_WIN n).event 0x4051 ([t] ++ bytesBE n 2)
    | none => s
  else s

/-- TWIN_COMPARE: both twins decide from the same two records; `framesSeen` says whether frames of the twin were seen on
Denras in this round set (R408, R409). The lanes exchange trails in the same phase (R234). -/
def execTwinCompare (framesSeen : Bool) (s : State) : Host.Outcome State Fault Refusal :=
  .next (s.once [phClose] phTwin fun s0 =>
    let s := s0.exchangeTrails
    if !s.exchanges then s
    else match s.twin.theirs with
      | some r => (s.decideRecords (s.twin.own.getD s.compareRecord) r).onTwin fun x =>
          { x with would := if s.tw = twTransfer then r.outreq else x.would }
      | none => s.recordMissing framesSeen)

/-! ## Transfer (R414, R415) -/

/-- The bytes of a task's transfer: 4 bytes a footprint word, and the runtime block (R415, R416). -/
def transferSize (t : TaskImage) : Nat :=
  4 * (16 * (t.footprint.countP fun f => !f.route) + 8 * (t.footprint.countP fun f => f.route)) + t.rtSize

/-- The export area of a task as its twin sends it (R209, R415). -/
def State.takeExports (s : State) (tr : Transfer) : State :=
  { s with cyc := { s.cyc with
    exports := (s.cyc.exports.filter fun (e : Nat × Ref × Nat) => e.1 != tr.task) ++ tr.exports.map fun (e : Ref × Nat) => (tr.task, e.1, e.2) } }

/-- The connections of the task stand as the twin has them (R394). -/
def State.takeConns (s : State) (cs : List ConnCopy) : State :=
  cs.foldl (fun (s : State) (x : ConnCopy) =>
    s.setConn { s.conn x.conn with phase := x.phase, seq := x.seq, tLast := x.tLast, data := x.data }) s

/-- TASK_TRANSFER: the attaching module's lanes write the words of the next task, each with its own A and the transferred D, and the
runtime block stands as transferred; of a task that has not been transferred the export area is taken (R254, R255, R414, R415). -/
def execTaskTransfer (tr : Transfer) (s : State) : Host.Outcome State Fault Refusal :=
  if !s.twinOn || decide (s.role ≠ 0) || decide (s.tw ≠ twTransfer) then .next s
  else if tr.exportsOnly then
    .next (if s.toTransfer.contains tr.task then s.seenTwin.takeExports tr else s)
  else if s.toTransfer.head? ≠ some tr.task then .next s
  else
    let img := s.taskImg tr.task
    let s1 := s.seenTwin.runningLanes.foldl
      (fun (s : State) (l : Lane) => s.writeTask l img (s.codingA l) tr.dprev (tr.words.filter fun (w : Ref × Nat) => inFoot img w.1)) s.seenTwin
    let s2 := { s1 with cyc := { s1.cyc with
      firstRun := setBit s1.cyc.firstRun tr.task false
      inputs := tr.prevInputs ++ s1.cyc.inputs.drop tr.prevInputs.length
      lastSent := (s1.cyc.lastSent.filter fun (y : Nat × List Nat × Nat × Bool) => !(tr.sent.any fun x => x.1 == y.1)) ++ tr.sent } }
    let s3 := ((s2.takeExports tr).takeConns tr.conns).setConsec tr.task tr.consec
    .next ((s3.transferDone tr.task).event 0x9011 ([tr.task] ++ bytesBE (transferSize img) 4))

/-- The export area of a task as the LEAD sends it before the task's transfer (R415). -/
def State.exportBlock (s : State) (t : Nat) : Transfer :=
  { task := t, exportsOnly := true, words := [], prevInputs := [], conns := []
    exports := s.cyc.exports.filterMap fun e => if e.1 = t then some (e.2.1, e.2.2) else none
    sent := [], consec := 0, dprev := 0 }

/-- The transfer of a task as a lane's copy gives it (R254, R415). -/
def State.transferOf (s : State) (l : Lane) (t : Nat) : Transfer :=
  let mine (c : Nat) : Bool := match s.station with | some b => b.outbound.any fun o => o.conn == c && o.task == t | none => false
  { s.exportBlock t with
    exportsOnly := false
    words := (copyWords (s.taskImg t)).map fun r => (r, (s.plainWord l t r).getD codeUnknown)
    prevInputs := s.cyc.inputs
    conns := (s.inbound.filter fun e => e.task == t).map fun e =>
      let c := s.conn e.conn
      { conn := c.conn, phase := c.phase, seq := c.seq, tLast := c.tLast, data := c.data }
    sent := s.cyc.lastSent.filter fun x => mine x.1
    consec := s.consec t
    dprev := s.rd l (R.RTE_DPREV_DPREV t) }

/-- The twin link interface takes the lanes' copies of state words (R402): the answer is a lane whose copy leaves, one of two that
agree. A lane that cannot read a word has no copy. -/
def State.agreedCopy (s0 : State) (ws : List (Nat × Ref)) : Option Lane × State :=
  let s := s0.readState ws
  let copy (l : Lane) : Option (List Nat) := ws.mapM fun (w : Nat × Ref) => s0.plainWord l w.1 w.2
  let vs := s.voters
  let absent := vs.filter fun l => (copy l).isNone
  let differ := vs.filter fun l => vs.all fun v => decide (v = l) || decide (copy v ≠ copy l)
  let sel := s.selectCopy (maskOf absent) (maskOf differ)
  (if sel.1 then vs.find? fun l => !absent.contains l && !differ.contains l else none, sel.2)

/-- A task's transfer leaves, as a copy on which two lanes agree (R402, R414). -/
def State.sendTransfer (s0 : State) (t : Nat) : State :=
  match s0.agreedCopy ((copyWords (s0.taskImg t)).map fun r => (t, r)) with
  | (some l, s) => (s.transferDone t).onTwin fun x => { x with block := [s0.transferOf l t] }
  | (none, s) => s

/-- The LEAD's side: the transfer of the next task runs from the dispatch close of a round set in which it is due (R414), and the
export areas of the tasks still to transfer go with each fresh dispatch of theirs (R415). -/
def State.leadTransfers (s0 : State) : State :=
  let s := s0.onTwin fun x => { x with block := [] }
  if s.twinOn && decide (s.role = 1) && decide (s.tw = twTransfer) then
    match s.toTransfer with
    | t :: _ =>
      let s1 := if bit s.due t then s.sendTransfer t else s
      s1.onTwin fun x => { x with
        block := x.block ++ ((s1.toTransfer.filter fun u => bit s.due u && !bit s.cyc.overran u).map s1.exportBlock) }
    | [] => s.setTw twTrack
  else s

/-! ## Role swaps (R417 to R419) -/

/-- The conditions under which swaps run (R417). -/
def State.swapOk (s : State) : Bool :=
  s.twinOn && s.paired && decide (8 ≤ s.twin.equalRun) && !s.changing && decide (s.cyc.kind ≠ .conversion)
    && decide (s.rdM R.DNR_SCHED_SEL_PEND = 0)

/-- The start of the second schedule cycle after this round set, and the first round set whose boundary falls at or after
it. -/
def State.swapPlace (s : State) : Nat × Nat :=
  let r0 := (s.round + 2 ^ 32 - s.cyc.rounds) % 2 ^ 32
  let at' := (r0 + s.period + 63) / 64 * 64 + 64
  (at' % 2 ^ 32, s.k + (at' - r0 + s.period - 1) / (max 1 s.period))

/-- The LEAD requests a swap: SWAPREQ and SWAPK, and for the leading pair the Denras swap (R417). While the conditions do not
hold it is requested again at the next boundary at which they do. -/
def State.requestSwap (s : State) : State :=
  if s.role ≠ 1 ∨ s.rdM R.TWN_SWST_PEND = 1 then s
  else if !s.swapOk then s.onTwin fun x => { x with swapWanted := true }
  else
    let p := s.swapPlace
    let s1 := ((s.wrM R.TWN_SWST_PEND 1).wrM R.TWN_SWST_SWAPK p.2).onTwin fun x => { x with swapWanted := false }
    if s1.rdM R.DNR_STAT_LEADER = 1 then { s1 with net := { s1.net with swapRound := some p.1 } } else s1

/-- ROLE_SWAP_REQUEST: the LEAD's operating hours since the last swap or pairing have reached HOURS (R417). A failed proof
suspends it (R419). -/
def execRoleSwapRequest (s : State) : Host.Outcome State Fault Refusal :=
  let h := s.rdM R.TWN_SWAP_HOURS
  .next (if h ≠ 0 ∧ s.twin.since + 60 * h ≤ s.opmin ∧ s.swapOk ∧ !s.twin.suspended then s.requestSwap else s)

/-- TWIN_SWAP_REQUEST: TWN_CTRL.SWAP, a voted write (R417). -/
def execTwinSwapRequest (l : Lane) (c : CoreId) (s : State) : Host.Outcome State Fault Refusal :=
  .next (s.regAccess l c R.TWN_CTRL true fun s => s.votedWrite l R.TWN_CTRL (R.TWN_CTRL_SWAP.put (s.modReg R.TWN_CTRL) 1))

/-- TWIN_DETACH: TWN_CTRL.DETACH, a voted write (R410). -/
def execTwinDetach (l : Lane) (c : CoreId) (s : State) : Host.Outcome State Fault Refusal :=
  .next (s.regAccess l c R.TWN_CTRL true fun s => s.votedWrite l R.TWN_CTRL (R.TWN_CTRL_DETACH.put (s.modReg R.TWN_CTRL) 1))

/-- This module leaves at the next boundary under DETACH (R410). -/
def State.detach (s : State) : State := if s.role ≠ 0 ∧ s.tw ≠ twAlone then s.setOutcome 8 else s

/-- The write close applies TWN_CTRL: EN in STARTING only, SWAP and DETACH act (R424). -/
def State.applyTwinCtrl (s : State) (v : Word) : State :=
  let s1 := if s.mode = mStarting then s.wrM R.TWN_CTRL_EN (R.TWN_CTRL_EN.of v) else s
  let s2 := if R.TWN_CTRL_SWAP.of v = 1 then s1.requestSwap else s1
  if R.TWN_CTRL_DETACH.of v = 1 then s2.detach else s2

/-- The proofs that the new LEAD owes (R418): maintenance port, cold start, time leader in the leading pair, external time
when the image uses it. -/
def State.owedProofs (s : State) : List Nat :=
  let ext : Bool := match s.station with | some b => b.ppsIn || b.ptpEn | none => false
  [0, 1] ++ (if s.leadingPair then [2] else []) ++ (if ext then [3] else [])

/-- TWIN_FUNCTION_PROOF: a proof passes or fails (R418, R419). -/
def execTwinFunctionProof (fn : Nat) (ok : Bool) (s : State) : Host.Outcome State Fault Refusal :=
  if !s.twin.proofs.contains fn then .next s
  else
    let s1 := s.onTwin fun x => { x with proofs := x.proofs.filter (· != fn) }
    if ok then .next s1
    else
      let s2 := (s1.wrM R.TWN_ROLE_FN_FAIL (setBit (s1.rdM R.TWN_ROLE_FN_FAIL) fn true)).event 0x9021 [fn]
      .next (s2.onTwin fun x => { x with suspended := true, swapWanted := x.swapWanted || s2.paired })

/-- The roles change at the boundary of SWAPK, or the swap is dropped (R417, R422). -/
def State.swapBoundary (s : State) : State :=
  if s.rdM R.TWN_SWST_PEND = 0 ∨ s.rdM R.TWN_SWST_SWAPK ≠ s.k % 2 ^ 32 then s
  else
    let s1 := s.wrM R.TWN_SWST_PEND 0
    if !s.swapOk || s.twin.outcome.isSome then (s1.event 0x9022 []).onTwin fun x => { x with swapWanted := decide (s.role = 1) }
    else
      let s2 := if s1.role = 1 then s1.loseLead 2 else
        s1.becomeLead.onTwin fun x => { x with proofs := s1.owedProofs }
      (s2.onTwin fun x => { x with since := s2.opmin, equalRun := 0 }).event 0x9020 []

/-! ## The pair at a boundary (R409 to R414) -/

/-- This module leaves (R410, R411): no role, and it attaches again from step 3; DETACH and a change-over do not count. -/
def State.leavePair (s : State) (row : Nat) : State :=
  let counts := decide (row ≠ 8) && decide (row ≠ 0xA)
  let ls := if counts then s.opmin :: s.twin.leaves.filter fun t => decide (s.opmin < t + 60) else s.twin.leaves
  let s1 := (((s.loseLead 0).setTw twTiming).event 0x9014 [row]).onTwin fun x =>
    { x with leaves := ls, transferred := [], equalRun := 0, missRun := 0 }
  let s2 := s1.wrM R.TWN_SWST_PEND 0
  if counts && decide (3 ≤ ls.length) then (s2.setTw twLeft).event 0x9015 [] else s2

/-- The twin has left: this module is LEAD, and the twin attaches again (R410). -/
def State.twinLeft (s : State) (row : Nat) : State :=
  (((s.becomeLead.setTw twTiming).wrM R.TWN_SWST_PEND 0).event 0x9013 [row]).onTwin fun x =>
    { x with transferred := [], equalRun := 0, missRun := 0 }

/-- The twin is absent: this module runs alone as LEAD (R409). A change-over that has compared is then complete for S, and
abandoned for L (R513, R514). -/
def State.twinAbsent (s : State) : State :=
  let s1 := ((s.twinLeft 1).runAlone).wrM R.TWN_ROLE_XFER_LEFT 0
  if s1.changing && !s1.upd.alone then
    if s1.upd.isS && decide (upConvert ≤ s1.stage) then
      ((s1.setStage upChanged).event 0xC024 []).onUpd fun u => { u with ready := false }
    else (s1.abandon 0xC025 [3]).onTwin fun x => { x with outcome := none }
  else s1

/-- The outcome of the twin compare takes effect (R409 to R412). Rows 2, 6 and 7 name the SHADOW. -/
def State.twinOutcome (s0 : State) : State :=
  match s0.twin.outcome with
  | none => s0
  | some row =>
    let s := s0.onTwin fun x => { x with outcome := none }
    if row = 1 then s.twinAbsent
    else if row = 0x19 then s.twinLeft 0xFF
    else if row = 5 ∨ 8 ≤ row ∨ ((row = 2 ∨ row = 6 ∨ row = 7) ∧ s.role = 2) then
      (if s.changing && !s.upd.alone && decide (row ≠ 0xA) then s.abandon 0xC025 [3] else s).leavePair row |>.onTwin fun x =>
        { x with outcome := none }
    else (if s.changing && !s.upd.alone then s.abandon 0xC023 [] else s).twinLeft row |>.onTwin fun x => { x with outcome := none }

/-- Attaching moves on at a boundary (R414): the LEAD sends its k and boundary; the attaching module sets k from them once it has
them (R185); and after two equal compares in TRACK the module is SHADOW. -/
def State.attachBoundary (s : State) (lead : Option (Nat × Nat)) : State :=
  if !s.twinOn then s
  else if s.tw = twTiming then
    match s.role, lead with
    | 0, none => s
    | 0, some (k, _) => (s.restartTransfer.setModReg R.TSK_RSNUM (BitVec.ofNat 64 k)).event 0x9010 []
    | _, _ => s.restartTransfer
  else if s.tw = twTrack ∧ 2 ≤ s.twin.equalRun then
    let s1 := (s.setTw twPaired).onTwin fun x => { x with since := s.opmin }
    let s2 := if s1.stage = upChanged ∨ s1.stage = upReattach then s1.setStage upIdle else s1
    if s2.role = 0 then (s2.loseLead 2).event 0x9012 [] else s2
  else s

/-- The pair at a boundary: a swap that falls due, attaching, the outcome, and a swap that waits for its conditions. A Denras leader
that is not the LEAD of its pair announces that the duty passes to its twin (R413). -/
def State.twinBoundary (s : State) (lead : Option (Nat × Nat)) : State :=
  let s1 := (s.swapBoundary.attachBoundary lead).twinOutcome
  let s2 := if s1.twin.swapWanted && s1.swapOk then s1.requestSwap else s1
  if s2.role ≠ 1 ∧ twTiming ≤ s2.tw ∧ s2.rdM R.DNR_STAT_LEADER = 1 ∧ s2.net.swapRound.isNone ∧ s2.rdM R.TWN_SWST_PEND = 0
      ∧ s2.rdM R.DNR_SCHED_SEL_PEND = 0 then
    { s2 with net := { s2.net with swapRound := some s2.swapPlace.1 } }
  else s2

/-! ## Update records and handover (R510 to R513) -/

/-- The twin's update record shows another place in the change-over than this module's (R511, R513): S in a commit or its conversion
expects L's COMMITTED, and both compare in the same round sets, with one kc. -/
def State.disagrees (s : State) (rec : UpdRec) : Bool :=
  let kc := decide (s.rdM R.UPD_CHG_KC % 2 ^ 32 ≠ rec.kc % 2 ^ 32)
  if s.upd.alone then false
  else if s.upd.isS then
    if s.stage = upCommitted then decide (rec.stage ≠ upCommitted)
    else if s.stage = upConvert then decide (rec.stage ≠ upCommitted) || kc
    else decide (s.stage = upCompare) && (decide (rec.stage ≠ upCompare) || kc)
  else decide (s.stage = upCompare) && decide (rec.stage ≠ upCompare)

/-- UPDATE_RECORD (R510, R511): S adopts kc on receipt, and a later kc that L announces; a disagreement abandons the change-over
(R513). -/
def execUpdateRecord (rec : UpdRec) (s : State) : Host.Outcome State Fault Refusal :=
  if !s.twinOn || !rec.chkOk || decide (rec.rs ≠ s.k) then .next s
  else
    let s1 := s.seenTwin.onTwin fun x => { x with upd := if x.upd.any (fun u => u.rs == rec.rs) then x.upd else some rec }
    let kc := s1.nearRs rec.kc
    if !s1.paired then .next s1
    else if s1.role = 2 ∧ s1.stage = upReady ∧ rec.stage = upCommitted ∧ rec.ident = identOf s1.upd.inactive ∧ s1.upd.inactive.isSome then
      .next ((((s1.setStage upCommitted).wrM R.UPD_CHG_KC kc).event 0xC020 []).onUpd fun u =>
        { u with alone := false, isS := true, since := s1.opmin, ready := false })
    else if s1.disagrees rec then .next (s1.abandon 0xC023 [])
    else if s1.role = 2 ∧ s1.stage = upCommitted ∧ s1.upd.isS ∧ rec.stage = upCommitted then .next (s1.wrM R.UPD_CHG_KC kc)
    else .next s1

/-- A timer of the new image under the handover: L's values, then R225. -/
def State.handTimer (s : State) (words : List (Nat × Ref × Nat)) (t : TaskImage) (x : TimerSpec) : List (Ref × Nat) :=
  let trem := refAt x.tstate (refWord x.tstate + 1)
  let get (r : Ref) : Option Nat := (words.find? fun w => w.1 == t.task && w.2.1 == r).map fun w => w.2.2
  let old := match s.upd.inactive.bind fun i => i.station with
    | some b => (b.tasks.flatMap fun (u : TaskImage) => u.timers).find? fun (y : TimerSpec) => y.tstate == x.tstate
    | none => none
  match get x.tstate, get trem, old with
  | some st, some rem, some y =>
    if y.duration = x.duration ∧ y.fingerprint = x.fingerprint then [(x.tstate, st), (trem, rem)]
    else if st = stateCode 1 then [(x.tstate, stateCode 1), (trem, 0)]
    else [(x.tstate, stateCode 3), (trem, x.duration)]
  | _, _, _ => []

/-- The words of a task that a handover sets: carried words, and the timers. -/
def State.handWords (s : State) (r : HandoverRec) (t : TaskImage) : List (Ref × Nat) :=
  let carried := (r.words.filter fun w => w.1 == t.task && t.marks.any fun m => m.1 == w.2.1 && m.2 == CarryMark.carry).map fun w => w.2
  carried ++ t.timers.flatMap (s.handTimer r.timers t)

/-- The words that the handover carries for the new image: its CARRY words, and TSTATE and TREM of its timers, each with the task
that holds it now and the task that takes it (R512). -/
def carriedWords (old new : StationBody) : List (Nat × Nat × Ref) × List (Nat × Nat × Ref) :=
  let here (t : TaskImage) (r : Ref) : Option (Nat × Nat × Ref) := (ownerOf old t.task r).map fun u => (u.task, t.task, r)
  (new.tasks.flatMap fun t => (t.marks.filter fun m => m.2 == CarryMark.carry).filterMap fun m => here t m.1
   , new.tasks.flatMap fun t => (t.timers.flatMap fun x => [x.tstate, refAt x.tstate (refWord x.tstate + 1)]).filterMap (here t))

/-- The handover of a lane's copy: carried words, timer words, and the export area of each task whose export layout is unchanged
(R512). -/
def State.handoverOf (s : State) (l : Lane) (old new : StationBody) : HandoverRec :=
  let ws := carriedWords old new
  let vals (xs : List (Nat × Nat × Ref)) : List (Nat × Ref × Nat) := xs.map fun x => (x.2.1, x.2.2, (s.plainWord l x.1 x.2.2).getD codeUnknown)
  { words := vals ws.1, timers := vals ws.2
    exports := s.cyc.exports.filter fun e => new.tasks.any fun t => t.task == e.1 && old.tasks.any fun u => u.task == t.task && u.exports == t.exports }

/-- From the dispatch close of kc, L hands over its committed state of kc, as a copy on which two lanes agree (R402, R511, R512). -/
def State.leadHandover (s0 : State) : State :=
  let s := s0.onTwin fun x => { x with handover := none }
  if s.twinOn && s.paired && !s.upd.isS && !s.upd.alone && decide (s.stage = upCommitted) && decide (s.k = s.kc) then
    match s.station, s.upd.inactive.bind fun i => i.station with
    | some old, some new =>
      let ws := carriedWords old new
      match s.agreedCopy ((ws.1 ++ ws.2).map fun x => (x.1, x.2.2)) with
      | (some l, s1) => s1.onTwin fun x => { x with handover := some (s.handoverOf l old new) }
      | (none, s1) => s1
    | _, _ => s
  else s

/-- HANDOVER: S applies L's committed state of kc over its converted state, with D(kc) (R511, R512). -/
def execHandover (rec : HandoverRec) (s : State) : Host.Outcome State Fault Refusal :=
  if !s.twinOn || !s.upd.isS || s.upd.alone || decide (s.stage ≠ upConvert) then .next s
  else
    match s.station with
    | none => .next s
    | some b =>
      let s0 := s.seenTwin
      let d := dsigOf (s0.rdM R.UPD_CHG_KC)
      let s1 := s0.runningLanes.foldl
        (fun (s : State) (l : Lane) =>
          b.tasks.foldl (fun (s : State) (t : TaskImage) =>
            (s.handWords rec t).foldl (fun (s : State) (w : Ref × Nat) => s.postWord l t (b.codingA.get l) d w.1 w.2) s) s) s0
      let ex := rec.exports.filter fun (e : Nat × Ref × Nat) => s1.cyc.exports.any fun (x : Nat × Ref × Nat) => x.1 == e.1 && x.2.1 == e.2.1
      let s2 := { s1 with cyc := { s1.cyc with
        exports := s1.cyc.exports.map fun (x : Nat × Ref × Nat) =>
          match ex.find? fun (e : Nat × Ref × Nat) => e.1 == x.1 && e.2.1 == x.2.1 with | some e => e | none => x } }
      .next (((s2.setStage upCompare).wrM R.UPD_STAT_CMP_OK 0).event 0xC022 [])

end Sys2Proof.Machine
end

