-- ==== Sys2Proof/Machine/Close.lean ====
section
/-! DEFINITION. Machine/Close.lean: the write close (R34 to R42), the copy and readmission of a lane (R253 to R258), the
configuration readback (R263, R264) and retraining of the XLE (R271). -/
namespace Sys2Proof.Machine

/-! ## The vote of pending values (R36, R37) -/

/-- What the vote on one register gives: the value to apply, the lanes that did otherwise, and whether it failed. -/
structure Ruling (α : Type) where
  value : Option α
  odd : List Lane
  fail : Bool
deriving DecidableEq, Repr

/-- The vote on one register: "no write" counts as an outcome like any value (R36). -/
def rule {α : Type} [DecidableEq α] (xs : List (Lane × Option α)) : Ruling α :=
  match xs with
  | [(la, x), (lb, y), (lc, z)] =>
    if x = y ∧ y = z then ⟨x, [], false⟩
    else if x = y then ⟨x, [lc], false⟩
    else if x = z then ⟨x, [lb], false⟩
    else if y = z then ⟨y, [la], false⟩
    else ⟨none, [], true⟩
  | [(_, x), (_, y)] => if x = y then ⟨x, [], false⟩ else ⟨none, [], true⟩
  | _ => ⟨none, [], false⟩

/-! ## Applying an agreed value -/

/-- A value applied under the register's access codes: RW bits take it, agreed W1C bits clear (R37). -/
def State.applyCoded (s : State) (a : Nat) (v : Word) : State :=
  match rowOf a with
  | some r => s.setModReg a (codedWrite r false (s.modReg a) v)
  | none => s

/-- A star core is switched off by its role, or starts in LISTEN (R321, R341). A role code that is not listed is not
applied. -/
def State.applyStarRole (s : State) (ch : Chan) (role : Nat) : State :=
  let old := s.coreRole ch
  if role = 3 ∨ role = old then s
  else
    let s1 := s.wrM (pick ch R.STR_CTRL_ROLE_X R.STR_CTRL_ROLE_Y) role
    let on : Bool := match ch with | .x => s.power.d5.1 | .y => s.power.d5.2
    if role = 0 then
      (if s.coreState ch = 3 then s1
       else ((s1.setCoreState ch 0).onStar ch fun c => { resetStar with tables := c.tables }).event 0x6041 [chanNum ch, 1])
    else if on ∧ s.coreState ch = 0 then s1.setCoreState ch 1
    else s1

/-- STR_CTRL: upward ports and depths, then the roles. -/
def State.applyStarCtrl (s : State) (v : Word) : State :=
  let s1 := (s.wrM R.STR_CTRL_ULEVEL_X (R.STR_CTRL_ULEVEL_X.of v)).wrM R.STR_CTRL_ULEVEL_Y (R.STR_CTRL_ULEVEL_Y.of v)
  let s2 := (s1.wrM R.STR_CTRL_UP_X (R.STR_CTRL_UP_X.of v)).wrM R.STR_CTRL_UP_Y (R.STR_CTRL_UP_Y.of v)
  (s2.applyStarRole .x (R.STR_CTRL_ROLE_X.of v)).applyStarRole .y (R.STR_CTRL_ROLE_Y.of v)

/-- STR_WINDOW: a value outside 100 to 400 ns is not applied (R342). -/
def State.applyWindow (s : State) (v : Word) : State :=
  let inRange (n : Nat) : Bool := decide (100 ≤ n) && decide (n ≤ 400)
  if inRange (R.STR_WINDOW_EARLY.of v) && inRange (R.STR_WINDOW_LATE.of v) then s.applyCoded R.STR_WINDOW v else s

/-- STR_PORT_CTRLn: MEDIA 0b11 is not applied (R342). -/
def State.applyPort (s : State) (n : Nat) (v : Word) : State :=
  let f := R.STR_PORT_CTRL_MEDIA n
  s.applyCoded (R.STR_PORT_CTRL n) (if f.of v = 3 then f.put v (f.of (s.modReg (R.STR_PORT_CTRL n))) else v)

/-- FIO_OUT_REQ changes only under its masks (R439). A change of CO_g starts SETTLE anew; a write that energises exactly one
cell is kept for the partner search (R447, R450). -/
def State.applyOutReq (s : State) (v : Word) : State :=
  let mask := R.FIO_OUT_REQ_MASK.of v + R.FIO_OUT_REQ_COMASK.of v * 2 ^ 24
  let val := bits v.toNat 26 0
  let old := s.outReq
  let new := (List.range 27).foldl (fun m c => setBit m c (if bit mask c then bit val c else bit old c)) 0
  let changed (g : Nat) : Bool := bit new (24 + g) != bit old (24 + g)
  let lit := (List.range 24).filter fun c => bit new c && !bit old c
  let s1 := s.setModReg R.FIO_OUT_REQ (BitVec.ofNat 64 new)
  { s1 with field := { s1.field with
    settled := (List.range 3).foldl (fun m g => if changed g then setBit m g false else m) s1.field.settled
    fbRun := s1.field.fbRun.filter fun (x : Nat × Nat × Nat) => !changed x.1
    lone := match lit with | [c] => some c | _ => none } }

/-- FIO_PULSE is applied field by field: TP, DARK and LIGHT in STARTING and in a conversion round set, EN = 0 in
COMMISSIONING, EN = 1 always (R455). -/
def State.applyPulse (s : State) (v : Word) : State :=
  let free : Bool := decide (s.mode = mStarting) || decide (s.cyc.kind = RsKind.conversion)
  let tp := R.FIO_PULSE_TP.of v
  let dk := R.FIO_PULSE_DARK.of v
  let lt := R.FIO_PULSE_LIGHT.of v
  let en := R.FIO_PULSE_EN.of v
  let s1 := if free && decide (100 ≤ tp) && decide (tp ≤ 800) then s.wrM R.FIO_PULSE_TP tp else s
  let s2 := if free && decide (100 ≤ dk) && decide (dk ≤ 300) && decide (dk % 20 = 0) then s1.wrM R.FIO_PULSE_DARK dk else s1
  let s3 := if free && decide (10 ≤ lt) && decide (lt ≤ 50) then s2.wrM R.FIO_PULSE_LIGHT lt else s2
  if en = 1 ∨ s.mode = mCommissioning then s3.wrM R.FIO_PULSE_EN en else s3

/-- The agreed value of a voted register acts. -/
def State.applyVoted (s : State) (a : Nat) (v : Word) : State :=
  if a = R.STR_CTRL then s.applyStarCtrl v
  else if a = R.STR_WINDOW then s.applyWindow v
  else if R.STR_PORT_CTRL 0 ≤ a ∧ a < R.STR_PORT_CTRL 18 then s.applyPort ((a - R.STR_PORT_CTRL 0) / 8) v
  else if a = R.TWN_CTRL then s.applyTwinCtrl v
  else if a = R.TWN_SWAP then (if R.TWN_SWAP_HOURS.of v ≤ 168 then s.applyCoded a v else s)
  else if a = R.PWR_DOM_CTRL then s.applyDomCtrl v
  else if a = R.PWR_BUDGET then s.applyBudget v
  else if a = R.FIO_OUT_REQ then s.applyOutReq v
  else if a = R.FIO_PULSE then s.applyPulse v
  else s.applyCoded a v

/-- The agreed stream of STR_GT_DATA replaces the selected table in both cores; a load of a schedule in force or of more than
8,192 entries is refused (R342). -/
def State.applyStream (s : State) (sel : Nat) (ws : List Word) : State :=
  let inForce (ch : Chan) : Bool := decide (s.coreState ch = 2) && decide (s.coreSched ch = sel)
  if inForce .x || inForce .y || decide (8192 < ws.length) then
    (s.incM R.STR_VW_REFUSE_CNT).event 0x6042 ([sel] ++ bytesBE ws.length 2)
  else
    let put (c : StarCore) : StarCore := { c with tables := Vector.ofFn fun i => if i.val = sel then ws else c.tables[i] }
    (s.onStar .x put).onStar .y put

/-- Whether a register is voted and takes writes. -/
def takesVoted (a : Nat) : Bool :=
  isVoted a && (match rowOf a with | some r => decide (r.rw ≠ 0) || decide (r.wo ≠ 0) | none => false)

/-- A shared block records a lane's write (R34): the guardian stream appends (R342), a read-only register takes none. -/
def State.recordVoted (s : State) (l : Lane) (a : Nat) (v : Word) : State :=
  if a = R.STR_GT_DATA then s.writeStream l v else if takesVoted a then s.votedWrite l a v else s

/-! ## The write close of a block (R35, R36, R42) -/

/-- The shared blocks, by address bits 31:16: PWR, STR, FIO, TWN. -/
def sharedBlocks : List Nat := [0xF001, 0xF008, 0xF00B, 0xF00C]

/-- The registers of a block that a lane of the vote set has written, in ascending order. -/
def State.pendingIn (s : State) (block : Nat) : List Nat :=
  let m : List (Nat × Bool) := s.voters.foldl (fun (m : List (Nat × Bool)) (l : Lane) =>
    ((s.lane l).pend.filter fun (p : Nat × Word) => p.1 / 65536 == block).foldl
      (fun (m : List (Nat × Bool)) (p : Nat × Word) => mapInsert m p.1 true)
      (if block = 0xF008 ∧ (s.lane l).stream ≠ [] then mapInsert m R.STR_GT_DATA true else m)) []
  m.map fun p => p.1

/-- Whether a lane has written any voted register of a block. -/
def LaneState.wroteIn (x : LaneState) (block : Nat) : Bool :=
  (x.pend.any fun p => p.1 / 65536 == block) || (decide (block = 0xF008) && !x.stream.isEmpty)

/-- What the votes of a block have given so far. -/
structure Closing where
  st : State
  odd : List Lane
  fail : Bool

/-- One register of a block is voted and applied; LAST_OFF follows a change (R42). -/
def Closing.reg (x : Closing) (vs : List Lane) (s0 : State) (a : Nat) : Closing :=
  let stream := decide (a = R.STR_GT_DATA)
  let rw := rule (vs.map fun l => (l, assoc (s0.lane l).pend a))
  let rs := rule (vs.map fun l => (l, if (s0.lane l).stream = [] then none else some (s0.lane l).stream))
  let st := if stream then (match rs.value with | some ws => x.st.applyStream (x.st.rdM R.STR_GT_CTRL_SEL) ws | none => x.st)
    else (match rw.value with | some v => x.st.applyVoted a v | none => x.st)
  let changed : Bool := if stream then decide ((st.star .x).tables ≠ (x.st.star .x).tables) else decide (st.modReg a ≠ x.st.modReg a)
  { st := if changed then st.wrM (vwLastOff a) (a % 65536) else st
    odd := x.odd ++ (if stream then rs.odd else rw.odd)
    fail := x.fail || (if stream then rs.fail else rw.fail) }

/-- The write close of one block: every register that was written is voted, and the report register follows (R36, R42). -/
def State.closeBlock (s : State) (block : Nat) : Closing :=
  let vs := s.voters
  let base := block * 65536
  let x := (s.pendingIn block).foldl (fun (x : Closing) (a : Nat) => x.reg vs s a) { st := s, odd := [], fail := false }
  let odd := vs.filter fun l => x.odd.contains l
  let agree := if x.fail then [] else vs.filter fun l => !x.odd.contains l
  let s1 := (x.st.wrM (vwWrote base) (maskOf (Lane.list.filter fun l => (s.lane l).wroteIn block))).wrM (vwAgree base) (maskOf agree)
  { st := (s1.wrM (vwFail base) (ofBool x.fail)).wrM (vwLate base) 0, odd := odd, fail := x.fail }

/-- The write close of one block after others: what it reports joins what they reported. -/
def Closing.block (x : Closing) (block : Nat) : Closing :=
  let y := x.st.closeBlock block
  { st := y.st, odd := x.odd ++ y.odd, fail := x.fail || y.fail }

/-! ## Configuration readback (R263) -/

/-- Shared configuration registers in table order: those of STR, which the guardian tables follow, and the others. -/
def strAddrs : List Nat := (List.range 18).map R.STR_PORT_CTRL ++ [R.STR_WINDOW]
def otherAddrs : List Nat := [R.TWN_SWAP, R.PWR_BUDGET]
def sharedAddrs : List Nat := strAddrs ++ otherAddrs

/-- The guardian tables of both cores, as they are read back. -/
def State.guardWords (s : State) : List Word :=
  ((s.star .x).tables.toList ++ (s.star .y).tables.toList).flatMap tableEntries

/-- The shared registers as read back. -/
def State.sharedConfigWords (s : State) : List Word := strAddrs.map s.modReg ++ s.guardWords ++ otherAddrs.map s.modReg

/-- The lane-local registers as a lane reads them back. -/
def State.localConfigWords (s : State) (l : Lane) : List Word :=
  [s.regRaw l R.TSK_RSET] ++ (List.range 16).map (fun t => s.regRaw l (R.TSK_CFG t))
    ++ [s.regRaw l R.RTE_CTRL &&& 0xF] ++ ([R.RTE_IMG_BASE, R.RTE_CTX_BASE, R.ARB_PRIO, R.ARB_HOLDMAX, R.MEM_SCRUB, R.CMP_SCOPE,
      R.DNR_SCHED_SEL].map (s.regRaw l)) ++ (s.lane l).sched.toList.flatMap tableEntries
    ++ (if s.fitted then (List.range 48).map fun n => s.regRaw l (R.FIO_DEB n) else [])

/-- The lane-local CRC. -/
def State.localCrc (s : State) (l : Lane) : Word := crc64Words (s.localConfigWords l)

/-- From the dispatch close every running lane reads its registers back. -/
def State.readback (s : State) : State :=
  let shared := crc64Words s.sharedConfigWords
  s.runningLanes.foldl (fun (s : State) (l : Lane) =>
    (s.setLaneReg l R.CMP_CFGCRC (s.localCrc l)).setLaneReg l R.CMP_CFGSHR shared) s

/-- A shared register in which every lane of the vote set sees the same difference from its shadow (R264). -/
def State.sharedOff (s : State) (a : Nat) : Bool :=
  match s.voters with
  | [] => false
  | l :: rest =>
    let sh (v : Lane) : Word := mapGet resetOf (s.lane v).shadow a
    sh l != s.modReg a && rest.all fun v => sh v == sh l

/-- The guardian tables that differ from their shadow in every lane of the vote set alike, in one core or both. -/
def State.tablesOff (s : State) : List Nat :=
  match s.voters with
  | [] => []
  | l :: rest =>
    let sh (v : Lane) (i : Fin 4) : List Word := ((s.lane v).shadowTab)[i]
    ((List.finRange 4).filter fun i =>
      (((s.star .x).tables)[i] != sh l i || ((s.star .y).tables)[i] != sh l i) && rest.all fun v => sh v i == sh l i).map Fin.val

/-- The blocks that differ from their shadow in every lane alike. -/
def State.blocksOff (s : State) : List Nat :=
  [0xF0010000, 0xF0080000, 0xF00C0000].filter fun b =>
    (sharedAddrs.any fun a => decide (a / 65536 * 65536 = b) && s.sharedOff a) || (decide (b = 0xF0080000) && !s.tablesOff.isEmpty)

/-- A guardian table is rewritten from the shadow, by a stream that the lanes agree on (R264, R342). -/
def State.rewriteTable (s : State) (i : Nat) : State :=
  match s.voters with
  | l :: _ => s.applyStream i ((s.lane l).shadowTab.toList.getD i [])
  | [] => s

/-- The lanes rewrite a block from the shadow by voted write (R264): where a lane has not written the register anyway. -/
def State.rewrite (s : State) (b : Nat) : State :=
  let as := sharedAddrs.filter fun a => decide (a / 65536 * 65536 = b) && s.sharedOff a
  let s1 := s.voters.foldl (fun (s : State) (l : Lane) => s.onLane l fun x =>
    { x with pend := as.foldl (fun m a => if (assoc m a).isSome then m else mapInsert m a (mapGet resetOf x.shadow a)) x.pend }) s
  (if b = 0xF0080000 then s1.tablesOff.foldl State.rewriteTable s1 else s1).event 0x4031 (bytesBE b 4)

/-- Rewrites that are due at this write close. -/
def State.rewriteDue (s : State) : State :=
  s.cyc.cfgFail.foldl (fun (s : State) (p : Nat × Nat) =>
    if p.2 = 1 then
      let s1 := s.rewrite p.1
      { s1 with cyc := { s1.cyc with cfgFail := mapInsert s1.cyc.cfgFail p.1 2 } }
    else s) s

/-! ## The state copy (R253 to R255) -/

/-- Whether both links of a lane to the lanes of the vote set are up, and it is not absent. -/
def State.reachable (s : State) (o : Lane) : Bool :=
  !bit (s.rdM R.XLE_STAT_ABS_MOD) o.bit && s.voters.all fun v => decide (s.rd o (upField o v) = 1)

/-- Whether a lane's active image is that of the lanes of the vote set (R253, step 1). -/
def State.sameImage (s : State) (o : Lane) : Bool := s.voters.all fun v => (s.lane v).imageId == (s.lane o).imageId

/-- The copy of an isolated lane starts at the dispatch close, from the lane of the vote set with the lower code; one that is
to be repeated keeps its source. A lane with another image goes to OUT (R253). -/
def State.startCopy (s : State) : State :=
  let cand := Lane.list.find? fun o => decide (s.st o = 1) && bit s.cyc.isolated o.bit && s.reachable o
  match cand, s.voters with
  | some o, [v, _] =>
    if s.cyc.copy.any (fun p => p.1 == o) || s.cyc.prob == some o then s
    else if s.sameImage o then { s with cyc := { s.cyc with copy := some (o, v) } }
    else s.holdOut o
  | _, _ => s

/-- The votes of the write close: all blocks vote on what the lanes wrote before it, and the shadow of a guardian table follows
what a lane has streamed into it (R263), then the odd lanes are named and a failure
latches SAFE (R36). What naming makes the lanes write, as R258 has it, waits for the next write close. An injection at point 0x6
shows here as the lane's differing value (R261). -/
def State.closeWrites (s : State) : State :=
  let x := sharedBlocks.foldl Closing.block { st := s.rewriteDue, odd := [], fail := false }
  let sel := x.st.rdM R.STR_GT_CTRL_SEL
  let s1 := x.st.onLanes fun x =>
    { x with
      pend := [], stream := []
      shadowTab := if x.stream = [] then x.shadowTab else Vector.ofFn fun i => if i.val = sel then x.stream else x.shadowTab[i] }
  let s2 := s1.nameLanes (Lane.list.filter fun l => x.odd.contains l) srcVw noTaskNo
  let s3 := if x.fail then s2.latchSafe else s2
  Lane.list.foldl (fun (s : State) (l : Lane) =>
    let x := s.takeInject l 6
    if x.1.isSome then x.2.nameLane l srcVw noTaskNo else s) s3

/-- What else the dispatch close does: the PPS pin follows its holder (R576), a conversion round set sends the field
configuration anew (R436), readback (R263), alarm entries (R536), copies (R253), transfers (R414) and the handover
(R511) start. -/
def State.afterClose (s : State) : State :=
  let holder := (s.lane s.mainLane).holder resPps
  let s1 := { s with time := { s.time with pin := holder } }
  let s2 := if s1.cyc.kind = RsKind.conversion then { s1 with field := { s1.field with cfgOut := List.range 49 } } else s1
  s2.readback.appendAlarms.startCopy.leadTransfers.leadHandover

/-- A voted write that reaches a shared block after the close has begun counts for the next close and sets the lane's bit in
LATE (R41). -/
def State.lateWrite (s : State) (w : Lane × Nat × Word) : State :=
  let late := vwLate w.2.1
  if (s.lane w.1).running && takesVoted w.2.1 && !setsReserved w.2.1 w.2.2 then
    (s.recordVoted w.1 w.2.1 w.2.2).wrM late (setBit (s.rdM late) w.1.bit true)
  else s

/-- WRITE_CLOSE: at the dispatch close every shared block votes the pending values and applies them (R35, R36), while later
writes wait for the next close (R41). The readback follows, the alarm entries are appended, and a state copy starts (R253,
R263, R536). -/
def execWriteClose (late : List (Lane × Nat × Word)) (s : State) : Host.Outcome State Fault Refusal :=
  .next (s.once [phDispatch] phClose fun s => (late.foldl State.lateWrite s.closeWrites).afterClose)

/-- A word that the XLE receive path writes; what the bus code refuses is not written (R279, R285). -/
def State.xleWrite (s : State) (o : Lane) (a : Nat) (w : Word) : Bool × State :=
  match s.cross o .copyWrite 5 a w with
  | (some w, s1) => (true, s1.writeWord o none mXle none a w)
  | (none, s1) => (false, s1)

/-- A lane reads the words of a copy (R253): whether it met none that is damaged beyond correction. -/
def State.copyRead (s : State) (v : Lane) (ts : List TaskImage) : Bool × State :=
  let as := ts.flatMap fun t => (copyWords t).map fun r => t.stateBase + refOffset r
  (as.all fun a => ((s.lane v).good a).isSome, s.visit v as)

/-- The XLE receive path of the isolated lane writes the words of a task with its own A and the source's D (R255): whether every
write was taken (R279). -/
def State.copyTask (x : Bool × State) (o v : Lane) (t : TaskImage) : Bool × State :=
  let d := x.2.rd v (R.RTE_DPREV_DPREV t.task)
  let a := x.2.codingA o
  let put (x : Bool × State) (r : Ref) : Bool × State :=
    let addr := t.stateBase + refOffset r
    let n := (x.2.plainWord v t.task r).getD 0
    let y := x.2.xleWrite o addr (BitVec.ofNat 64 n)
    let z := y.2.xleWrite o (addr + 8) (encodeWord a n (sigB t r) d)
    (x.1 && y.1 && z.1, z.2)
  let x1 := (copyWords t).foldl put x
  (x1.1, (x1.2.wr o (R.RTE_DPREV_DPREV t.task) d).wr o (R.RTE_DPREV_VALID t.task) 1)

/-- How a copy ends: as the lanes report it, unless the source or the digest lane met a damaged word in its own memory, or the bus
code refused a write (R253, R279). -/
def State.copyEnd (s : State) (o v : Lane) (ts : List TaskImage) (res : CopyEnd) : CopyEnd × State :=
  let src := s.copyRead v ts
  let dig := match s.voters.find? fun w => w != v with | some w => src.2.copyRead w ts | none => (true, src.2)
  if src.1 = false then (.sourceDamaged, dig.2)
  else if dig.1 = false then (.digestDamaged, dig.2)
  else
    match res with
    | .good =>
      let x := ts.foldl (fun (x : Bool × State) (t : TaskImage) => State.copyTask x o v t) (true, dig.2)
      (if x.1 then .good else .incomplete, x.2)
    | r => (r, dig.2)

/-- A lane whose cores had stopped runs again once it is resynchronised, from KVEC (R48, R81; log entry 150). -/
def State.restart (s : State) (o : Lane) : State :=
  if (s.lane o).running then s else s.onLane o fun x => x.release x.core0.kvec

/-- STATE_COPY_COMPLETE: a good copy puts the lane into PROBATION from the next boundary; another one is repeated in the next
round set, with source and digest lane exchanged when the source met a damaged word (R253). -/
def execStateCopyComplete (res : CopyEnd) (s : State) : Host.Outcome State Fault Refusal :=
  match s.cyc.copy with
  | none => .next s
  | some (o, v) =>
    if !s.did phClose || s.did phState || decide (s.st o ≠ 1) then .next s
    else
      let e := (s.mark phState).copyEnd o v (match s.station with | some b => b.tasks | none => []) res
      let s0 := e.2
      let again (s : State) (why : Nat) : State := s.event 0x4003 [why]
      .next (match e.1 with
        | .good =>
          let s1 := s0.restart o
          { s1 with cyc := { s1.cyc with copy := none, prob := some o } }.event 0x4002 []
        | .digestDiffers => again s0 1
        | .incomplete => again s0 2
        | .digestDamaged => again s0 3
        | .sourceDamaged =>
          let other := (s0.voters.find? fun w => w != v).getD v
          again { s0 with cyc := { s0.cyc with copy := some (o, other) } } 3)

/-- One link of a lane is trained again: both ends show it up, with the latency found, and neither holds the other absent. -/
def State.linkUp (s : State) (l : Lane) (lat : PerLane Nat) (v : Lane) : State :=
  if v = l then s
  else
    let one (s : State) (x y : Lane) : State :=
      ((s.wr x (upField x y) 1).wr x (latField x y) (lat.get v % 256)).wr x R.XLE_STAT_ABS_OWN
        (setBit (s.rd x R.XLE_STAT_ABS_OWN) y.bit false)
    ((one (one s l v) v l).raise l 4).raise v 4

/-- One link of a lane does not train: both ends show it down. -/
def State.linkLost (s : State) (l v : Lane) : State :=
  if v = l then s else (((s.wr l (upField l v) 0).wr v (upField v l) 0).raise l 4).raise v 4

/-- The links of a lane are trained again, after damaged pages of its image slots have been written anew (R253, R271, R297). A
lane that was OUT because it was absent is ISOLATED again, to be refilled (log entry 150); one whose links do not train is OUT
until reset (R242, R249). -/
def State.retrainLinks (s : State) (l : Lane) (trained : Bool) (lat : PerLane Nat) : State :=
  if trained then
    let s1 := Lane.list.foldl (fun (s : State) (v : Lane) => s.linkUp l lat v) (s.mendSlots l)
    let s2 := s1.wrM R.XLE_STAT_ABS_MOD (setBit (s1.rdM R.XLE_STAT_ABS_MOD) l.bit false)
    let s3 := s2.onLanes fun x => { x with chkFails := [] }
    if s3.st l = 0 ∧ s3.mode ≠ mStarting then
      let s4 := s3.setSt l 1
      if s4.did phDispatch then s4 else { s4 with cyc := { s4.cyc with isolated := s4.cyc.isolated ||| l.mask } }
    else s3
  else
    let s1 := Lane.list.foldl (fun (s : State) (v : Lane) => s.linkLost l v) s
    if s.mode = mStarting then s1 else s1.holdOut l

/-- XLE_CTRL.RETRAIN written 1: it acts in STARTING or while the lane is ISOLATED (R253, R271). -/
def State.retrain (s : State) (l : Lane) (trained : Bool) (lat : PerLane Nat) : State :=
  if s.mode = mStarting ∨ s.st l = 1 then s.retrainLinks l trained lat else s

/-- A lane that the others may resynchronise although its cores do not run: it stopped, its domain is on, and it is not held out
(R81, R242). -/
def State.recoverable (s : State) (l : Lane) : Bool :=
  !(s.lane l).running && decide (s.dom (laneDom l) = 2) && decide (s.st l ≤ 1) && !bit s.cyc.heldOut l.bit && decide (4 ≤ s.mode)
    && !s.safe

/-- XLE_RETRAIN: acts in STARTING or while the lane is ISOLATED; links that do not train send an isolated lane to OUT (R249,
R253, R271). `lat` gives the latency found on the link to each other lane. A stopped lane writes nothing: its links are retrained
for it (R81; log entry 150). -/
def execXleRetrain (l : Lane) (c : CoreId) (trained : Bool) (lat : PerLane Nat) (s : State) : Host.Outcome State Fault Refusal :=
  .next (if s.recoverable l then s.retrainLinks l trained lat
    else s.regAccess l c R.XLE_CTRL true fun s => s.retrain l trained lat)

/-! ## Config records (R256, R264, R265, R267) -/

/-- A block whose rewrite did not help is failed (R264, R337). -/
def State.failBlock (s : State) (b : Nat) : State :=
  let ports (ch : Chan) : Bool := (List.range 9).any fun p => s.sharedOff (R.STR_PORT_CTRL (portN ch p))
  let tabs (ch : Chan) : Bool := s.tablesOff.any fun i =>
    (s.star ch).tables.toList.getD i [] != (s.lane s.mainLane).shadowTab.toList.getD i []
  let star (s1 : State) (ch : Chan) : State :=
    if ports ch || tabs ch || s.sharedOff R.STR_WINDOW then
      (((s1.setCoreState ch 3).wrM (pick ch R.STR_STAT_FAIL_X R.STR_STAT_FAIL_Y) 1).onStar ch fun c =>
        { resetStar with tables := c.tables }).event 0x6041 [chanNum ch, 1]
    else s1
  match b with
  | 0xF0080000 => star (star s .x) .y
  | 0xF00C0000 => s.detach
  | _ => s.latchSafe

/-- The stages of shared blocks that differ (R264): a first difference asks for a rewrite, a second fails the block. -/
def State.judgeShared (s : State) : State :=
  let off := s.blocksOff
  let kept := s.cyc.cfgFail.filter fun (p : Nat × Nat) => decide (p.2 = 3) || off.contains p.1
  off.foldl (fun (s : State) (b : Nat) =>
    let put (n : Nat) (s : State) : State := { s with cyc := { s.cyc with cfgFail := mapInsert s.cyc.cfgFail b n } }
    match assoc kept b with
    | some 3 => s
    | some 2 => put 3 (s.failBlock b)
    | some _ => s
    | none => put 1 s) { s with cyc := { s.cyc with cfgFail := kept } }

/-- The lanes named by their lane-local CRC (R264): it differs from the shadow's, or from the equal values of the other two. -/
def configOdd (vs : List Lane) (crc want : Lane → Word) : List Lane :=
  vs.filter fun l => crc l != want l || (match vs.filter fun v => v != l with
    | [v, w] => crc v == crc w && crc v != crc l
    | _ => false)

/-- A probation round set that is clean counts; one without a due task or without a voted V does not (R256). -/
def State.countClean (s : State) : State :=
  match s.probation with
  | some _ =>
    if s.cyc.probBad = 0 ∧ s.dueTasks.any fun t => bit s.cyc.voted t then
      s.wrM R.CMP_VOTE_PCLEAN (min 2 (s.rdM R.CMP_VOTE_PCLEAN + 1))
    else s
  | none => s

/-- What all lanes of the vote set ask in their config records (R265, R267). -/
def State.readAsks (s : State) : State :=
  let all (f : LaneState → Bool) : Bool := !s.voters.isEmpty && s.voters.all fun l => f (s.lane l)
  let ask := if all fun x => x.haltReq then some true else if all fun x => x.resumeReq then some false else none
  { s with cyc := { s.cyc with haltAsk := ask } }

/-- CONFIG_RECORD_COMPARE: the config records are compared. `damage` gives, for a lane, the bits in which its readback differs
from what its registers should hold (R264). -/
def execConfigRecordCompare (damage : PerLane Word) (s : State) : Host.Outcome State Fault Refusal :=
  .next (s.once [phClose] phConfig fun s =>
    let inj : List (Lane × Nat) := Lane.list.filterMap fun l => (s.takeInject l 9).1.map fun b => (l, b.1)
    let s0 := Lane.list.foldl (fun (s : State) (l : Lane) => (s.takeInject l 9).2) s
    let flip (l : Lane) : Word := match inj.find? fun p => p.1 == l with | some p => BitVec.ofNat 64 (1 <<< p.2) | none => 0
    let want (l : Lane) : Word := s0.laneReg l R.CMP_CFGCRC
    let crc (l : Lane) : Word := want l ^^^ damage.get l ^^^ flip l
    let s1 := s0.runningLanes.foldl (fun (s : State) (l : Lane) =>
      (s.setLaneReg l R.CMP_CFGCRC (crc l)).sendRecord l 3 (crc l) (s.laneReg l R.CMP_CFGSHR)) s0
    let report (s : State) (l : Lane) : State :=
      s.event 0x4030 ([l.code] ++ bytesBE (s.laneReg l R.CMP_CFGCRC).toNat 8 ++ bytesBE (s.laneReg l R.CMP_CFGSHR).toNat 8)
    let s2 := (configOdd s1.voters crc want).foldl (fun (s : State) (l : Lane) => (report s l).nameLane l srcCfg noTaskNo) s1
    let s3 := match s2.probation, s2.voters with
      | some o, v :: _ =>
        if crc o ≠ crc v ∨ crc o ≠ want o ∨ s2.laneReg o R.CMP_CFGSHR ≠ s2.laneReg v R.CMP_CFGSHR then
          let s4 := { s2 with cyc := { s2.cyc with probBad := if s2.cyc.probBad = 0 then 3 else s2.cyc.probBad } }
          (report s4 o).nameLane o srcCfg noTaskNo
        else s2
      | _, _ => s2
    let s5 : State := State.countClean (State.judgeUnclean s3)
    s5.judgeShared.readAsks)

end Sys2Proof.Machine
end

