-- ==== Sys2Proof/Machine/Security.lean ====
section
/-! DEFINITION. Machine/Security.lean: ownership, owner commands, connection keys, secure boot and the mailboxes of D7
(R381, R382, R496 to R502, R504, R522, R525, R526). -/
namespace Sys2Proof.Machine

/-- The security element's state changed. -/
def State.onSec (s : State) (f : Sec → Sec) : State := { s with sec := f s.sec }

/-- Interrupt source 5 in every running lane when a change of the security element shows in SEC_STAT (R80). -/
def State.secChange (s : State) (f : State → State) : State :=
  let t := f s
  if t.modReg R.SEC_STAT = s.modReg R.SEC_STAT then t else t.runningLanes.foldl (fun (s : State) (l : Lane) => s.raise l 5) t

/-! ## Owner commands (R496, R497) -/

/-- D7 verifies an owner command: signed under a key that chains to the owner anchor (R496). -/
def State.ownerOk (s : State) (a : OwnerAuth) : Bool :=
  match s.sec.anchor with
  | some k => Config.ecdsaVerify (Config.certLeafKey a.chain) (Config.sha384 a.bytes) a.sig && Config.certChains a.chain k
  | none => false

/-- An owner command takes effect once D7, which must be on, has verified it. -/
def State.asOwner (s : State) (a : OwnerAuth) (f : State → State) : State :=
  if s.dom 7 = 2 && s.ownerOk a then f s else s

/-- TAKE_OWNERSHIP: in COMMISSIONING, only while the module is unowned (R496). -/
def execTakeOwnership (anchor : Nat) (_auth : OwnerAuth) (s : State) : Host.Outcome State Fault Refusal :=
  .next (if s.sec.anchor.isNone ∧ s.mode = mCommissioning ∧ s.dom 7 = 2 then
    s.secChange fun s => ((s.onSec fun x => { x with anchor := some anchor }).wrM R.SEC_STAT_OWNED 1).event 0xC043 []
    else s)

/-- RELEASE_OWNERSHIP (R496). -/
def execReleaseOwnership (auth : OwnerAuth) (s : State) : Host.Outcome State Fault Refusal :=
  .next (s.asOwner auth fun s => s.secChange fun s =>
    ((s.onSec fun x => { x with anchor := none }).wrM R.SEC_STAT_OWNED 0).event 0xC043 [])

/-- The update lock takes a value. -/
def State.setOwnerLock (s : State) (v : Nat) : State :=
  if s.rdM R.SEC_STAT_OWNER_LOCK = v then s else s.secChange fun s => (s.wrM R.SEC_STAT_OWNER_LOCK v).event 0xC044 []

/-- SET_UPDATE_LOCK (R497). -/
def execSetUpdateLock (auth : OwnerAuth) (s : State) : Host.Outcome State Fault Refusal :=
  .next (s.asOwner auth fun s => s.setOwnerLock 1)

/-- CLEAR_UPDATE_LOCK (R497). -/
def execClearUpdateLock (auth : OwnerAuth) (s : State) : Host.Outcome State Fault Refusal :=
  .next (s.asOwner auth fun s => s.setOwnerLock 0)

/-- COMMIT_CHANGE_OVER: the owner's commit command is agreed; a commit that waits for it goes on (R497, R511). -/
def execCommitChangeOver (auth : OwnerAuth) (s : State) : Host.Outcome State Fault Refusal :=
  .next (s.asOwner auth fun s => (s.onUpd fun u => { u with agreed := true }).tryCommit)

/-- ENTER_COMMISSIONING: waits for a boundary at which its conditions hold (R480). -/
def execEnterCommissioning (auth : OwnerAuth) (s : State) : Host.Outcome State Fault Refusal :=
  .next (s.asOwner auth fun s => { s with cyc := { s.cyc with commCmd := some true } })

/-- LEAVE_COMMISSIONING (R480). -/
def execLeaveCommissioning (auth : OwnerAuth) (s : State) : Host.Outcome State Fault Refusal :=
  .next (s.asOwner auth fun s => { s with cyc := { s.cyc with commCmd := some false } })

/-- No frame from a twin has arrived for 2 s, or the twin link is not used (R480). -/
def State.twinSilent (s : State) : Bool :=
  decide (s.rdM R.TWN_CTRL_EN = 0) || (match s.twin.lastFrame with | some t => decide (t + 2000000000 ≤ s.time.now) | none => true)

/-- The first condition of R480 that fails, as R480 lists them; 0 when all hold. -/
def State.commFailed (s : State) (enter : Bool) : Nat :=
  if enter then
    if s.mode ≠ mRunning ∧ s.mode ≠ mDegraded then 1
    else if bit s.guards 0 || bit s.guards 1 then 2
    else if !s.twinSilent then 3
    else 0
  else
    let enabled : Bool := match s.station with | some b => b.tasks.any fun t => bit t.cfg.toNat 63 | none => false
    if s.mode ≠ mCommissioning then 1
    else if s.sec.anchor.isNone then 2
    else if !enabled then 3
    else 0

/-- COMMISSIONING_COMMAND_DROP: after 60 s in which its conditions did not hold (R480). -/
def execCommissioningCommandDrop (s : State) : Host.Outcome State Fault Refusal :=
  match s.cyc.commCmd with
  | none => .next s
  | some e =>
    let f := s.commFailed e
    .next (if f = 0 then s
      else { s with cyc := { s.cyc with commCmd := none } }.event 0xB062 [ofBool (!e), f])

/-! ## Connection keys (R382, R498, R499) -/

/-- DATA of 0xC042. -/
def keyData (p : KeyPackage) : List Nat := [p.keyRef] ++ bytesBE p.gen 2 ++ bytesBE p.act 4

/-- A key package (R498): the result D7 gives, and the state after it. A package already installed is taken again without
effect; one that does not decrypt is refused as a signature that does not verify is. EPOCH stays as this start formed it; where it formed
none, the package does (R382; log entry 191). -/
def State.installKey (s : State) (p : KeyPackage) : Nat × State :=
  if !s.ownerOk p.auth then (2, s)
  else if 64 ≤ p.keyRef ∨ p.gen = 0 ∨ 4095 < p.gen then (1, s)
  else
    match Config.ecdhUnwrap p.wrapped with
    | none => (2, s)
    | some key =>
      let held := s.sec.keys.find? fun k => k.1 == p.keyRef
      let same : Bool := match held with | some k => k.2.1 == key && k.2.2.2 == p.act && s.sec.gen == p.gen | none => false
      if same then (0, s)
      else if p.gen ≤ s.sec.gen then (2, s.event 0xC042 (keyData p))
      else
        let old : Nat := match held with | some k => k.2.1 | none => 0
        let s1 := s.onSec fun x =>
          { x with
            keys := (x.keys.filter fun k => k.1 != p.keyRef) ++ [(p.keyRef, key, old, p.act)]
            gen := p.gen, starts := 0, epoch := x.epoch.orElse fun _ => some (p.gen * 2 ^ 20) }
        (0, s1.secChange fun s => ((s.wrM R.SEC_STAT_TAMPER 0).wrM R.SEC_STAT_KEYS_ZERO 0).event 0xC042 (keyData p))

/-- INSTALL_CONNECTION_KEY (R497, R498, R499). -/
def execInstallConnectionKey (pkg : KeyPackage) (s : State) : Host.Outcome State Fault Refusal :=
  .next (if s.dom 7 = 2 then (s.installKey pkg).2 else s)

/-- A pending tamper event at a start: every connection key is zeroized (R499). -/
def State.zeroizeIfTampered (s : State) : State :=
  if !s.d0.tamper then s
  else
    let s1 := { s with d0 := { s.d0 with tamper := false } }.onSec fun x => { x with keys := [] }
    s1.secChange fun s => (((s.wrM R.SEC_STAT_TAMPER 1).wrM R.SEC_STAT_KEYS_ZERO 1).event 0xC040 []).event 0xC041 []

/-- A start raises the start count and forms EPOCH; none without a key package, or once the count is exhausted (R382). -/
def State.countStart (s : State) : State :=
  let n := s.sec.starts + 1
  if s.sec.gen = 0 then s.onSec fun x => { x with epoch := none }
  else if n ≤ 2 ^ 20 - 1 then s.onSec fun x => { x with starts := n, epoch := some (x.gen * 2 ^ 20 + n) }
  else (s.onSec fun x => { x with starts := 2 ^ 20, epoch := none }).event 0xC045 []

/-! ## Secure boot (R500) -/

/-- A lane firmware slot passes (R500, R504). -/
def State.firmwareOk (s : State) (i : Option Image) : Bool :=
  match i with
  | some x => decide (x.kind = 2) && decide (s.checkOuter x = 1)
  | none => false

/-! ## Mailboxes (R522) -/

/-- A mailbox command begins: BUSY, DONE cleared. A second command of the lane while one is in progress is not taken. A
buffer that is not 64-byte aligned or leaves SRAM is a bad argument. -/
def State.mailbox (s : State) (l : Lane) (cmd addr len : Nat) (f : State → Nat × List Nat × State) : State :=
  if (s.lane l).running = false ∨ s.dom 7 ≠ 2 ∨ (s.lane l).mbox.isSome then s
  else
    let r := if addr % 64 ≠ 0 ∨ 0x1000000 < addr + len then (1, [], s) else f s
    let s1 := r.2.2.onLane l fun x => { x with mbox := some { cmd := cmd, addr := addr, result := r.1, response := r.2.1 } }
    (s1.wr l R.SEC_STAT_BUSY 1).wr l R.SEC_STAT_DONE 0

/-- The bytes of a buffer in a lane's SRAM, as D7 reads them: words through the decoder, none when one of them is damaged beyond
correction (R282 to R284). -/
def State.readBuffer (s : State) (l : Lane) (addr len : Nat) : Option (List Nat) × State :=
  let r := s.readWords l mMac none 0 addr ((len + 7) / 8)
  (r.1.map fun ws => (ws.flatMap fun w => bytesLE w.toNat 8).take len, r.2)

/-- A command over the bytes of its buffer; a buffer that cannot be read is a fault, RESULT 0x05 (log entry 169). -/
def State.overBuffer (s : State) (l : Lane) (addr len : Nat) (f : List Nat → State → Nat × List Nat × State) :
    Nat × List Nat × State :=
  match s.readBuffer l addr len with
  | (some bs, s1) => f bs s1
  | (none, s1) => (5, [], s1)

/-- A response longer than its buffer is a bad argument. -/
def fitting (len : Nat) (bs : List Nat) (s : State) : Nat × List Nat × State := if bs.length ≤ len then (0, bs, s) else (1, [], s)

/-- D7 writes its response in whole words, the last one padded with zero bytes (R286). -/
def State.putResponse (s : State) (l : Lane) (addr : Nat) (bs : List Nat) : State :=
  (List.range ((bs.length + 7) / 8)).foldl
    (fun (s : State) (i : Nat) =>
      let v := ((slice bs (8 * i) 8).zipIdx).foldl (fun n b => n + (b.1 % 256) <<< (8 * b.2)) 0
      s.writeWord l none mMac none (addr + 8 * i) (BitVec.ofNat 64 v)) s

/-- MAILBOX_RESPONSE: the response is written to the buffer, interrupt source 5 raised (R522). -/
def execMailboxResponse (l : Lane) (s : State) : Host.Outcome State Fault Refusal :=
  match (s.lane l).mbox with
  | none => .next s
  | some m =>
    let s1 := (s.putResponse l m.addr m.response).onLane l fun x => { x with mbox := none }
    .next ((((((s1.wr l R.SEC_STAT_BUSY 0).wr l R.SEC_STAT_DONE 1).wr l R.SEC_STAT_LAST_CMD m.cmd).wr l R.SEC_STAT_RESULT
      m.result).wr l R.SEC_STAT_RLEN m.response.length).raise l 5)

/-- GET_CERT: the device identity certificate chain (R502). -/
def State.mbCert (l : Lane) (addr len : Nat) (s : State) : State := s.mailbox l 1 addr len fun s => fitting len Config.certChain s

/-- The attestation statement over a nonce (R502). -/
def State.statement (s : State) (nonce : List Nat) : List Nat :=
  let hash (i : Option Image) : Nat := match i with | some x => x.bodyHash | none => 0
  let flags := s.rdM R.SEC_STAT_TAMPER + 2 * s.rdM R.SEC_STAT_KEYS_ZERO + 4 * s.rdM R.SEC_STAT_OWNER_LOCK + 8 * s.rdM R.SEC_STAT_OWNED
  let body := (nonce ++ List.replicate 32 0).take 32 ++ bytesBE (s.modReg R.SYS_SERIAL).toNat 8 ++ bytesBE s.hwType 4 ++ bytesBE flags 4
    ++ bytesBE Config.d7Firmware 48 ++ bytesBE (hash s.sec.booted) 48 ++ bytesBE (hash s.upd.active) 48
    ++ bytesBE (s.sec.starFw.get .x) 48 ++ bytesBE (s.rdM R.PWR_D0_PCYC) 4 ++ bytesBE (s.rdM R.PWR_D0_OPMIN) 4
    ++ bytesBE s.log.head 16
  body ++ bytesBE (Config.ecdsaSign 0 body) 96

/-- ATTEST. -/
def State.mbAttest (l : Lane) (addr len : Nat) (s : State) : State :=
  s.mailbox l 2 addr len fun s => if len < 32 then (1, [], s)
    else s.overBuffer l addr 32 fun nonce s => fitting len (s.statement nonce) s

/-- GCM_SEAL: the buffer holds INNER of a telegram of a connection; the response is its datagram (R380, R381). Where the command does
not name the connection, CONN of INNER does. -/
def State.mbSeal (l : Lane) (addr len : Nat) (conn : Option Nat) (s : State) : State :=
  s.mailbox l 5 addr len fun s =>
    if len < 92 then (1, [], s)
    else s.overBuffer l addr 92 fun inner s =>
      match (match s.station with
          | some b => b.outbound.find? fun o => o.conn == conn.getD (numAt inner 4 4) && o.cat == 3
          | none => none) with
      | none => (1, [], s)
      | some o =>
        match s.wanBytes o s.nodeId inner with
        | some bs => fitting len bs s
        | none => (3, [], s)

/-- GCM_OPEN: the buffer holds a datagram; the response is INNER (R381). -/
def State.mbOpen (l : Lane) (addr len : Nat) (s : State) : State :=
  s.mailbox l 6 addr len fun s =>
    if len < 128 then (1, [], s)
    else if s.rxKeys.isEmpty then (3, [], s)
    else s.overBuffer l addr 128 fun bs s =>
      match openWan s.rxKeys bs with
      | some inner => (0, inner, s)
      | none => (2, [], s)

/-- LOG_MAC: a record is submitted, or the MAC chain recomputed over a range of SEQ (R525, R526). -/
def State.mbLog (l : Lane) (addr len : Nat) (req : LogReq) (s : State) : State :=
  s.mailbox l 9 addr len fun s =>
    match req with
    | .submit => (0, [], s.submitNext l)
    | .application code rs t data =>
      if 0xE000 ≤ code ∧ code ≤ 0xE0FF then (0, [], s.submit { lane := l.code, src := l.code, code := code, rs := rs, t := t, data := dataBytes data })
      else (1, [], s)
    | .chain lo hi => match s.chainRange lo hi with | some q => (2, bytesBE q 4, s) | none => (0, [], s)

/-- An accepted image goes to the inactive slot of its kind; a diagnostic application replaces the running one (R504, R518). -/
def State.placeImage (s : State) (i : Image) : State :=
  match i.kind with
  | 1 => (s.onUpd fun u => { u with inactive := some i, valid := 0 }).setStage upIdle
  | 2 => s.onSec fun x => { x with firmwareIna := some i, fwDue := true }
  | 4 =>
    if s.sec.app = some (imageIdent i) then s
    else ((s.onSec fun x => { x with app := some (imageIdent i) }).onLanes fun x => { x with uApp := x.running }).event 0xC050 []
  | _ => s

/-- IMG_CHECK: 0x30 BUSY during a change-over; otherwise the image check result (R504). -/
def State.mbCheck (l : Lane) (addr len : Nat) (img : Image) (s : State) : State :=
  s.mailbox l 3 addr len fun s =>
    let res := if s.changing then 0x30 else s.imageCheck img
    let s1 := s.checked img res
    (0, [res], if res = 1 ∧ !img.amend then s1.placeImage img else s1)

/-- IMG_APPLY: D7 builds the result of an amendment under a FLASH stamp, checks it, and the load of station
data into the inactive DRAM slots begins (R507). `img` is that result. -/
def State.mbApply (l : Lane) (addr len : Nat) (img : Image) (s : State) : State :=
  s.mailbox l 4 addr len fun s =>
    if !s.holdsStamp stFlash 0 then (4, [], s)
    else
      let res := if s.changing then 0x30 else s.imageCheck img
      let s1 := s.checked img res
      let s2 := (s1.placeImage img).event 0xC011 []
      (0, [res], if res ≠ 1 then s1 else if img.kind = 1 then s2.startLoad else s2)

/-- GET_CERT (R502). -/
def execGetCert (l : Lane) (addr len : Nat) (s : State) : Host.Outcome State Fault Refusal := .next (s.mbCert l addr len)

/-- ATTEST (R502). -/
def execAttest (l : Lane) (addr len : Nat) (s : State) : Host.Outcome State Fault Refusal := .next (s.mbAttest l addr len)

/-- IMG_CHECK (R504). -/
def execImgCheck (l : Lane) (addr len : Nat) (img : Image) (s : State) : Host.Outcome State Fault Refusal :=
  .next (s.mbCheck l addr len img)

/-- IMG_APPLY (R507). -/
def execImgApply (l : Lane) (addr len : Nat) (img : Image) (s : State) : Host.Outcome State Fault Refusal :=
  .next (s.mbApply l addr len img)

/-- GCM_SEAL (R381). -/
def execGcmSeal (l : Lane) (addr len conn : Nat) (s : State) : Host.Outcome State Fault Refusal := .next (s.mbSeal l addr len (some conn))

/-- GCM_OPEN (R381). -/
def execGcmOpen (l : Lane) (addr len : Nat) (s : State) : Host.Outcome State Fault Refusal := .next (s.mbOpen l addr len)

/-- KEY_INSTALL (R498). -/
def execKeyInstall (l : Lane) (addr len : Nat) (pkg : KeyPackage) (s : State) : Host.Outcome State Fault Refusal :=
  .next (s.mailbox l 7 addr len fun s => ((s.installKey pkg).1, [], (s.installKey pkg).2))

/-- OWNER_CMD: D7 verifies an owner command (R496). -/
def execOwnerCmd (l : Lane) (addr len : Nat) (auth : OwnerAuth) (s : State) : Host.Outcome State Fault Refusal :=
  .next (s.mailbox l 8 addr len fun s => (if s.ownerOk auth then 0 else 2, [], s))

/-- LOG_MAC (R525, R526). -/
def execLogMac (l : Lane) (addr len : Nat) (req : LogReq) (s : State) : Host.Outcome State Fault Refusal :=
  .next (s.mbLog l addr len req)

/-- A write of SEC_MBOX as such. For the commands whose buffer the model takes in structured form, the result and the response
are values that the register write does not fix. -/
def State.writeMbox (s : State) (l : Lane) (v : Word) : State :=
  let addr := R.SEC_MBOX_ADDR.of v
  let len := R.SEC_MBOX_LEN.of v
  match R.SEC_MBOX_CMD.of v with
  | 1 => s.mbCert l addr len
  | 2 => s.mbAttest l addr len
  | 5 => s.mbSeal l addr len none
  | 6 => s.mbOpen l addr len
  | 9 => s.mbLog l addr len .submit
  | n =>
    if n = 0 ∨ 9 < n then s.mailbox l n addr len fun s => (1, [], s)
    else s.mailbox l n addr len fun s => (s.freshNat % 6, [], s.drawn)

end Sys2Proof.Machine
end

