-- ==== Sys2Proof/Machine/Boundary.lean ====
section
/-! DEFINITION. Machine/Boundary.lean: the round-set boundary and what changes at it (R184 to R187, R222, R223, R257, R265 to
R267, R359, R479, R480, R485, R511 to R515, R549). -/
namespace Sys2Proof.Machine

/-! ## Opening a round set -/

/-- Mark that this test round set was armed by CMP_INJECT (R261). -/
def phArmed : Nat := 20

/-- What belonged to the round set that ended is dropped. A lane that is ISOLATED now was so before this round set. -/
def State.dropRoundSet (s : State) : State :=
  { s with
    cyc := { s.cyc with
      rounds := 0, phase := 0, agreed := [], heldFlags := [], skipped := 0, voted := 0, vseal := Vector.replicate 16 0
      overran := 0, third := 0, named := 0, probBad := 0, sealOff := 0, canary := 0, queue := [], sentCount := 0, afterHalt := false
      haltAsk := none
      isolated := maskOf (Lane.list.filter fun l => decide (s.st l = 1)) }
    tele := { s.tele with wanOut := [] }
    twin := { s.twin with met := s.twin.got.isSome, sent := none, got := none, paired := false, own := none, theirs := none, notice := none, ownUpd := none, released := [] } }

/-- A lane's part: marks cleared, overrun cycles kept, an injection for this round set armed (R548). One at point 0x6 or 0x7
that has not acted yet stays armed. -/
def LaneState.openRoundSet (x : LaneState) : LaneState :=
  let kept := x.inject.filter fun i => i.1 == 6 || i.1 == 7
  { x with
    closed := false, clearReq := false, offsets := [], records := []
    tasks := x.tasks.map fun t => if t.ovr then t else resetTask
    inject := x.injectNext.orElse fun _ => kept
    injectNext := none }

/-- Accepted writes of TSK_RSET and TSK_CFGt take effect (R230). -/
def State.takeTaskRegs (s : State) : State :=
  Lane.list.foldl (fun (s : State) (l : Lane) =>
    ((s.lane l).tskPend.foldl (fun (s : State) (w : Nat × Word) => s.setLaneReg l w.1 w.2) s).onLane l fun x =>
      { x with tskPend := [] }) s

/-- The tasks due in round set k (R206, R210). -/
def State.dueMask (s : State) : Nat :=
  (List.range 16).foldl (fun m t =>
    let l := s.mainLane
    let mult := s.rd l (R.TSK_CFG_MULT t)
    setBit m t (decide (s.rd l (R.TSK_CFG_EN t) = 1) && decide (mult ≠ 0) && decide (s.k % mult = s.rd l (R.TSK_CFG_PHASE t)))) 0

/-- A round set opens at the present instant: its marks, its kind, the tasks due, and interrupt source 2 in every running lane
(R184, R187, R205). No task is due in a test round set. -/
def State.openRoundSet (s : State) (kind : RsKind) : State :=
  let s1 := (s.dropRoundSet.onLanes LaneState.openRoundSet).takeTaskRegs
  let s2 := { s1 with cyc := { s1.cyc with kind := kind, bPrev := s1.cyc.b, b := s1.time.now } }
  let due := if kind = RsKind.test then 0 else s2.dueMask
  let s3 := (s2.wrM R.TSK_STAT_DUE due).wrM R.TSK_STAT_CONV (ofBool (decide (kind = RsKind.conversion)))
  s3.runningLanes.foldl (fun (s : State) (l : Lane) => s.raise l 2) s3

/-! ## Lanes that come back (R256, R257) -/

/-- Readmission after two clean round sets; a lane whose copy was good goes into PROBATION. -/
def State.readmit (s : State) : State :=
  let s1 := match s.probation with
    | some o =>
      if s.rdM R.CMP_VOTE_PCLEAN < 2 then s
      else
        let a := (s.setSt o 3).wrM R.CMP_VOTE_PCLEAN 0
        let vs := Lane.list.filter fun l => decide (a.st l = 3)
        let b := vs.foldl (fun (s : State) (l : Lane) => s.wr l R.CMP_VOTE_VIEW (maskOf vs)) a
        let c := b.revote.event 0x4005 [o.code]
        if c.mode = mDegraded ∧ c.votes = 3 then c.setMode mRunning else c
    | none => s
  match s1.cyc.prob with
  | some o =>
    let s2 := { s1 with cyc := { s1.cyc with prob := none } }
    if s2.st o = 1 then (s2.setSt o 2).wrM R.CMP_VOTE_PCLEAN 0 else s2
  | none => s1

/-! ## Module state (R11, R479, R480, R485, R549) -/

/-- Every force ends, and the force tables' buffers are given up (R11, R227, R573). -/
def State.dropForces (s : State) : State :=
  let s1 := (s.wrAll R.TSK_FORCE_COUNT 0).onLanes fun x => { x with claims := x.claims.filter fun r => r.feature != 9 }
  State.applyForces { s1 with cyc := { s1.cyc with forceRead := [] } }

/-- On leaving COMMISSIONING: forces and perturbations are cleared, the time domain is automatic, test pulses run (R11,
R549). -/
def State.clearAids (s : State) : State :=
  let s1 := Lane.list.foldl (fun (s : State) (l : Lane) =>
    (((s.setLaneReg l R.TST_DELAY 0).setLaneReg l R.TST_BP 0).wr l R.TIM_DOM_SEL_FORCE 0).onLane l fun x =>
      { x with inject := none, injectNext := none }) s.dropForces
  ((s1.wrM R.TST_STAT_UNLOCKED 0).wrM R.FIO_PULSE_EN 1).event 0xD014 []

/-- Any exit from COMMISSIONING, to HALTED and to SAFE as well, is acted on at the boundary that opens the first round set in
the new state (R11; log entry 148). -/
def State.leaveComm (s : State) : State :=
  if s.cyc.comm && decide (s.mode ≠ mCommissioning) then
    let s1 := s.clearAids
    { s1 with cyc := { s1.cyc with comm := false } }
  else s

/-- The module enters COMMISSIONING, with a new challenge (R480, R545). -/
def State.enterCommissioning (s : State) : State :=
  let c := s.freshWord
  let s1 := (s.drawn.setMode mCommissioning).onSec fun x => { x with challenge := c, judged := [] }
  { s1 with cyc := { s1.cyc with comm := true } }

/-- RUNNING, or DEGRADED with a two-lane vote set. -/
def State.runMode (s : State) : State := s.setMode (if s.votes = 2 then mDegraded else mRunning)

/-- A verified command to enter or leave COMMISSIONING takes effect when its conditions hold (R480). -/
def State.commBoundary (s : State) : State :=
  match s.cyc.commCmd with
  | none => s
  | some e =>
    if s.safe || decide (s.commFailed e ≠ 0) then s
    else
      let s1 := { s with cyc := { s.cyc with commCmd := none } }
      if e then s1.enterCommissioning.event 0xB060 [] else s1.runMode.event 0xB061 []

/-- INTEGRATING ends at the first boundary at which the module is ACTIVE, integrated on a channel, and has a role (R479). It
stays while the twin shows COMMISSIONING (R480). -/
def State.integrateBoundary (s : State) : State :=
  let integ : Bool := decide (s.rdM R.DNR_STAT_INT_X = 1) || decide (s.rdM R.DNR_STAT_INT_Y = 1)
  if s.mode = mIntegrating ∧ s.dnr = dnActive ∧ integ ∧ s.role ≠ 0 ∧ !s.safe ∧ !(s.twinOn && s.twin.twinComm) then s.runMode else s

/-- The first step of an orderly shutdown (R485): the module leaves the pair, writes every cell and CO cell de-energised, and
clears DNR_CTRL.EN. The self-test results are no longer valid (R486). -/
def State.shutBoundary (s : State) : State :=
  if s.power.shutdown = 0 || s.power.stopping || s.safe then s
  else
    let s1 := ((s.wrM R.BST_RESULT_RES 0).notApplicable.wrM R.BST_RESULT_VALID 0).onPower fun p => { p with stopping := true }
    let s2 := if s1.twinOn && decide (s1.role ≠ 0) && decide (s1.tw ≠ twAlone) then s1.leavePair 8 else s1
    let v := s2.dispatchWord []
    let s3 := if s2.fitted then s2.voters.foldl (fun (s : State) (l : Lane) => (s.votedWrite l R.FIO_OUT_REQ v).writeLen l v) s2 else s2
    (s3.wrAll R.DNR_CTRL_EN 0).protocol dnOff 3

/-! ## Change-overs (R509, R511 to R515) -/

/-- The task configuration of the active image loads. -/
def State.loadTasks (s : State) : State :=
  match s.station with
  | some b => s.onLanes fun x => { x with tskPend := taskRegs b }
  | none => s

/-- A module that has converted goes back to the old image (R513). -/
def State.revertBoundary (s : State) : State :=
  if !s.upd.revert then s
  else
    let s1 := (s.swapSlots.loadTasks).onUpd fun u => { u with revert := false, isS := false, alone := false }
    if s.twinOn && !s.upd.alone then s1 else s1.setStage upIdle

/-- When both update records of round set k carry READY, kx = k + 1: S becomes LEAD with every connection and cell, and L leaves,
switches its slot and attaches again (R511). -/
def State.agreeBoundary (s : State) : State :=
  let theirs : Bool := match s.twin.upd with | some r => r.ready && decide (r.rs + 1 = s.k) | none => false
  if s.stage = upCompare ∧ s.upd.ready ∧ theirs ∧ s.paired then
    let s1 := (s.wrM R.UPD_CHG_KX s.k).onUpd fun u => { u with ready := false }
    if s1.upd.isS then
      (((s1.becomeLead.setTw twTiming).setStage upChanged).event 0xC024 []).onTwin fun x => { x with transferred := [], equalRun := 0 }
    else (((s1.swapSlots.loadTasks).leavePair 0xA).setStage upReattach).event 0xC024 []
  else s

/-- The conversion round set ends: its conversion is complete, unless the change-over has been abandoned (R227, R513). In a step round
set it is postponed (R359). -/
def State.endConversion (s : State) : State :=
  if s.stage = upConvert ∧ s.upd.isS ∧ s.k = s.kc then
    if s.cyc.kind = .conversion then s.convert s.k
    else if s.cyc.kind = .step then
      ((s.setStage upCommitted).wrM R.UPD_CHG_KC (s.k + 1)).event 0x3031 [s.convFailed]
    else s
  else s

/-- A committed conversion falls due, is postponed, or moves on; the answer says whether this round set converts (R223, R508,
R511, R515, R516). `left` says that the pair broke up at this boundary (R422). -/
def State.convBoundary (s : State) (left halted : Bool) : State × Bool :=
  let kc := s.kc
  if s.stage = upCommitted ∧ s.k = kc then
    let s := s.readState s.guardReads
    let later (s : State) (code bits : Nat) : State := (s.event code [bits]).wrM R.UPD_CHG_KC (kc + 1)
    if s.convFailed ≠ 0 ∨ left ∨ halted then (later s 0x3031 s.convFailed, false)
    else if s.guards ≠ 0 then (later s 0xC021 s.guards, false)
    else if s.upd.isS then (s.dropForces.setStage upConvert, true)
    else (s, false)
  else if s.stage = upCommitted ∧ kc < s.k ∧ !s.upd.isS then ((s.setStage upCompare).wrM R.UPD_STAT_CMP_OK 0, false)
  else if s.stage = upConvert ∧ kc < s.k then
    if s.upd.alone then
      (((s.setStage upChanged).event 0xC024 []).onUpd fun u => { u with alone := false, isS := false, ready := false }, false)
    else ((s.setStage upCompare).wrM R.UPD_STAT_CMP_OK 0, false)
  else (s, false)

/-! ## The boundary (R184, R187) -/

/-- A halt begins or ends (R265, R267): the kind of the round set that opens. -/
def State.haltBoundary (s : State) : State × Bool :=
  match s.cyc.haltAsk with
  | some true =>
    if s.mode = mCommissioning ∧ !s.safe then
      let s1 := ((s.setMode mHalted).wrM R.XLE_STAT_HALTED 1).wrAll R.XLE_STAT_HALT_PEND 0
      (((s1.onLanes fun x => { x with haltReq := false }).raiseAll 7).event 0x4040 [], false)
    else (s, false)
  | some false =>
    if s.mode = mHalted then
      let s1 := (s.enterCommissioning.wrM R.XLE_STAT_HALTED 0).onLanes fun x => { x with resumeReq := false }
      (s1.event 0x4041 [], true)
    else (s, false)
  | none => (s, false)

/-- The check that ends an injection test (R261): the outcome of the test is kept, DONE is shown, and CMP_MISMATCH is cleared. It
is caught when every running lane shows it so. -/
def State.endTest (s : State) : State :=
  let l := s.mainLane
  let run : InjRun := { point := s.rd l R.CMP_INJECT_POINT, lane := s.rd l R.CMP_INJECT_LANE, chanY := s.rd l R.CMP_INJECT_CHAN == 1
                        caught := s.runningLanes.all fun v => s.rd v R.CMP_INJECT_CAUGHT == 1 }
  let s1 := { s with cyc := { s.cyc with injRuns := s.cyc.injRuns ++ [run] } }
  Lane.list.foldl (fun (s : State) (l : Lane) =>
    (if s.rd l R.CMP_INJECT_POINT = 0 then s else s.wr l R.CMP_INJECT_DONE 1).setLaneReg l R.CMP_MISMATCH
      (s.laneReg l R.CMP_MISMATCH &&& ~~~(0x3FFF7 : Word))) s1

/-- The boundary of a test round set (R186): kt advances, an armed injection is done, the next one is armed (R261). -/
def State.testBoundary (s : State) : State :=
  let armed := Lane.list.any fun l => (s.lane l).injectNext.isSome
  let s1 := if bit s.cyc.phase phArmed then s.endTest else s
  let s2 := (s1.onLanes fun x => { x with inject := none }).openRoundSet .test
  let s3 := { s2 with cyc := { s2.cyc with kt := s2.cyc.kt + 1 } }
  if armed then s3.mark phArmed else s3

/-- Every lane's request to enter or end a halt is dropped. -/
def State.dropAsks (s : State) : State :=
  let s1 := (s.onLanes fun x => { x with haltReq := false, resumeReq := false }).wrAll R.XLE_STAT_HALT_PEND 0
  { s1 with cyc := { s1.cyc with haltAsk := none } }

/-- Under SAFE the requests for any other transition are discarded and recorded (R12): a change-over, an orderly shutdown that
has not begun, a halt, a command to enter or leave COMMISSIONING, and a role swap. -/
def State.discardRequests (s : State) : State :=
  let s1 := s.abandon 0xC025 [2]
  let s2 : State := if s1.power.shutdown ≠ 0 ∧ !s1.power.stopping then (s1.onPower fun p => { p with shutdown := 0 }).event 0xB034 [] else s1
  let s3 : State := if s2.cyc.haltAsk.isSome || (Lane.list.any fun l => (s2.lane l).haltReq || (s2.lane l).resumeReq) then
      s2.dropAsks.event 0x4042 []
    else s2
  let s4 : State := match s3.cyc.commCmd with
    | some e => { s3 with cyc := { s3.cyc with commCmd := none } }.event 0xB062 [ofBool (!e), 1]
    | none => s3
  if s4.rdM R.TWN_SWST_PEND = 1 then (s4.wrM R.TWN_SWST_PEND 0).event 0x9022 [] else s4

/-- A step of the module's time takes place at the boundary (R359). -/
def State.stepTime (s : State) : State :=
  { s with time := { s.time with now := ((s.time.now : Int) + s.time.stepBy).toNat, stepBy := 0 } }

/-- The boundary of a numbered round set. A name that has fallen on a lane in PROBATION since the config records were compared makes
the round set unclean too (R247). -/
def State.numberedBoundary (s : State) (lead : Option (Nat × Nat)) : State :=
  let left := s.twin.outcome.isSome
  let s0 := s.stepTime.endConversion.judgeUnclean
  let s1 := s0.setModReg R.TSK_RSNUM (s0.modReg R.TSK_RSNUM + 1)
  let s2 := if s1.safe then s1.discardRequests else s1
  let s3 := s2.readmit.shutBoundary.agreeBoundary.twinBoundary lead |>.revertBoundary
  let h := s3.haltBoundary
  let s4 := h.1.commBoundary.integrateBoundary
  let s5 := s4.leaveComm
  let halted := decide (s5.mode = mHalted)
  let c := s5.convBoundary left halted
  let s6 := c.1.openRoundSet (if halted then .halted else if c.2 then .conversion else .normal)
  let s7 := { s6 with cyc := { s6.cyc with afterHalt := h.2 } }
  State.ageSubs (Lane.list.foldl State.dirtyScan s7)

/-- The boundary is the start of a cluster round that lies in the past (R185, R414). -/
def State.moveBoundary (s : State) (round : Nat) : State :=
  let n := (roundDiff s.round round).toNat
  { s with cyc := { s.cyc with b := s.roundStart - 1000000 * n, rounds := n } }

/-- ROUND_SET_BOUNDARY: the round set ends once its rounds have passed (R184, R186, R187). That of a module about to attach ends at the
LEAD's boundary (R414). -/
def execRoundSetBoundary (lead : Option (Nat × Nat)) (s : State) : Host.Outcome State Fault Refusal :=
  if !s.cyc.active then .next s
  else if s.cyc.kind = RsKind.test then .next (if s.cyc.rounds < 1 then s else s.testBoundary)
  else
    let adopts := s.twinOn && decide (s.role = 0) && decide (s.tw = twTiming)
    match adopts, lead with
    | true, some (k, r) => .next ((s.numberedBoundary (some (k, r))).moveBoundary r)
    | _, _ => .next (if s.cyc.rounds < s.period then s else s.numberedBoundary none)

/-! ## Halt requests (R265, R267) -/

/-- A write of XLE_CTRL.HALT: refused outside COMMISSIONING, with a twin attached, or with a lane ISOLATED or in PROBATION. -/
def State.askHalt (s : State) (l : Lane) : State :=
  let busy := Lane.list.any fun v => decide (s.st v = 1) || decide (s.st v = 2)
  if s.mode ≠ mCommissioning ∨ s.paired ∨ busy then (s.wr l R.XLE_STAT_HALT_REJ 1).eventL l 0x4042 []
  else (s.onLane l fun x => { x with haltReq := true }).wr l R.XLE_STAT_HALT_PEND 1

/-- A write of XLE_CTRL.RESUME. -/
def State.askResume (s : State) (l : Lane) : State :=
  if s.mode = mHalted then s.onLane l fun x => { x with resumeReq := true } else s

/-- HALT_REQUEST (R265). -/
def execHaltRequest (l : Lane) (c : CoreId) (s : State) : Host.Outcome State Fault Refusal :=
  .next (s.regAccess l c R.XLE_CTRL true fun s => s.askHalt l)

/-- HALT_RESUME (R267). -/
def execHaltResume (l : Lane) (c : CoreId) (s : State) : Host.Outcome State Fault Refusal :=
  .next (s.regAccess l c R.XLE_CTRL true fun s => s.askResume l)

end Sys2Proof.Machine
end

