-- ==== Sys2Proof/Machine/Control.lean ====
section
/-! DEFINITION. Machine/Control.lean: branches, jumps, system instructions and control-register moves of the control
cores (chapter 02). -/
namespace Sys2Proof.Machine

/-! ## Branches and jumps -/

/-- An instruction that ends with pc at a value of its own; one instruction retired. -/
def State.retireTo (s : State) (l : Lane) (c : CoreId) (pc : Word) : State :=
  (s.onCore l c fun x => { x with pc := pc }).pmc l 1 0 (.level (s.core l c).level.code)

/-- A conditional branch: to its target when the condition holds, else to the next instruction. A target without
permission raises its exception when it is fetched (R66). -/
def State.branch (s : State) (l : Lane) (c : CoreId) (off : BitVec 16) (cond : Core → Bool) : State :=
  s.issue l c .u fun s =>
    let x := s.core l c
    s.retireTo l c (if cond x then x.target16 off else x.pc + 4)

/-- A jump that writes a link register with pc + 4. -/
def State.jumpLink (s : State) (l : Lane) (c : CoreId) (gd : GReg) (target : Core → Word) : State :=
  let x := s.core l c
  (s.onCore l c fun y => y.setG gd (y.pc + 4)).retireTo l c (target x)

/-- BEQ: branch if ga = gb. -/
def execBeq (l : Lane) (c : CoreId) (ga gb : GReg) (off : BitVec 16) (s : State) :
    Host.Outcome State Fault Refusal :=
  .next (s.branch l c off fun x => decide (x.g ga = x.g gb))

/-- BNE: branch if ga ≠ gb. -/
def execBne (l : Lane) (c : CoreId) (ga gb : GReg) (off : BitVec 16) (s : State) :
    Host.Outcome State Fault Refusal :=
  .next (s.branch l c off fun x => decide (x.g ga ≠ x.g gb))

/-- BLT: branch if signed ga < gb. -/
def execBlt (l : Lane) (c : CoreId) (ga gb : GReg) (off : BitVec 16) (s : State) :
    Host.Outcome State Fault Refusal :=
  .next (s.branch l c off fun x => (x.g ga).slt (x.g gb))

/-- BGE: branch if signed ga ≥ gb. -/
def execBge (l : Lane) (c : CoreId) (ga gb : GReg) (off : BitVec 16) (s : State) :
    Host.Outcome State Fault Refusal :=
  .next (s.branch l c off fun x => !((x.g ga).slt (x.g gb)))

/-- BLTU: branch if unsigned ga < gb. -/
def execBltu (l : Lane) (c : CoreId) (ga gb : GReg) (off : BitVec 16) (s : State) :
    Host.Outcome State Fault Refusal :=
  .next (s.branch l c off fun x => (x.g ga).ult (x.g gb))

/-- BGEU: branch if unsigned ga ≥ gb. -/
def execBgeu (l : Lane) (c : CoreId) (ga gb : GReg) (off : BitVec 16) (s : State) :
    Host.Outcome State Fault Refusal :=
  .next (s.branch l c off fun x => !((x.g ga).ult (x.g gb)))

/-- BC: branch if cond holds on the flags; cond 0b1111 is illegal (R58). -/
def execBc (l : Lane) (c : CoreId) (cond : BitVec 4) (off : BitVec 16) (s : State) :
    Host.Outcome State Fault Refusal :=
  if cond = 15 then .next (s.issue l c .u fun s => s.exception l c exIllegal (bcWord cond off))
  else .next (s.branch l c off fun x => x.flags.holds cond)

/-- J: pc = pc + sext(off26) × 4. -/
def execJ (l : Lane) (c : CoreId) (off : BitVec 26) (s : State) :
    Host.Outcome State Fault Refusal :=
  .next (s.issue l c .u fun s => s.retireTo l c ((s.core l c).target26 off))

/-- JAL: g31 = pc + 4, then as J. -/
def execJal (l : Lane) (c : CoreId) (off : BitVec 26) (s : State) :
    Host.Outcome State Fault Refusal :=
  .next (s.issue l c .u fun s => s.jumpLink l c 31 fun x => x.target26 off)

/-- JALR: the target comes from ga before gd is written; a target not on 4 bytes traps (FETCH_ALIGN). -/
def execJalr (l : Lane) (c : CoreId) (gd ga : GReg) (imm : BitVec 16) (s : State) :
    Host.Outcome State Fault Refusal :=
  .next (s.issue l c .u fun s =>
    let t := (s.core l c).ea ga imm
    if bits t.toNat 1 0 ≠ 0 then s.exception l c exFetchAlign t else s.jumpLink l c gd fun x => x.ea ga imm)

/-! ## System instructions -/

/-- FENCE: in a model that completes every access in order, it only advances the pc (R71 to R73). -/
def execFence (l : Lane) (c : CoreId) (s : State) :
    Host.Outcome State Fault Refusal :=
  .next (s.coreOp l c .u fun x => x)

/-- FENCEIO: as FENCE; every register access has been accepted (R67). -/
def execFenceio (l : Lane) (c : CoreId) (s : State) :
    Host.Outcome State Fault Refusal :=
  .next (s.coreOp l c .u fun x => x)

/-- IFENCE, K only (R68, R69); there is no instruction cache in the model. -/
def execIfence (l : Lane) (c : CoreId) (s : State) :
    Host.Outcome State Fault Refusal :=
  .next (s.coreOp l c .k fun x => x)

/-- SYSCALL: takes the exception SYSCALL; EPC is the SYSCALL itself (R79). -/
def execSyscall (l : Lane) (c : CoreId) (s : State) :
    Host.Outcome State Fault Refusal :=
  .next (s.issue l c .u fun s => s.exception l c exSyscall 0)

/-- BRK: takes the exception BRK at K; below K the cause is PRIV (R69). -/
def execBrk (l : Lane) (c : CoreId) (s : State) :
    Host.Outcome State Fault Refusal :=
  .next (s.issue l c .k fun s => s.exception l c exBrk 0)

/-- ERET, K only: returns from the exception (R79); a saved level 0b11 raises ILLEGAL (R50). DESIGN CHOICE: below K, PRIV comes
before that ILLEGAL (log entry 155). -/
def execEret (l : Lane) (c : CoreId) (s : State) :
    Host.Outcome State Fault Refusal :=
  .next (s.issue l c .k fun s =>
    if bits (s.core l c).epsw.toNat 1 0 = 3 then s.exception l c exIllegal eretWord
    else (s.onCore l c Core.leave).pmc l 1 0 (.level (s.core l c).level.code))

/-- WFI, S and K: continues at once when an enabled interrupt is pending, else the core waits at the WFI (R83). -/
def execWfi (l : Lane) (c : CoreId) (s : State) :
    Host.Outcome State Fault Refusal :=
  .next (s.issue l c .s fun s =>
    if (s.core l c).pendingSource.isSome then s.retire l c else s.onCore l c fun x => { x with wait := .wfi })

/-- WFI_WAKE: a pending enabled interrupt ends a WFI; with IE = 1 it is taken with EPC at the WFI (R83). -/
def execWfiWake (l : Lane) (c : CoreId) (s : State) :
    Host.Outcome State Fault Refusal :=
  let x := s.core l c
  if (s.lane l).running = false ∨ x.wait ≠ .wfi ∨ x.pendingSource.isNone then .next s
  else if x.takesInterrupt then .next (s.interrupt l c)
  else .next ((s.onCore l c fun x => { x with wait := .none }).retire l c)

/-- INTERRUPT_TAKEN: the lowest pending enabled source is taken (R80), during WFI and EWAIT too (R83). -/
def execInterruptTaken (l : Lane) (c : CoreId) (s : State) :
    Host.Outcome State Fault Refusal :=
  if (s.lane l).running && (s.core l c).takesInterrupt then .next (s.interrupt l c) else .next s

/-- ILLEGAL_INSTRUCTION: an encoding that R58 does not let through raises ILLEGAL with the word in EADDR. -/
def execIllegalInstruction (l : Lane) (c : CoreId) (word : BitVec 32) (s : State) :
    Host.Outcome State Fault Refusal :=
  if legalWord word then .next s else .next (s.issue l c .u fun s => s.exception l c exIllegal (word.zeroExtend 64))

/-! ## Control registers (R53 to R55, R70) -/

/-- Whether a control number is listed (R53). -/
def ctlListed (n : Nat) : Bool := decide (n ≤ 0xA) || (decide (0x10 ≤ n) && decide (n ≤ 0x13)) || (decide (0x20 ≤ n) && decide (n ≤ 0x3F))

/-- The lowest level that reads a control register. -/
def ctlReadLevel (n : Nat) : Level := if n = 0 ∨ n = 8 ∨ n = 9 then .u else .k

/-- The value of a control register other than CYC and DOORBELL (R53). -/
def Core.ctl (x : Core) (l : Lane) (c : CoreId) (n : Nat) : Word :=
  match n with
  | 0 => x.psw
  | 1 => x.epc
  | 2 => x.epsw
  | 3 => x.ecause
  | 4 => x.eaddr
  | 5 => x.kvec
  | 6 => x.imask
  | 7 => x.ipend
  | 8 => BitVec.ofNat 64 (l.code * 256 + c.num)
  | n =>
    if h : n - 0x10 < 4 ∧ 0x10 ≤ n then x.kscr[n - 0x10]'h.1
    else if h : n - 0x20 < 16 ∧ 0x20 ≤ n then x.rgnB[n - 0x20]'h.1
    else if h : n - 0x30 < 16 ∧ 0x30 ≤ n then x.rgnL[n - 0x30]'h.1
    else 0

/-- The reserved bits of a control register, which a write must leave zero (R14 and the tables of R53, R56). -/
def ctlReserved (n : Nat) : Nat :=
  if n = 0 then 0xFFFFFFFFFFFF0FF0
  else if n = 3 then 0xFFFFFFFFFFFF0000
  else if 0x20 ≤ n ∧ n ≤ 0x2F then 0xFFFFFFFF00000000
  else if 0x30 ≤ n ∧ n ≤ 0x3F then 0xFFFFFFFF0000003E
  else 0

/-- A control register written (R53); IPEND is W1C and KVEC bits 5:0 read as zero. -/
def Core.setCtl (x : Core) (n : Nat) (v : Word) : Core :=
  match n with
  | 0 => { x with psw := v }
  | 1 => { x with epc := v }
  | 2 => { x with epsw := v }
  | 3 => { x with ecause := v }
  | 4 => { x with eaddr := v }
  | 5 => { x with kvec := v &&& ~~~(0x3F : Word) }
  | 6 => { x with imask := v }
  | 7 => { x with ipend := x.ipend &&& ~~~v }
  | 9 => { x with cyc := v }
  | n =>
    if h : n - 0x10 < 4 ∧ 0x10 ≤ n then { x with kscr := x.kscr.set (n - 0x10) v h.1 }
    else if h : n - 0x20 < 16 ∧ 0x20 ≤ n then { x with rgnB := x.rgnB.set (n - 0x20) v h.1 }
    else if h : n - 0x30 < 16 ∧ 0x30 ≤ n then { x with rgnL := x.rgnL.set (n - 0x30) v h.1 }
    else x

/-- What MFC reads. CYC has counted a number of clocks that the spec does not fix since it was last seen; what a read
of DOORBELL gives is not stated. Both are free values (log entry 3). -/
def State.readCtl (s : State) (l : Lane) (c : CoreId) (n : Nat) : Word × State :=
  let x := s.core l c
  if n = 9 then
    let v := x.cyc + BitVec.ofNat 64 s.freshNat
    (v, (s.onCore l c fun y => { y with cyc := v }).drawn)
  else if n = 0xA then (s.freshWord, s.drawn)
  else (x.ctl l c n, s)

/-- What MTC writes at a level that may. A value that sets a reserved bit is ignored as a whole and recorded (R14). -/
def State.writeCtl (s : State) (l : Lane) (c : CoreId) (n : Nat) (v : Word) : State :=
  if v &&& BitVec.ofNat 64 (ctlReserved n) ≠ 0 then s.eventL l 0x1001 (bytesBE 0xFFFFFFFF 4 ++ bytesBE v.toNat 8)
  else if n = 0xA then if bit v.toNat 8 then s.raiseOn l c.other 8 else s
  else s.onCore l c fun y => y.setCtl n v

/-- MFC: an unlisted number is illegal (R53), a level below the one of the register raises PRIV (R70). -/
def execMfc (l : Lane) (c : CoreId) (gd : GReg) (cn : BitVec 12) (s : State) :
    Host.Outcome State Fault Refusal :=
  .next (s.issue l c .u fun s =>
    if ctlListed cn.toNat = false then s.exception l c exIllegal (mfcWord gd cn)
    else if (ctlReadLevel cn.toNat).le (s.core l c).level = false then s.exception l c exPriv 0
    else
      let r := s.readCtl l c cn.toNat
      (r.2.onCore l c fun x => x.setG gd r.1).retire l c)

/-- MTC: PSW below K takes the flags only (R54); CORE is never written (R70); PSW.LVL 0b11 is illegal (R50). DEDUCED: at K the
level is written too, beside R51's exception entry and ERET (log entry 154). -/
def execMtc (l : Lane) (c : CoreId) (ga : GReg) (cn : BitVec 12) (s : State) :
    Host.Outcome State Fault Refusal :=
  .next (s.issue l c .u fun s =>
    let x := s.core l c
    let v := x.g ga
    if ctlListed cn.toNat = false ∨ cn = 8 then s.exception l c exIllegal (mtcWord ga cn)
    else if x.level ≠ .k then
      if cn = 0 then
        (s.onCore l c fun y => { y with psw := (y.psw &&& ~~~(0xF000 : Word)) ||| (v &&& 0xF000) }).retire l c
      else s.exception l c exPriv 0
    else if cn = 0 ∧ bits v.toNat 1 0 = 3 then s.exception l c exIllegal (mtcWord ga cn)
    else (s.writeCtl l c cn.toNat v).retire l c)

end Sys2Proof.Machine
end

