-- ==== Sys2Proof/Machine/Scrub.lean ====
section
/-! DEFINITION. Machine/Scrub.lean: the scrubbers (R288 to R293). -/
namespace Sys2Proof.Machine

/-- A correction found by a scrub: a row with corrections in two passes, or in two words of one pass, becomes a repair candidate
(R293). -/
def State.scrubHit (s : State) (l : Lane) (a : Nat) : State :=
  let m := ofBool (isDram a)
  let row := rowOfWord a
  let hits := (s.lane l).scrubHits.filter fun h => h.1 == m && h.2.1 == row
  let s1 := s.onLane l fun x => { x with scrubHits := (m, row, 0, a) :: x.scrubHits }
  if hits.any fun h => h.2.2.1 == 1 then s1.candidate l a 1
  else if hits.any fun h => h.2.2.1 == 0 && h.2.2.2 != a then s1.candidate l a 2
  else s1

/-- A scrub of a word writes back: it is found correctable or uncorrectable (R288). -/
def LaneState.needsWrite (x : LaneState) (a : Nat) : Bool :=
  match rsDecode (x.data a) (x.check a) with
  | .corrected _ _ => true
  | .uncorrectable => true
  | _ => false

/-- One word is scrubbed (R288). -/
def State.scrubWord (s : State) (l : Lane) (a : Nat) : State :=
  let hit : Bool := match rsDecode ((s.lane l).data a) ((s.lane l).check a) with | .corrected _ _ => true | _ => false
  let s1 := (s.readMem l mScrub none 3 a 8).2
  if hit then s1.scrubHit l a else s1

/-- A pass of a memory has ended: its corrections belong to an earlier pass from now on. -/
def LaneState.passEnd (x : LaneState) (m : Nat) : LaneState :=
  { x with scrubHits := x.scrubHits.map fun h => if h.1 = m then (h.1, h.2.1, 1, h.2.2.2) else h }

/-- Words of a burst from an address on, with the write-backs still free: where the burst ends (R291). -/
def State.scrubRun (s : State) (l : Lane) (a free : Nat) : Nat → State × Nat
  | 0 => (s, a)
  | n + 1 =>
    if (s.lane l).needsWrite a then
      (match free with
       | 0 => (s, a)
       | f + 1 => (s.scrubWord l a).scrubRun l (a + 8) f n)
    else (s.scrubWord l a).scrubRun l (a + 8) free n

/-- Words of the lane's DRAM. -/
def dramWords : Nat := 2 ^ 28

/-- Seconds since the current DRAM pass began, as MEM_SCRUB_STAT.ELAPSED shows them. -/
def State.scrubElapsed (s : State) (l : Lane) : Nat := min 1023 ((s.time.now - (s.lane l).scrubFrom) / 1000000000)

/-- The urgent regime begins more than 1/64 behind the pace and ends within 1/128 of it (R291). -/
def State.judgePace (s : State) (l : Lane) : State :=
  let done := (s.rd l R.MEM_SCRUB_POS_DPOS - 0x40000000) / 8
  let due := dramWords * (s.time.now - (s.lane l).scrubFrom) / (max 1 (s.rd l R.MEM_SCRUB_PERIOD) * 1000000000)
  let urgent := s.rd l R.MEM_SCRUB_STAT_URGENT = 1
  if dramWords / 64 < due - done ∧ !urgent then
    (s.wr l R.MEM_SCRUB_STAT_URGENT 1).eventL l 0x5010 ([1] ++ bytesBE (s.scrubElapsed l) 2)
  else if due - done ≤ dramWords / 128 ∧ urgent then s.wr l R.MEM_SCRUB_STAT_URGENT 0
  else s

/-- Whether a lane holds its scrub stamp (R289). -/
def State.scrubStamp (s : State) (l : Lane) : Bool := s.power.stamps.any fun x => x.held && x.lane == l && x.kind == stScrub

/-- The round in progress overlaps the lane's compute share, which runs from b + 300 µs to b + 300 µs + P/2 (R189, R291). -/
def State.inComputeShare (s : State) : Bool := s.cyc.active && decide (1000 * s.cyc.rounds < 300 + 500 * s.period)

/-- A burst may be issued: at most one in a round and, unless the scrub is urgent, only outside the compute share (R291). -/
def State.burstDue (s : State) (l : Lane) : Bool :=
  decide ((s.lane l).burstIn ≠ some (s.time.now / 1000000)) && (decide (s.rd l R.MEM_SCRUB_STAT_URGENT = 1) || !s.inComputeShare)

/-- SCRUB_BURST: 64 KB of DRAM from DPOS on, at most 64 write-backs; only under the stamp (R289, R291). -/
def execScrubBurst (l : Lane) (s : State) : Host.Outcome State Fault Refusal :=
  let s0 := s.judgePace l
  if !s.scrubStamp l || decide (s.rd l R.MEM_FILL_DRAM_DONE = 0) then .next s
  else if !s0.burstDue l then .next s0
  else
    let s1 := s0.onLane l fun x => { x with burstIn := some (s0.time.now / 1000000) }
    let from' := s1.rd l R.MEM_SCRUB_POS_DPOS
    let r := s1.scrubRun l from' 64 (min 8192 ((0xC0000000 - from') / 8))
    let s2 : State :=
      if r.2 < 0xC0000000 then r.1.wr l R.MEM_SCRUB_POS_DPOS r.2
      else
        let s3 := (r.1.wr l R.MEM_SCRUB_POS_DPOS 0x40000000).wr l R.MEM_SCRUB_STAT_PASSES (r.1.rd l R.MEM_SCRUB_STAT_PASSES + 1)
        s3.onLane l fun x => { x.passEnd 1 with scrubFrom := s3.time.now }
    .next ((s2.judgePace l).transferEnds l .scrubber)

/-- SRAM_SCRUB_STEP: the next word of SRAM, in a bank cycle that nobody else asks for (R288, R290). -/
def execSramScrubStep (l : Lane) (s : State) : Host.Outcome State Fault Refusal :=
  if s.rd l R.MEM_FILL_SRAM_DONE = 0 then .next s
  else
    let a := s.rd l R.MEM_SCRUB_POS_SPOS
    let s1 := s.scrubWord l a
    .next (if a + 8 < 0x1000000 then s1.wr l R.MEM_SCRUB_POS_SPOS (a + 8)
      else (s1.wr l R.MEM_SCRUB_POS_SPOS 0).onLane l fun x => x.passEnd 0)

/-- SCRUB_PASS_LATE: a pass of either memory has taken longer than PERIOD + 60 s (R292). -/
def execScrubPassLate (l : Lane) (dram : Bool) (s : State) : Host.Outcome State Fault Refusal :=
  .next (if s.rd l R.MEM_FILL_DRAM_DONE = 0 then s
    else (s.wr l R.MEM_ECC_STAT_SCRUB_LATE 1).eventL l 0x5011 ([ofBool dram] ++ bytesBE (s.scrubElapsed l) 2))

end Sys2Proof.Machine
end

