-- ==== Sys2Proof/Machine/Start.lean ====
section
/-! DEFINITION. Machine/Start.lean: from STANDBY through the steps of STARTING (R185, R261, R262, R294, R295, R397 to R401,
R466, R467, R473 to R479, R500, R517). A START_SEQUENCE command carries out the next step of R475. -/
namespace Sys2Proof.Machine

/-- The whole result set of the last orderly shutdown serves a short start; after a reset the start is a full one (R474, R490). -/
def State.shortStart (s : State) : Bool :=
  s.d0.orderly && s.power.cause != 4 && s.power.cause != 5 && decide (s.rdM R.BST_RESULT_VALID = 1) && s.allTested && decide (s.rdM R.BST_CTRL_FULL_NEXT = 0)

/-- STANDBY_TO_STARTING: with VIN in band and RST_N high (R473). The cause of the start and its kind are settled at entry (R474,
R478). After an orderly shutdown to STANDBY the module waits for VIN to appear anew (R484, R485). -/
def execStandbyToStarting (s : State) : Host.Outcome State Fault Refusal :=
  if s.power.supply ≠ .standby ∨ s.power.rstLow ∨ s.rdM R.PWR_SUPPLY_INBAND = 0 ∨ s.power.shutdown = 2 then .next s
  else
    let full := !s.shortStart
    let s1 := s.onPower fun p =>
      { p with supply := .on, safe1 := false, safe6 := false, step := 1, full := full, shutdown := 0, stopping := false
               retry := [], waiting := none, bare := false, stamps := [], lampTest := true }
    let s2 := ((s1.setMode mStarting).wrM R.PWR_DOM_STAT_FAULT 0).wrM R.PWR_DOM_STAT_REG_X 0
    let s3 := ((s2.wrM R.PWR_DOM_STAT_REG_Y 0).wrM R.BST_UNUSABLE_UNUSABLE 0).wrM R.PWR_RST_LEVEL 1
    .next ((s3.wrAll R.PWR_RST_HELD_LONG (ofBool (decide (s.power.cause = 5)))).onLog fun x => { x with closed := false })

/-! ## Steps 1 to 5: power, repair, fill -/

/-- D0 is restored from the copy in secure flash; this start counts as the one after the copied count (R467). -/
def State.restoreD0 (s : State) : State :=
  let s1 := (s.wrM R.PWR_D0_PCYC (s.sec.counters.1 + 1)).wrM R.PWR_D0_OPMIN s.sec.counters.2
  let s2 := ((s1.wrM R.BST_RESULT_VALID 0).wrM R.PWR_RST_D0_RESTORED 1).onPower fun p => { p with cause := 6, full := true }
  s2.event 0xB050 []

/-- The position coding (R397, R594): one pin tied and the other open. -/
def State.readPins (s : State) (a b : Option Bool) : State :=
  let s1 := s.onPower fun p => { p with pins := (a, b) }
  if a = b ∨ a.isNone ∨ b.isNone then (s1.wrM R.TWN_ROLE_POS_ERR 1).event 0x9001 []
  else (s1.wrM R.TWN_ROLE_POS_ERR 0).wrM R.TWN_ROLE_POS (ofBool (b == some true))

/-- Blocks that failed in the results in use are unusable in a short start; a full start tests every block anew (R474, R476). -/
def State.useResults (s : State) : State :=
  if s.power.full then (s.wrM R.BST_RESULT_RES 0).notApplicable.wrM R.BST_RESULT_VALID 0
  else (List.range 17).foldl (fun (s : State) (b : Nat) => if s.blockRes b = 2 then s.markUnusable b else s) s

/-- Step 1: power-cycle count, ORDERLY cleared in D0, D7 on; the counters, the backup cell, the pins and the results are taken.
PWR_RST.ORDERLY shows how the last stop was (R494; log entry 190). -/
def State.start1 (s : State) (inp : StartInput) : State :=
  let s1 := (s.wrM R.PWR_RST_D0_RESTORED 0).powerOn 7
  let s2 := if inp.d0Ok then s1.incWrapM R.PWR_D0_PCYC else s1.restoreD0
  let s2' := { s2 with d0 := { s2.d0 with orderly := false } }
  let s3 := ((s2'.wrM R.PWR_RST_ORDERLY (ofBool s2.d0.orderly)).wrM R.BST_CTRL_FULL_NEXT 0).wrM R.SYS_CAUSE_CAUSE s2.power.cause
  let low := decide (inp.cellMv < 2600)
  let s4 := (s3.wrM R.PWR_RST_CELL_MV inp.cellMv).wrM R.PWR_RST_CELL_LOW (ofBool low)
  let s5 := if low then s4.event 0xB051 [] else s4
  (s5.readPins inp.twPa inp.twPb).useResults

/-- DRAM candidates of a lane are repaired within the resources its devices still offer, which the manual does not state (R295). -/
def State.repairDram (s : State) (l : Lane) : State :=
  let s0 := (s.wr l R.MEM_SPARE_PPR_FREE (s.freshNat % 256)).drawn
  (s0.d0.cand.get l).foldl
    (fun (s : State) (c : Nat × Nat × Nat) =>
      let data := [c.1, c.2.1] ++ bytesBE c.2.2 4
      let left := s.rd l R.MEM_SPARE_PPR_FREE
      if c.1 ≠ 1 then s
      else if left = 0 then s.event 0x5022 data
      else
        let s1 := (s.wr l R.MEM_SPARE_PPR_FREE (left - 1)).inc l R.MEM_SPARE_PPR_USED
        ({ s1 with d0 := { s1.d0 with cand := s1.d0.cand.set l ((s1.d0.cand.get l).erase c) } }).event 0x5021 data) s0

/-- Step 2: the lane domains, and the repair of their DRAM. -/
def State.start2 (s : State) : State :=
  Lane.list.foldl (fun (s : State) (l : Lane) => if s.laneUsable l then (s.powerOn (laneDom l)).repairDram l else s) s

/-- Step 3: D5, with the regulator of an unusable star core off. -/
def State.start3 (s : State) : State :=
  (s.powerOn 5).onPower fun p => { p with d5 := (!s.unusable 12, !s.unusable 13) }

/-- Step 5: every usable lane is filled, and in a full start every block has a result; lanes whose memory cannot be repaired are
unusable (R280, R296, R475). -/
def State.start5 (s : State) (bad : Nat) : Option State :=
  let s1 := (maskLanes bad).foldl (fun (s : State) (l : Lane) => s.markUnusable (4 * l.bit + 3)) s
  let filled := Lane.list.all fun l => !s1.laneUsable l || decide (s1.rd l R.MEM_FILL_DRAM_DONE = 1)
  if filled && (!s.power.full || s.allTested) then some s1 else none

/-! ## Steps 6 to 8: boot, links, station image -/

/-- D7 counts the start, judges a tamper event, copies the counters, and takes what D0 kept pending into the event buffer (R382,
R459, R467, R499). -/
def State.startD7 (s : State) : State :=
  let s1 := (s.onSec fun x => { x with counters := (s.rdM R.PWR_D0_PCYC, s.rdM R.PWR_D0_OPMIN) }).countStart.zeroizeIfTampered
  let recs := s1.d0.pending
  recs.foldl State.bufferRec { s1 with d0 := { s1.d0 with pending := [] } }

/-- Step 6: secure boot (R500). The firmware slots are the ones held; at a first start they are what flash holds. -/
def State.start6 (s : State) (inp : StartInput) : State × Bool :=
  let act := s.sec.firmware.orElse fun _ => inp.firmware
  let ina := s.sec.firmwareIna.orElse fun _ => inp.firmwareInactive
  let s1 := s.onSec fun x => { x with firmware := act, firmwareIna := ina }
  let go (s0 : State) (fw : Option Image) : State :=
    let s := s0.onSec fun x => { x with booted := fw }
    let s2 := Lane.list.foldl (fun (s : State) (l : Lane) => if s.laneUsable l then s.onLane l fun x => x.release inp.entry else s) s
    (s2.setModReg R.UPD_FMT (BitVec.ofNat 64 0x0001000100010001)).startD7
  if s1.firmwareOk act then (go s1 act, true)
  else if s1.firmwareOk ina then (go (s1.event 0xC001 []) ina, true)
  else ((s1.event 0xC002 []), false)

/-- The latency of the link between two lanes (R271). -/
def linkLat (x : StartInput) (l v : Lane) : Nat :=
  match l, v with
  | .a, .b => x.latAB
  | .b, .a => x.latAB
  | .a, .c => x.latAC
  | .c, .a => x.latAC
  | .b, .c => x.latBC
  | .c, .b => x.latBC
  | _, _ => 0

/-- Step 7: links are trained, the lanes vote, and boundary markers begin with the first test round set (R35, R186, R241). -/
def State.start7 (s : State) (inp : StartInput) : State :=
  let ls := s.runningLanes
  let train (s : State) (l : Lane) : State :=
    let up (v : Lane) : Nat := ofBool (ls.contains v)
    let link (s : State) (v : Lane) : State := (s.wr l (upField l v) (up v)).wr l (latField l v) (up v * linkLat inp l v % 256)
    ((((link (link s l.others.1) l.others.2).wr l R.CMP_VOTE_VIEW (maskOf ls)).setSt l 3).raise l 4)
  let s1 : State := State.revote (ls.foldl train s)
  let s2 := { s1 with cyc := { s1.cyc with active := true, kind := .test } }
  let s3 := s2.openRoundSet .test
  { s3 with cyc := { s3.cyc with kt := 0 } }

/-- Step 8: the active station image is checked and its logic loaded. Without one that passes, or unowned, the module goes on
without station data (R475, R479, R504, R506). -/
def State.start8 (s : State) (inp : StartInput) : State :=
  let none' (s : State) : State := (s.onUpd fun u => { u with active := none }).onPower fun p => { p with bare := true }
  match s.upd.active.orElse fun _ => inp.station with
  | none => none' s
  | some i =>
    let res := s.imageCheck i
    let s1 := s.checked i res
    match i.station with
    | some b =>
      if i.kind = 1 ∧ res = 1 ∧ s.sec.anchor.isSome then
        (s1.runningLanes.foldl (fun (s : State) (l : Lane) =>
          (s.loadLogic l b).onLane l fun x => { x with imageId := identOf (some i) }) s1).onUpd fun u => { u with active := some i }
      else none' s1
    | none => none' s1

/-! ## Steps 9 to 11: registers, injection tests, the first k -/

/-- The ENGINE and SCRUB stamps of a lane are granted (R475, step 9). -/
def State.grantStart (s : State) (l : Lane) : State :=
  let st (tag kind n : Nat) : Stamp := { lane := l, tag := tag, kind := kind, arg := 0, held := true, order := n }
  ((s.onPower fun p =>
    { p with stamps := p.stamps ++ [st 0 stEngine p.order, st 1 stScrub (p.order + 1)], order := p.order + 2 }).wr l R.RTE_STAT_STAMP 1).raise l 6

/-- DNR_NODE by the module's position (R398). -/
def State.writeNode (s : State) (l : Lane) (b : StationBody) : State :=
  let second := decide (s.rdM R.TWN_ROLE_POS = 1)
  let own := if second then b.node1 else b.node0
  let twin := if second then b.node0 else b.node1
  (((s.wr l R.DNR_NODE_NODE own).wr l R.DNR_NODE_TWIN twin).wr l R.DNR_NODE_VALID 1).wrM R.TWN_ROLE_OWN own

/-- Schedule tables of the image. -/
def tablesOf (b : StationBody) : Vector (List Word) 4 := Vector.ofFn fun i => b.schedules.getD i.val []

/-- The station data of a lane: task registers, tables, node, and the initial coded state with a D that nothing states (R109,
R398). -/
def State.writeStation (s : State) (l : Lane) (b : StationBody) (d : Nat) : State :=
  let s1 := (taskRegs b).foldl (fun (s : State) (w : Nat × Word) => s.setLaneReg l w.1 w.2) s
  let s2 := (s1.onLane l fun x => { x with sched := tablesOf b, shadowTab := tablesOf b }).writeNode l b
  b.tasks.foldl (fun (s : State) (t : TaskImage) => s.writeTask l t (b.codingA.get l) d (initialWords t)) s2

/-- The settings record is read (R517): PMC_SELn and PTP_DOM of the lanes that run, and the claim of a slot, which waits for a claim
map. In another format it is replaced by the defaults. -/
def State.readSettings (s : State) (ok : Bool) : State :=
  if !ok then
    (s.onLog fun x => { x with rates := [], settings := { regs := [], slot := false, again := false } }).event 0xC030 []
  else
    let one (s : State) (l : Lane) (r : Nat × Nat × Word) : State :=
      if r.1 ≠ l.code then s
      else if r.2.1 = R.TIM_PPS then s.wr l R.TIM_PPS_PTP_DOM (R.TIM_PPS_PTP_DOM.of r.2.2)
      else if R.PMC_SEL 0 ≤ r.2.1 ∧ r.2.1 < R.PMC_SEL 32 then s.setLaneReg l r.2.1 r.2.2
      else s
    let s1 := s.runningLanes.foldl (fun (s : State) (l : Lane) => s.log.settings.regs.foldl (fun s r => one s l r) s) s
    s1.onSettings fun x => { x with again := x.slot }

/-- Step 9: stamps, registers, schedule and guardian tables, the settings record, and configuration frames (R436, R475, R517). -/
def State.start9 (s : State) (inp : StartInput) : State :=
  let s1 := s.runningLanes.foldl State.grantStart s
  let d := s1.freshNat % 2 ^ 29
  let s2 := match s1.station with
    | some b =>
      let put (c : StarCore) : StarCore := { c with tables := tablesOf b }
      let s := (s1.drawn.onStar .x put).onStar .y put
      s.runningLanes.foldl (fun (s : State) (l : Lane) => s.writeStation l b d) s
    | none => s1
  let s3 := { s2 with field := { s2.field with cfgOut := if s2.fitted then List.range 49 else [] } }
  s3.readSettings inp.settingsOk

/-- The injection tests of one lane (R261): point, and the channel for point 0x7. -/
def injTests : List (Nat × Bool) := [(1, false), (2, false), (3, false), (4, false), (5, false), (6, false), (7, false), (7, true), (8, false), (9, false)]

/-- The runs of one injection test. -/
def State.runsOf (s : State) (l : Lane) (t : Nat × Bool) : List InjRun :=
  s.cyc.injRuns.filter fun r => r.lane == l.code && r.point == t.1 && r.chanY == t.2

/-- Every injection test has run in the lanes that run; one that was not caught has been repeated once (R261, R262). -/
def State.testsDone (s : State) : Bool :=
  s.runningLanes.all fun l => injTests.all fun t => (s.runsOf l t).any (fun r => r.caught) || decide (2 ≤ (s.runsOf l t).length)

/-- The tests that failed twice: point, lane, channel Y, and the lanes that did not detect. Where the test's own round sets show
that it was not caught, no other lane detected. -/
def State.testsFailed (s : State) (inp : StartInput) : List (Nat × Lane × Bool × Nat) :=
  let shown := s.runningLanes.flatMap fun l => (injTests.filter fun t => !(s.runsOf l t).any fun r => r.caught).map fun t =>
    (t.1, l, t.2, 7 - l.mask)
  shown ++ inp.injFails.filterMap fun x => (laneOfCode x.2.1).map fun l => (x.1, l, x.2.2.1, x.2.2.2)

/-- The consequence of a test that failed twice (R262): points 0x1, 0x2, 0x8 and 0x9 cost the lane itself, points 0x3 to 0x5 each
other lane that did not detect, point 0x6 the start, and point 0x7 the selector of the channel. CHAN applies to point 0x7 only. -/
def State.failTest (s : State) (x : Nat × Lane × Bool × Nat) : State :=
  let ch := if x.1 = 7 then ofBool x.2.2.1 else 0xFF
  let s1 := s.event 0x4020 [x.1, x.2.1.code, ch]
  let lose (s : State) (l : Lane) : State := (s.event 0x4021 [x.1, l.code, ch]).markUnusable (4 * l.bit)
  match x.1 with
  | 3 => (maskLanes (x.2.2.2 &&& (7 - x.2.1.mask))).foldl lose s1
  | 4 => (maskLanes (x.2.2.2 &&& (7 - x.2.1.mask))).foldl lose s1
  | 5 => (maskLanes (x.2.2.2 &&& (7 - x.2.1.mask))).foldl lose s1
  | 6 => s1.startFails 10
  | 7 => (s1.wrM (if x.2.2.1 then R.STR_STAT_SELF_Y else R.STR_STAT_SELF_X) 1).event 0x6041 [ofBool x.2.2.1, 2]
  | _ => lose s1 x.2.1

/-- Step 10: the outcome of the injection tests (R262). -/
def State.start10 (s : State) (inp : StartInput) : State := (s.testsFailed inp).foldl State.failTest s

/-- Twin operation at the end of STARTING (R400, R401): HELLO with the link in use, otherwise alone as LEAD. -/
def State.startTwin (s : State) : State :=
  if s.twinOn then (s.setTw twHello).wrAll R.DNR_CTRL_CS_EN (1 - s.rdM R.TWN_ROLE_POS) else s.runAlone

/-- Step 11: the first k and boundary; STARTING ends (R185, R479). Every connection is LOST, the control words of the first round
set are TRUE, and the default claim on PPS_IN is held (R208, R394, R575). -/
def State.start11 (s : State) : State :=
  let conns : List Conn := s.inbound.map fun e =>
    { conn := e.conn, phase := .lost, seq := 0, tLast := 0, data := [], accepted := none, bytes := [], failed := false
      before := none, fresh := false }
  let s1 := s.setModReg R.TSK_RSNUM (BitVec.ofNat 64 (s.rdM R.PWR_D0_PCYC * 2 ^ 32))
  let s2 := { s1 with
    tele := { s1.tele with conns := conns }
    cyc := { s1.cyc with firstRun := 0xFFFF, fresh := 0, inputs := [], prev := [] } }
  let s3 := s2.onLanes fun x =>
    { x with inject := none, injectNext := none, claims := if x.running then withDefault x.claims s2.fitted s2.maps47 else x.claims }
  let s4 := (if s3.power.bare then s3.enterCommissioning else s3.setMode mIntegrating).startTwin
  (s4.openRoundSet .normal).event 0xB030 ([ofBool s4.power.full] ++ bytesBE (s4.rdM R.SYS_CAUSE_CAUSE) 2 ++ [0])

/-- The lamp test ends: 200 ms after entry to STARTING, which is the end of step 7, or lies before that of step 5 in a full start
(R475, R600; log entry 188). -/
def State.endLampTest (s : State) : State := s.onPower fun p => { p with lampTest := false }

/-- The step after this one. -/
def State.nextStep (s : State) : State := s.onPower fun p => { p with step := p.step + 1 }

/-- START_SEQUENCE: the next step of R475. A step that has not passed waits up to step 5; from step 6 on, step 8 excepted, its
failure latches SAFE. Step 10 waits for its test round sets, step 11 for HOLDUP_OK, and a module with an invalid position coding stays in STARTING (R397). -/
def execStartSequence (inp : StartInput) (s : State) : Host.Outcome State Fault Refusal :=
  let n := s.power.step
  if s.power.supply ≠ .on ∨ s.mode ≠ mStarting ∨ s.safe ∨ 11 < n then .next s
  else if !inp.ok && decide (n ≠ 8) then .next (if n ≤ 5 then s else s.startFails n)
  else
    .next (match n with
      | 1 => (s.start1 inp).nextStep
      | 2 => s.start2.nextStep
      | 3 => s.start3.nextStep
      | 4 => (s.powerOn 6).nextStep
      | 5 => match s.start5 inp.lanesBad with | some t => (if t.power.full then t.endLampTest else t).nextStep | none => s
      | 6 =>
        let r := s.start6 inp
        if r.2 then r.1.nextStep else r.1.startFails 6
      | 7 => (s.start7 inp).endLampTest.nextStep
      | 8 => (s.start8 inp).nextStep
      | 9 => (s.start9 inp).nextStep
      | 10 => if s.testsDone then (s.start10 inp).nextStep else s
      | _ => if s.rdM R.PWR_SUPPLY_HOLDUP_OK = 0 ∨ s.rdM R.TWN_ROLE_POS_ERR = 1 then s else s.start11.nextStep)

end Sys2Proof.Machine
end

