-- ==== Sys2Proof/Machine/Time.lean ====
section
/-! DEFINITION. Machine/Time.lean: link delays, holdover, external time (chapter 09), and the wide-area port (R378, R380,
R383). -/
namespace Sys2Proof.Machine

/-! ## Link delay (R347 to R349) -/

/-- The measurements of a port. -/
def State.link (s : State) (ch : Chan) (port : Nat) : LinkMeas :=
  if h : port < 9 then (s.star ch).links[port] else { t1 := none, good := [], bad := 9, answer := none }

/-- The measurements of a port changed. -/
def State.onLink (s : State) (ch : Chan) (port : Nat) (f : LinkMeas → LinkMeas) : State :=
  s.onStar ch fun x => { x with links := Vector.ofFn fun i => if i.val = port then f x.links[i] else x.links[i] }

/-- An external port of a core that carries marks: enabled, of a core that runs. -/
def State.linkOpen (s : State) (ch : Chan) (port : Nat) : Bool :=
  decide (1 ≤ port) && decide (port ≤ 8) && decide (s.rdM (R.STR_PORT_CTRL_EN (portN ch port)) = 1) && decide (s.coreRole ch ≠ 0)
    && decide (s.coreState ch ≠ 3)

/-- LINK_DELAY_REQUEST: a request mark leaves a port at t1 (R347, R349). -/
def execLinkDelayRequest (ch : Chan) (port t1 : Nat) (s : State) : Host.Outcome State Fault Refusal :=
  .next (if s.linkOpen ch port then s.onLink ch port fun k => { k with t1 := some t1 } else s)

/-- The mean of measurements in half ns, rounded to 1 ns with halves up (R349). -/
def meanDelay (good : List Nat) : Nat := (good.foldl (· + ·) 0 + good.length) / (2 * good.length)

/-- A measurement 2δ, in half ns, is judged (R349). -/
def State.measure (s : State) (ch : Chan) (port : Nat) (d2 : Int) : State :=
  let n := portN ch port
  let k := s.link ch port
  let est := decide (s.rdM (R.TIM_LDLY_VALID n) = 1)
  let cur := s.rdM (R.TIM_LDLY_DELAY n)
  let ok := decide (0 ≤ d2) && decide (d2 ≤ 10000) && (!est || decide ((d2 - 2 * (cur : Int)).natAbs ≤ 64))
  if !ok then
    let s1 := s.runningLanes.foldl (fun (s : State) (l : Lane) => s.inc l (R.TIM_LDLY_DISC n)) s
    s1.onLink ch port fun k => { k with t1 := none, good := if est then k.good else [] }
  else
    let v := d2.toNat
    if est then
      let g := (v :: k.good).take 8
      (s.wrM (R.TIM_LDLY_DELAY n) (meanDelay g)).onLink ch port fun k => { k with t1 := none, good := g, bad := 0 }
    else
      match k.good with
      | w :: _ =>
        if k.bad ≤ 1 ∧ ((v : Int) - w).natAbs ≤ 32 then
          let g := [v, w]
          let s1 := (s.wrM (R.TIM_LDLY_VALID n) 1).wrM (R.TIM_LDLY_DELAY n) (meanDelay g)
          (s1.onLink ch port fun k => { k with t1 := none, good := g, bad := 0 }).event 0x7010
            ([chanNum ch, port] ++ bytesBE (meanDelay g) 2)
        else s.onLink ch port fun k => { k with t1 := none, good := [v], bad := 0 }
      | [] => s.onLink ch port fun k => { k with t1 := none, good := [v], bad := 0 }

/-- MARK_RECEIVED: a request is answered 2,000 ns later unless the port is transmitting; a response closes the measurement
of the open request (R348, R349). -/
def execMarkReceived (ch : Chan) (port : Nat) (response : Bool) (t : Nat) (transmitting : Bool) (s : State) :
    Host.Outcome State Fault Refusal :=
  if !s.linkOpen ch port then .next s
  else if response then
    match (s.link ch port).t1 with
    | some t1 => .next (s.measure ch port ((t : Int) - t1 - 2000))
    | none => .next s
  else .next (if transmitting then s else s.onLink ch port fun k => { k with answer := some (t + 2000) })

/-- LINK_DELAY_DISCARD: eight rounds in a row without a valid measurement discard the link delay (R349). -/
def execLinkDelayDiscard (ch : Chan) (port : Nat) (s : State) : Host.Outcome State Fault Refusal :=
  let n := portN ch port
  if port ≤ 8 ∧ s.rdM (R.TIM_LDLY_VALID n) = 1 ∧ 9 ≤ (s.link ch port).bad then
    let s1 := ((s.wrM (R.TIM_LDLY_VALID n) 0).wrM (R.TIM_LDLY_DELAY n) 0).onLink ch port fun k => { k with good := [] }
    .next (s1.event 0x7011 ([chanNum ch, port] ++ bytesBE (s.rdM (R.TIM_LDLY_DELAY n)) 2))
  else .next s

/-! ## Holdover (R358) -/

/-- HOLDOVER_ENTRY: no SYNC of either domain in two rounds running (R358). -/
def execHoldoverEntry (s : State) : Host.Outcome State Fault Refusal :=
  if s.time.dom < 2 ∧ 3 ≤ s.time.missed ∧ s.rdM R.DNR_STAT_LEADER = 0 then
    let s1 := s.runningLanes.foldl (fun (s : State) (l : Lane) => (s.wr l R.TIM_STAT_DOM 2).wr l R.TIM_STAT_HOLD_R 0) s
    .next (({ s1 with time := { s1.time with dom := 2 } }).event 0x7002 [])
  else .next s

/-! ## External time (R360 to R365) -/

/-- PPS_IN is in use: the duty is the module's, IN_EN is set, and PPS_IN holds the pin (R360, R370, R576). -/
def State.ppsIn (s : State) : Bool := s.extDuty && decide (s.rd s.mainLane R.TIM_PPS_IN_EN = 1) && decide (s.time.pin = 1)

/-- TAI at an instant T, in ns (R360). -/
def State.taiAt (s : State) (t : Nat) : Int :=
  (t : Int) + s.time.extOff + s.time.extRate * ((t : Int) - s.time.rstart) / 100000000000

/-- The external time of the module set: TAI is off ahead of T at instant t, at a rate in 0.01 ppb, carried forward to the
start of the round (R362). -/
def State.setExternal (s : State) (t : Nat) (off rate : Int) (src : Nat) : State :=
  let r := s.roundStart
  let s1 := { s with time := { s.time with
    extOff := off + rate * ((r : Int) - t) / 100000000000, extRate := rate, rstart := r, holdFrom := none } }
  (((s1.wrM R.TIM_STAT_EXT_VALID 1).wrM R.TIM_STAT_EXT_HOLD 0).wrM R.TIM_STAT_EXT_SRC src).wrAll R.TIM_RATE_EXT
    ((rate % 2 ^ 32).toNat)

/-- The mean rate of TAI over the accepted edges of the last 16 s, newest first, in 0.01 ppb (R362): between two edges lie the whole
seconds nearest to their distance. -/
def edgeRate (edges : List Nat) (dflt : Int) : Int :=
  match edges with
  | t :: rest =>
    match (rest.filter fun e => decide (t ≤ e + 16000010000)).getLast? with
    | some t0 =>
      let d : Int := (t : Int) - t0
      let secs : Int := (d + 500000000) / 1000000000 * 1000000000
      if t0 < t then (secs - d) * 100000000000 / d else dflt
    | none => dflt
  | [] => dflt

/-- An accepted edge is given its TAI second (R362). -/
def State.acceptEdge (s : State) (t : Nat) : State :=
  let es := (t :: s.time.edges).take 17
  let s1 := { s.wrM R.TIM_PPS_T_T t with time := { s.time with edges := es } }
  let use (s : State) (sec : Nat) (src : Nat) : State := s.setExternal t ((sec : Int) - t) (edgeRate es s.time.extRate) src
  match s.time.ptp with
  | some off =>
    let at1588 : Int := (t : Int) + off
    let sec : Int := (at1588 + 500000000) / 1000000000 * 1000000000
    let s2 := use s1 sec.toNat 2
    if 1000000 < (at1588 - sec).natAbs then s2.event 0x7022 (bytesInt (at1588 - sec) 8) else s2
  | none =>
    match s.time.setTai with
    | some sec =>
      let s2 := use s1 sec 1
      { s2 with time := { s2.time with setTai := some (sec + 1000000000) } }
    | none => s1

/-- PPS_EDGE: an edge of the selected polarity, postmarked t; it is accepted at 1 s ± 10 µs from the one before (R361). -/
def execPpsEdge (rising : Bool) (t : Nat) (s : State) : Host.Outcome State Fault Refusal :=
  let l := s.mainLane
  if !s.ppsIn || rising != decide (s.rd l R.TIM_PPS_POL = 0) then .next s
  else
    let te := t - s.rd l R.TIM_PPS_CABLE
    let spaced (from' : Nat) : Bool :=
      let d : Int := (te : Int) - from'
      decide ((d + d * s.time.extRate / 100000000000 - 1000000000).natAbs ≤ 10000)
    let accepted := s.time.edges.head?
    let near := match accepted with | some a => decide (a ≤ te) && decide (te ≤ a + 10000000) | none => false
    if near then .next s
    else if 3 ≤ s.time.edgeRun then
      let s1 := { s with time := { s.time with edgeLast := some te } }
      .next (match accepted with | some a => if spaced a then s1.acceptEdge te else s1 | none => s1.acceptEdge te)
    else
      let run := match s.time.edgeLast with | some a => if spaced a then s.time.edgeRun + 1 else 1 | none => 1
      let s1 := { s with time := { s.time with edgeLast := some te, edgeRun := run } }
      .next (if run = 3 then s1.acceptEdge te |>.event 0x7020 [] else s1)

/-- PPS_LOSS: no edge accepted for 2 s, or the IEEE 1588 lock that alone gave the time is lost: external time is held
(R363). -/
def execPpsLoss (s : State) : Host.Outcome State Fault Refusal :=
  let late := decide (3 ≤ s.time.edgeRun) &&
    (match s.time.edges.head? with | some e => decide (e + 2000000000 ≤ s.time.now) | none => false)
  let unlocked := decide (s.rdM R.TIM_STAT_EXT_SRC = 3) && s.time.ptp.isNone && decide (s.rdM R.TIM_STAT_EXT_HOLD = 0)
  if s.extDuty && (late || unlocked) then
    let s1 := s.wrM R.TIM_STAT_EXT_HOLD 1
    .next (({ s1 with time := { s1.time with edgeRun := 0, edgeLast := none, holdFrom := some s.time.now } }).event 0x7021 [])
  else .next s

/-- EXT_TIME_INVALID: external time has been held for 3,600 s (R363). -/
def execExtTimeInvalid (s : State) : Host.Outcome State Fault Refusal :=
  match s.time.holdFrom with
  | some h =>
    if h + 3600000000000 ≤ s.time.now ∧ s.rdM R.TIM_STAT_EXT_VALID = 1 then
      .next ((s.wrM R.TIM_STAT_EXT_VALID 0).event 0x7023 [])
    else .next s
  | none => .next s

/-- PPS_OUT_PULSE: PPS_OUT rises at the next whole TAI second, or the next whole second of T while external time is not
valid, and falls after WIDTH ms (R365). -/
def execPpsOutPulse (s : State) : Host.Outcome State Fault Refusal :=
  if s.rd s.mainLane R.TIM_PPS_OUT_EN = 0 then .next s
  else
    let now := s.time.now
    let t : Nat :=
      if s.rdM R.TIM_STAT_EXT_VALID = 1 then
        let rem : Int := (1000000000 - s.taiAt now % 1000000000) % 1000000000
        ((now : Int) + rem * 100000000000 / (100000000000 + s.time.extRate)).toNat
      else (now + 999999999) / 1000000000 * 1000000000
    .next { s with time := { s.time with ppsOut := some (t, t + 1000000 * s.rd s.mainLane R.TIM_PPS_WIDTH) } }

/-- The PPS_OUT pair at an instant: high or low while TIM_PPS.OUT_EN drives it, none at high impedance (R365, R598). -/
def State.ppsOutAt (s : State) (t : Nat) : Option Bool :=
  if s.rd s.mainLane R.TIM_PPS_OUT_EN = 0 then none
  else some (match s.time.ppsOut with | some (up, down) => decide (up ≤ t) && decide (t < down) | none => false)

/-- PTP_MESSAGE: a message of the slave clock's domain and transport; the lock is gained or lost, and without PPS_IN a
locked clock gives the phase (R362 to R364). -/
def execPtpMessage (msg : PtpMsg) (s : State) : Host.Outcome State Fault Refusal :=
  let l := s.mainLane
  if !s.extDuty ∨ s.rd l R.TIM_PPS_PTP_EN = 0 ∨ msg.domain ≠ s.rd l R.TIM_PPS_PTP_DOM ∨ 127 < msg.domain ∨ msg.supported = false then
    .next s
  else
    let off : Int := (msg.time : Int) - msg.t
    let s1 := { s with time := { s.time with ptp := if msg.locks then some off else none } }
    let s2 := if msg.locks != s.time.ptp.isSome then s1.event 0x7030 [ofBool msg.locks] else s1
    .next (if msg.locks ∧ s.rd l R.TIM_PPS_IN_EN = 0 then s2.setExternal msg.t off s.time.extRate 3 else s2)

/-- A write of TIM_EXT (R362, R370). -/
def State.writeTimExt (s : State) (v : Word) : State :=
    if v.toNat % 1000000000 = 0 ∧ s.time.ptp.isNone then { s with time := { s.time with setTai := some v.toNat } } else s

/-- TIM_EXT_WRITE: the TAI of the next accepted edge; ignored unless a whole second, and while IEEE 1588 is locked
(R370). -/
def execTimExtWrite (l : Lane) (c : CoreId) (v : Word) (s : State) : Host.Outcome State Fault Refusal :=
  .next (s.regAccess l c R.TIM_EXT true fun s => s.writeTimExt v)

/-! ## The wide-area port (R378, R380, R383) -/

/-- WAN_DATAGRAM_RECEIVED: a datagram to the module's UDP port is postmarked and delivered to every lane, where slot 0x3FF
stands for a slot (R383). -/
def execWanDatagramReceived (port postmark : Nat) (payload : List Nat) (s : State) : Host.Outcome State Fault Refusal :=
  match s.station with
  | some b =>
    if port = b.wanPort then
      .next (s.runningLanes.foldl
        (fun (s : State) (l : Lane) => s.onLane l fun x => { x with inbox := x.inbox ++
          [{ slot := 0x3FF, postmark := postmark, crc := crc32c payload, wan := true, chanY := false, port := 0, node := numAt payload 2 2
             len := payload.length, payload := payload }] }) s)
    else .next s
  | none => .next s

/-- CAT3_TELEGRAM_SEND: after the dispatch close the category 3 telegrams of the round set leave X13 in queue order (R378,
R380); none leaves while SAFE is latched (R248). -/
def execCat3TelegramSend (s : State) : Host.Outcome State Fault Refusal :=
  if s.safe || !s.did phClose then .next s
  else
    let cat3 := s.cyc.queue.filter fun q => q.2.1 == 3
    let outs := match s.station with | some b => b.outbound | none => []
    let sent := cat3.filterMap fun q =>
      match outs.find? fun o => o.conn == q.1 with
      | some o => (s.wanBytes o s.nodeId q.2.2).map fun bs => (o.ip, o.port, bs)
      | none => none
    .next { s with
      tele := { s.tele with wanOut := if cat3.isEmpty then s.tele.wanOut else sent }
      cyc := { s.cyc with queue := s.cyc.queue.filter fun q => q.2.1 != 3 } }

end Sys2Proof.Machine
end

