-- ==== Sys2Proof/Machine/RegAccess.lean ====
section
/-! DEFINITION. Machine/RegAccess.lean: what a read of a register gives and what a write of a register does, for every
register of the map (R14 to R16, R31, R34 and the register tables of the chapters), and the commands that are register
accesses of their own. -/
namespace Sys2Proof.Machine

/-! ## Reads (R15, R16) -/

/-- RTE_STAT as the engine stands (R178). -/
def State.rteStat (s : State) (l : Lane) (w : Word) : Word :=
  let e := s.eng l
  let w1 := R.RTE_STAT_HELD.put (R.RTE_STAT_PREEMPTED.put w
    (e.queue.countP fun p => match p.phase with | .preempted _ _ => true | _ => false)) e.queue.length
  match e.running with
  | some (p, r) =>
    R.RTE_STAT_BUSY.put (R.RTE_STAT_RUN_KIND.put (R.RTE_STAT_RUN_TASK.put (R.RTE_STAT_BANK.put w1 (ofBool r.bank)) p.desc.task)
      p.desc.kindRaw) 1
  | none => w1

/-- Entries of the held post in use (R181). -/
def State.heldLevel (s : State) (l : Lane) : Nat :=
  match (s.eng l).running with
  | some (_, r) => entriesUsed r.window
  | none => 0

/-- A mask with a bit for every lock that meets a condition (R580). -/
def lockMask (f : Nat → Bool) : Word := BitVec.ofNat 64 ((List.range 64).foldl (fun m n => setBit m n (f n)) 0)

/-- MEM_CAND: the candidate that MEM_SPARE.CAND_IDX names (R293). -/
def State.candView (s : State) (l : Lane) : Word :=
  match (s.d0.cand.get l)[s.rd l R.MEM_SPARE_CAND_IDX]? with
  | some c => R.MEM_CAND_ROW.put (R.MEM_CAND_CAUSE.put (R.MEM_CAND_MEMORY.put (R.MEM_CAND_VALID.put 0 1) c.1) c.2.1) c.2.2
  | none => 0

/-- STR_STAT with what core X knows and the comparison of the tables (R342). -/
def State.strStat (s : State) (w : Word) : Word :=
  R.STR_STAT_GT_DIFF.put (R.STR_STAT_TWIN.put (R.STR_STAT_LEADER.put w (s.star .x).leader) (s.star .x).twin)
    (ofBool (decide ((s.star .x).tables ≠ (s.star .y).tables)))

/-- The CRC of a table up to its end (R340, R342). -/
def tableCrc (ts : Vector (List Word) 4) (n : Nat) : Word := crc64Words (tableEntries (tableOf ts n))

/-- TWN_ROLE: how the twin's FN_FAIL comes to be known is not stated, so it is a free value once a twin has been heard. -/
def State.twnRole (s : State) (w : Word) : Word :=
  if s.twin.hello.isSome then R.TWN_ROLE_P_FN_FAIL.put w (s.freshNat % 16) else w

/-- Registers whose value at a read rests on the instant of the read or on a measured quantity, which the model does not
hold: each read draws a free value (log entry 3). -/
def freeRead (a : Nat) : Bool :=
  [R.TIM_NOW, R.TIM_EXT, R.PWR_DOM_STAT, R.DNR_ROUND, R.TWN_ROLE].contains a || (decide (R.SEM_LOCK 0 ≤ a) && decide (a < R.SEM_LOCK 64))

/-- The value of a register as a lane core reads it: the bits held, WO bits zero, and the fields that show other state. -/
def State.viewReg (s : State) (l : Lane) (c : CoreId) (a : Nat) : Word :=
  let w := s.regRaw l a &&& ~~~(BitVec.ofNat 64 (match rowOf a with | some r => r.wo | none => 0))
  if a = R.SYS_LANE then BitVec.ofNat 64 l.code
  else if a = R.SYS_MODE then
    R.SYS_MODE_OWNED.put (R.SYS_MODE_FORCED.put (R.SYS_MODE_ROLE.put w (s.rdM R.TWN_ROLE_ROLE)) (s.rdM R.TSK_STAT_FORCED))
      (s.rdM R.SEC_STAT_OWNED)
  else if a = R.RTE_STAT then s.rteStat l w
  else if a = R.RTE_HELD_LVL then R.RTE_HELD_LVL_LEVEL.put w (s.heldLevel l)
  else if a = R.MEM_ECC_STAT then R.MEM_ECC_STAT_PEND_REPAIR.put w (ofBool (decide (s.d0.cand.get l ≠ [])))
  else if a = R.MEM_SCRUB_STAT then
    R.MEM_SCRUB_STAT_STAMP.put (R.MEM_SCRUB_STAT_ELAPSED.put w (s.scrubElapsed l)) (ofBool (s.scrubStamp l))
  else if a = R.MEM_SPARE then
    R.MEM_SPARE_CAND.put (R.MEM_SPARE_SRAM_FREE.put w (256 - (s.d0.fuses.get l).length)) (s.d0.cand.get l).length
  else if a = R.MEM_CAND then s.candView l
  else if a = R.DNR_ROUND then R.DNR_ROUND_SLOT.put w (s.freshNat % 601)
  else if a = R.DNR_TBL_DATA then (tableOf (s.lane l).sched (s.rd l R.DNR_TBL_ADDR_SCHED)).getD (s.rd l R.DNR_TBL_ADDR_ENTRY) 0
  else if R.DNR_TBL_CRC 0 ≤ a ∧ a < R.DNR_TBL_CRC 4 then tableCrc (s.lane l).sched ((a - R.DNR_TBL_CRC 0) / 8)
  else if a = R.STR_STAT then s.strStat w
  else if R.STR_GT_CRC 0 ≤ a ∧ a < R.STR_GT_CRC 4 then tableCrc (s.star .x).tables ((a - R.STR_GT_CRC 0) / 8)
  else if a = R.TIM_NOW then BitVec.ofNat 64 (s.time.now + s.freshNat)
  else if a = R.TIM_EXT then
    if s.rdM R.TIM_STAT_EXT_VALID = 0 then 0 else BitVec.ofInt 64 (s.taiAt (s.time.now + s.freshNat))
  else if a = R.TWN_ROLE then s.twnRole w
  else if a = R.TWN_SWST then R.TWN_SWST_ELAPSED.put w (min 10080 (s.opmin - s.twin.since))
  else if a = R.PWR_DOM_STAT then R.PWR_DOM_STAT_OUT_MW.put w s.freshNat
  else if a = R.PWR_STAMP_GRANT then s.grantView l
  else if a = R.BST_SIG then mapGet (fun _ => 0) s.d0.sigs (s.rd l R.BST_CTRL_BLOCK)
  else if a = R.BST_REF then Config.bistReference (s.rd l R.BST_CTRL_BLOCK)
  else if a = R.UPD_ACT_ID then identOf s.upd.active
  else if a = R.UPD_INA_ID then identOf (if bit s.upd.valid l.bit then s.upd.inactive else none)
  else if a = R.LOG_RATE then s.rateView l
  else if R.LOG_WIN 0 ≤ a ∧ a < R.LOG_WIN 8 then s.winView l ((a - R.LOG_WIN 0) / 8)
  else if R.CRC_VAL 0 ≤ a ∧ a < R.CRC_VAL 8 then
    let u := (a - R.CRC_VAL 0) / 8
    BitVec.ofNat 64 (w.toNat % 2 ^ (crcParam (s.rd l (R.CRC_CFG_POLY u))).1)
  else if R.CRC_OUT 0 ≤ a ∧ a < R.CRC_OUT 8 then
    let u := (a - R.CRC_OUT 0) / 8
    BitVec.ofNat 64 (crcUnitOut (s.rd l (R.CRC_CFG_POLY u)) (s.rd l (R.CRC_VAL_VAL u)))
  else if a = R.TST_KEY then s.sec.challenge
  else if R.SEM_LOCK 0 ≤ a ∧ a < R.SEM_LOCK 64 then
    let f : RField := ⟨a, 15, 0⟩
    f.put w (if f.of w = 0 then 0 else s.freshNat % f.of w + 1)
  else if a = R.SEM_OWNER then lockMask fun n => decide (s.rd l (R.SEM_LOCK_OWNER n) = coreOwner c)
  else if a = R.SEM_DIRTY then lockMask fun n => decide (s.rd l (R.SEM_LOCK_DIRTY n) = 1)
  else if a = R.SEM_CLAIM then R.SEM_CLAIM_FEAT.put w ((s.lane l).holder (s.rd l R.SEM_CLAIM_RES))
  else w

/-- What a read leaves: RC bits are cleared (R16), PEAK follows LEVEL (R181), DNR_TBL_ADDR.ENTRY and LOG_CUR.IDX advance
(R340, R534), and a free value has been drawn. -/
def State.afterRead (s : State) (l : Lane) (a : Nat) : State :=
  let rc : Word := BitVec.ofNat 64 (match rowOf a with | some r => r.rc | none => 0)
  let s1 := if rc = 0 then s else s.regSet l a (s.regRaw l a &&& ~~~rc)
  let s2 := if a = R.RTE_HELD_LVL then s1.wr l R.RTE_HELD_LVL_PEAK (s1.heldLevel l)
    else if a = R.DNR_TBL_DATA then s1.wr l R.DNR_TBL_ADDR_ENTRY (s1.rd l R.DNR_TBL_ADDR_ENTRY + 1)
    else if a = R.LOG_WIN 7 then s1.advanceWin l
    else s1
  if freeRead a then s2.drawn else s2

/-- A register read by a core: its value and the state after it. A read of LOG_WIN0 latches a record first (R534).
At an address that R455 gives two registers, the spec does not say which one answers: a free value (log entry 6). On a CB-TX3-N the
FIO registers read zero (R425). -/
def State.readReg (s : State) (l : Lane) (c : CoreId) (a : Nat) : Word × State :=
  if s.fioAbsent a then (0, s)
  else if twoNamed a then (s.freshWord, s.drawn)
  else
    let s1 := if a = R.LOG_WIN 0 then s.latchWin l else s
    (s1.viewReg l c (busKey a), s1.afterRead l (busKey a))

/-! ## Claims that register writes make (R573, R574) -/

/-- A feature claims a resource as a register write enables it: whether it holds it now. -/
def State.claimBy (s : State) (l : Lane) (feature resource first last : Nat) : Bool × State :=
  s.claim l { feature := feature, resource := resource, first := first, last := last }

/-- A feature gives up what it holds of a resource as a register write disables it. -/
def State.giveUp (s : State) (l : Lane) (feature resource : Nat) : State :=
  if (s.lane l).claims.any fun r => r.feature == feature && r.resource == resource then
    s.onLane l fun x =>
      let rest := x.claims.filter fun r => !(r.feature == feature && r.resource == resource)
      { x with claims := if resource = resPps then withDefault rest s.fitted s.maps47 else rest }
  else s

/-- A claim refused for its range: result code 4 and event 0x1030 (R234, R574, R577). -/
def State.refuseRange (s : State) (l : Lane) (feature : Nat) : State :=
  (s.wr l R.SEM_CLAIM_RESULT 4).eventL l 0x1030 (bytesBE resBuffer 2 ++ [feature, 4])

/-- The 4 KB pages of a byte range that is not empty. -/
def pageOf (a : Nat) : Nat := a / 4096

/-! ## The route engine's registers (R177 to R182) -/

/-- A write of RTE_CTRL: EN is set only while the engine stamp is held; FLUSH acts after it (R177). -/
def State.writeRteCtrl (s : State) (l : Lane) (v : Word) : State :=
  let en := R.RTE_CTRL_EN.of v
  let keep := decide (en = 1) && decide (s.rd l R.RTE_STAT_STAMP = 0)
  let s1 := s.plainWrite l R.RTE_CTRL (if keep then R.RTE_CTRL_EN.put v (s.rd l R.RTE_CTRL_EN) else v)
  let s2 := if R.RTE_CTRL_HINT.of v = 0 then s1.dropHints l else s1
  if R.RTE_CTRL_FLUSH.of v = 1 then s2.flush l else s2

/-- A write of RTE_IMG_BASE: ignored with IMG_REJ while descriptors are held or when the slot is not in DRAM (R180). -/
def State.writeImgBase (s : State) (l : Lane) (v : Word) : State :=
  let lo := R.RTE_IMG_BASE_BASE.of v * 0x100000
  let hi := lo + R.RTE_IMG_BASE_SIZE.of v * 0x100000
  if (s.eng l).queue ≠ [] ∨ lo < 0x40000000 ∨ 0xC0000000 < hi ∨ 256 < R.RTE_IMG_BASE_SIZE.of v then s.wr l R.RTE_STAT_IMG_REJ 1
  else if s.laneReg l R.RTE_IMG_BASE = v then s
  else (s.plainWrite l R.RTE_IMG_BASE v).dropHints l

/-- A write of RTE_DPREVt: ignored with DPREV_REJ while a plain or coded pass of task t is held (R182). -/
def State.writeDprev (s : State) (l : Lane) (t : Nat) (v : Word) : State :=
  if (s.eng l).queue.any fun p => p.desc.task == t && (p.desc.kindRaw == 1 || p.desc.kindRaw == 2) then
    s.wr l R.RTE_STAT_DPREV_REJ 1
  else s.plainWrite l (R.RTE_DPREV t) v

/-- A write of RTE_CTX_BASE: with VALID the area is claimed; one without room in SRAM or over another buffer is refused
(R181, R573, R574). -/
def State.writeCtxBase (s : State) (l : Lane) (v : Word) : State :=
  let lo := R.RTE_CTX_BASE_BASE.of v * 0x10000
  if (s.lane l).locked.contains R.RTE_CTX_BASE then s
  else if R.RTE_CTX_BASE_VALID.of v = 0 then s.plainWrite l R.RTE_CTX_BASE v
  else if 0x1000000 < lo + 0x24000 then s.refuseRange l 7
  else
    let r := s.claimBy l 7 resBuffer (pageOf lo) (pageOf (lo + 0x23FFF))
    if r.1 then r.2.plainWrite l R.RTE_CTX_BASE v else r.2

/-! ## Task and comparison registers (R217, R230, R234, R261) -/

/-- A write of TSK_FORCE: at any time but in COMMISSIONING it is ignored, and so is a COUNT above 256; a table with entries
is claimed (R217, R229, R573). -/
def State.writeForce (s : State) (l : Lane) (v : Word) : State :=
  let n := R.TSK_FORCE_COUNT.of v
  let lo := R.TSK_FORCE_BASE.of v * 64
  if s.mode ≠ mCommissioning ∨ 256 < n then s
  else if n = 0 then (s.plainWrite l R.TSK_FORCE v).giveUp l 9 resBuffer
  else
    let r := s.claimBy l 9 resBuffer (pageOf lo) (pageOf (lo + 16 * n - 1))
    if r.1 then r.2.plainWrite l R.TSK_FORCE v else r.2

/-- The station image with the round set length and task configurations that a lane would have after a write (R192). -/
def State.withTaskWrite (s : State) (l : Lane) (a : Nat) (v : Word) (b : StationBody) : StationBody :=
  let now (a' : Nat) : Word := if a' = a then v else (assoc (s.lane l).tskPend a').getD (s.laneReg l a')
  { b with
    period := R.TSK_RSET_PERIOD.of (now R.TSK_RSET)
    tasks := b.tasks.map fun t => { t with cfg := now (R.TSK_CFG t.task) } }

/-- Whether a value of TSK_RSET or TSK_CFGt keeps the field ranges, enabled or not, and R192 (R230). The other tasks are held to
the ranges where they are enabled: a register at its reset value is in none. -/
def State.taskWriteOk (s : State) (l : Lane) (a : Nat) (v : Word) : Bool :=
  let now (a' : Nat) : Word := if a' = a then v else (assoc (s.lane l).tskPend a').getD (s.laneReg l a')
  let period := R.TSK_RSET_PERIOD.of (now R.TSK_RSET)
  decide (5 ≤ period) && decide (period ≤ 100) && (decide (a = R.TSK_RSET) || cfgFieldsOk period v) && (List.range 16).all (fun t => cfgInRange period (now (R.TSK_CFG t)))
    && match s.station with
      | some b =>
        let b' := s.withTaskWrite l a v b
        (patternOf b').all fun k => tasksFit b'.period (dueIn b' k)
      | none => true

/-- A write of TSK_RSET or a TSK_CFGt: accepted in STARTING and in a conversion round set, for the next boundary (R230). -/
def State.writeTaskReg (s : State) (l : Lane) (a : Nat) (v : Word) : State :=
  let open' := decide (s.mode = mStarting) || decide (s.cyc.kind = RsKind.conversion)
  if open' && s.taskWriteOk l a v then s.onLane l fun x => { x with tskPend := mapInsert x.tskPend a v }
  else s.wr l R.TSK_STAT_CFG_REJ 1

/-- A write of CMP_INJECT: in STARTING a nonzero POINT arms the lane named for the next test round set; in any other state it is
ignored (R261, R270). -/
def State.writeCmpInject (s : State) (l : Lane) (v : Word) : State :=
  let p := R.CMP_INJECT_POINT.of v
  if s.mode = mStarting then
    let s1 := s.plainWrite l R.CMP_INJECT v
    let s2 := ((s1.wr l R.CMP_INJECT_DONE 0).wr l R.CMP_INJECT_CAUGHT 0).wr l R.CMP_INJECT_NAMED 0
    if R.CMP_INJECT_LANE.of v = l.code ∧ 1 ≤ p ∧ p ≤ 9 then
      s2.onLane l fun x => { x with injectNext := some (p, R.CMP_INJECT_BIT.of v, R.CMP_INJECT_CHAN.of v == 1) }
    else s2.onLane l fun x => { x with injectNext := none }
  else s

/-- A write of CMP_SCOPE: with TRAIL_EN the trail is claimed; over a footprint span, the context slots or another buffer the
write is ignored and recorded (R234, R573). -/
def State.writeScope (s : State) (l : Lane) (v : Word) : State :=
  let lo := R.CMP_SCOPE_TRAIL_BASE.of v * 0x10000
  let area := (lo, lo + 0x10000)
  if R.CMP_SCOPE_TRAIL_EN.of v = 0 then (s.plainWrite l R.CMP_SCOPE v).giveUp l 8 resBuffer
  else if s.allSpans.any (fun x => overlap x area) || spanHits (s.ctxArea l) area then s.refuseRange l 8
  else
    let r := s.claimBy l 8 resBuffer (pageOf lo) (pageOf (lo + 0xFFFF))
    if r.1 then r.2.plainWrite l R.CMP_SCOPE v else r.2

/-! ## Counters and check-value units (R541 to R544) -/

/-- A write of PMC_SELn: number 0x3F of class 0x0 is not applied; a class other than 0x3 closes the counter to U (R537, R541). The
settings record keeps the selection (R517). -/
def State.writePmcSel (s : State) (l : Lane) (n : Nat) (v : Word) : State :=
  let e := (R.PMC_SEL_EVENT n).of v
  let s1 := (s.plainWrite l (R.PMC_SEL n) (if e = 0x3F then (R.PMC_SEL_EVENT n).put v (s.rd l (R.PMC_SEL_EVENT n)) else v)).keepSetting l
    (R.PMC_SEL n)
  if (s1.rd l (R.PMC_SEL_EVENT n)) / 64 ≠ 3 ∧ bit (s1.rd l R.PMC_UAC_OPEN) n then
    (s1.wr l R.PMC_UAC_OPEN (setBit (s1.rd l R.PMC_UAC_OPEN) n false)).giveUp l 6 (0x200 + n)
  else s1

/-- A write of PMC_UAC, bit by bit: a bit is set only while SELn selects class 0x3 and the counter can be claimed (R541,
R573). -/
def State.writeUac (s : State) (l : Lane) (v : Word) : State :=
  (List.range 32).foldl (fun (s : State) (n : Nat) =>
    let old := s.rd l R.PMC_UAC_OPEN
    if bit v.toNat n = bit old n then s
    else if bit old n then (s.wr l R.PMC_UAC_OPEN (setBit old n false)).giveUp l 6 (0x200 + n)
    else if (s.rd l (R.PMC_SEL_EVENT n)) / 64 = 3 then
      let r := s.claimBy l 6 (0x200 + n) 0 0
      if r.1 then r.2.wr l R.PMC_UAC_OPEN (setBit old n true) else r.2
    else s) s

/-- A write of CRC_CFGu: EN claims the unit, and a refused claim leaves the write without effect; INIT loads the initial value
of the polynomial (R542, R544, R554, R573). -/
def State.writeCrcCfg (s : State) (l : Lane) (u : Nat) (v : Word) : State :=
  let apply (s : State) : State :=
    let s1 := s.plainWrite l (R.CRC_CFG u) v
    if (R.CRC_CFG_INIT u).of v = 1 then s1.wr l (R.CRC_VAL_VAL u) (crcParam (s1.rd l (R.CRC_CFG_POLY u))).2.2.2.1 else s1
  if (R.CRC_CFG_EN u).of v = 0 then (apply s).giveUp l 4 (0x100 + u)
  else if s.rd l (R.CRC_CFG_EN u) = 1 then apply s
  else
    let r := s.claimBy l 4 (0x100 + u) 0 0
    if r.1 then apply r.2 else r.2

/-- A write of CRC_VALu, kept to the width of the polynomial (R544, R554). -/
def State.writeCrcVal (s : State) (l : Lane) (u : Nat) (v : Word) : State :=
  s.wr l (R.CRC_VAL_VAL u) (v.toNat % 2 ^ (crcParam (s.rd l (R.CRC_CFG_POLY u))).1)

/-! ## Test aids (R545 to R549) -/

/-- The token that the present challenge calls for, when a key is held under reference 63 (R545). -/
def State.tokenWanted (s : State) : Option Word :=
  (s.sec.keys.find? fun (k : Nat × Nat × Nat × Nat) => k.1 == 63).map fun k =>
    BitVec.ofNat 64 (Config.hmac k.2.1 ([0x43, 0x42, 0x54, 0x58, 0x33, 0x2D, 0x54, 0x53, 0x54]
      ++ bytesBE (s.rdM R.SYS_SERIAL_SERIAL) 8 ++ bytesBE (s.rdM R.PWR_D0_PCYC) 4 ++ bytesBE s.sec.challenge.toNat 8) / 2 ^ 320)

/-- A token written to TST_KEY: D7 judges a value once for the writes of all lanes, and draws a new challenge after it; the
identical write of each other lane takes the same outcome (R545). -/
def State.judgeToken (s : State) (l : Lane) (v : Word) : State :=
  if s.mode ≠ mCommissioning ∨ s.rdM R.TST_STAT_LOCKOUT = 1 then s
  else if s.sec.judged.contains (l, v) then s.onSec fun x => { x with judged := x.judged.filter (· != (l, v)) }
  else
    let others := (Lane.list.filter (· != l)).map fun m => (m, v)
    let s1 := (s.drawn.onSec fun x => { x with challenge := s.freshWord, judged := others ++ x.judged.filter (·.2 != v) })
    if s.tokenWanted = some v then (s1.wrM R.TST_STAT_UNLOCKED 1).event 0xD010 []
    else
      let n := min 3 (s.rdM R.TST_STAT_FAILS + 1)
      let s2 := (s1.wrM R.TST_STAT_FAILS n).event 0xD011 []
      if n = 3 then (s2.wrM R.TST_STAT_LOCKOUT 1).event 0xD012 [] else s2

/-- TST_DELAY, TST_BP and TST_INJ accept writes while the test aids are unlocked, and each applied write is recorded (R545,
R549). -/
def State.testWrite (s : State) (l : Lane) (a : Nat) (v : Word) (f : State → State) : State :=
  if s.mode = mCommissioning ∧ s.rdM R.TST_STAT_UNLOCKED = 1 then (f s).eventL l 0xD013 (bytesBE (a % 65536) 2 ++ bytesBE v.toNat 8)
  else s

/-- The symbols that SYMS selects, each XORed with a pattern in one word (R274, R548). -/
def damageSyms (syms pat : Nat) (data chk : Nat) : Nat × Nat :=
  let x (n off : Nat) : Nat := (List.range n).foldl (fun a i => if bit syms (off + i) then a + pat <<< (8 * i) else a) 0
  (data ^^^ x 8 0, chk ^^^ x 4 8)

/-- A write of TST_INJ: a stored word is damaged, or an injection is armed for the next round set (R548). -/
def State.writeInj (s : State) (l : Lane) (v : Word) : State :=
  let kind := R.TST_INJ_KIND.of v
  let addr := R.TST_INJ_ADDR.of v * 8
  let pat := R.TST_INJ_PAT.of v
  let p := R.TST_INJ_POINT3.of v
  if (kind = 1 ∧ isSram addr = true ∨ kind = 2 ∧ isDram addr = true) ∧ pat ≠ 0 then
    s.testWrite l R.TST_INJ v fun s =>
      let x := s.lane l
      let d := damageSyms (R.TST_INJ_SYMS.of v) pat (x.data addr) (x.check addr)
      (s.onLane l fun x => x.putStored addr d.1 d.2).wr l R.TST_STAT_INJ_DONE 1
  else if kind = 3 ∧ 1 ≤ p ∧ p ≤ 9 then
    s.testWrite l R.TST_INJ v fun s =>
      (s.onLane l fun x => { x with injectNext := some (p, R.TST_INJ_BIT3.of v, R.TST_INJ_CHAN3.of v == 1) }).wr l
        R.TST_STAT_INJ_DONE 0
  else s

/-! ## Other registers with a rule of their own -/

/-- A write of MEM_SCRUB: a PERIOD out of range is ignored and recorded. -/
def State.writeScrub (s : State) (l : Lane) (v : Word) : State :=
  let p := R.MEM_SCRUB_PERIOD.of v
  if 120 ≤ p ∧ p ≤ 540 then s.plainWrite l R.MEM_SCRUB v else s.accessEvent l R.MEM_SCRUB v

/-- FIO_FB and FIO_DEBn are accepted in STARTING and in a conversion round set (R455). -/
def State.fieldConfig (s : State) : Bool := decide (s.mode = mStarting) || decide (s.cyc.kind = RsKind.conversion)

/-- A write of FIO_DEBn: a DEB below 5 is not applied (R455). -/
def State.writeDeb (s : State) (l : Lane) (a : Nat) (v : Word) : State :=
  let f : RField := ⟨a, 15, 0⟩
  if s.fieldConfig then s.plainWrite l a (if f.of v < 5 then f.put v (f.of (s.regRaw l a)) else v) else s

/-- A write of TIM_PPS: IN_EN claims the pin and starts the search for edges anew (R361, R573). -/
def State.writePps (s : State) (l : Lane) (v : Word) : State :=
  let old := s.rd l R.TIM_PPS_IN_EN
  if R.TIM_PPS_IN_EN.of v = 0 then (s.plainWrite l R.TIM_PPS v).giveUp l 1 resPps
  else if old = 1 then s.plainWrite l R.TIM_PPS v
  else
    let r := s.claimBy l 1 resPps 0 0
    if !r.1 then r.2
    else
      let s1 := r.2.plainWrite l R.TIM_PPS v
      if l = s.mainLane then { s1 with time := { s1.time with edgeRun := 0, edgeLast := none } } else s1

/-- A write of XLE_CTRL. Whether the links train when RETRAIN is written, and with which latencies, is not for the write to say:
free values. -/
def State.writeXleCtrl (s : State) (l : Lane) (v : Word) : State :=
  let lat : PerLane Nat := ⟨Config.freeNat (s.free + 1), Config.freeNat (s.free + 2), Config.freeNat (s.free + 3)⟩
  let s1 := if R.XLE_CTRL_RETRAIN.of v = 1 then (s.retrain l (s.freshNat % 2 == 0) lat).drawn.drawn.drawn.drawn else s
  let s2 := if R.XLE_CTRL_HALT.of v = 1 then s1.askHalt l else s1
  if R.XLE_CTRL_RESUME.of v = 1 then s2.askResume l else s2

/-- A write of DNR_SLOT_CLAIM (R329, R330). -/
def State.writeSlotClaim (s : State) (v : Word) : State :=
  let s1 := if R.DNR_SLOT_CLAIM_REQ.of v = 1 then s.requestSlot else s
  if R.DNR_SLOT_CLAIM_REL.of v = 1 then s1.releaseSlot else s1

/-- A write of a voted register; a change of CO_g below K counts as no write (R440). -/
def State.writeVoted (s : State) (l : Lane) (c : CoreId) (a : Nat) (v : Word) : State :=
  if a = R.FIO_OUT_REQ ∧ R.FIO_OUT_REQ_COMASK.of v ≠ 0 ∧ (s.core l c).level ≠ .k then s else s.recordVoted l a v

/-- Whether an address is one of n registers, 8 bytes apart. -/
def inArray (a base n : Nat) : Bool := decide (base ≤ a) && decide (a < base + 8 * n)

/-- The write of a register whose checks have passed and whose reserved bits are zero. On a CB-TX3-N a write of a lane-local FIO
register has no effect (R425). -/
def State.writeReg (s : State) (l : Lane) (c : CoreId) (a : Nat) (v : Word) : State :=
  if isVoted a then s.writeVoted l c a v
  else if s.fioAbsent a then s
  else if a = R.RTE_CTRL then s.writeRteCtrl l v
  else if a = R.RTE_IMG_BASE then s.writeImgBase l v
  else if a = R.RTE_CTX_BASE then s.writeCtxBase l v
  else if inArray a (R.RTE_DPREV 0) 16 then s.writeDprev l ((a - R.RTE_DPREV 0) / 8) v
  else if a = R.TSK_FORCE then s.writeForce l v
  else if a = R.TSK_RSET ∨ inArray a (R.TSK_CFG 0) 16 = true then s.writeTaskReg l a v
  else if a = R.CMP_INJECT then s.writeCmpInject l v
  else if a = R.CMP_SCOPE then s.writeScope l v
  else if a = R.XLE_CTRL then s.writeXleCtrl l v
  else if a = R.MEM_SCRUB then s.writeScrub l v
  else if a = R.ARB_PRIO then s.writeArbPrio l v
  else if a = R.ARB_HOLDMAX then s.writeHoldmax l v
  else if a = R.DNR_CTRL then s.writeDnrCtrl l v
  else if a = R.DNR_SCHED_SEL then s.writeSchedSel l v
  else if a = R.DNR_SLOT_CLAIM then s.writeSlotClaim v
  else if a = R.DNR_TBL_DATA then s.writeTable l v
  else if a = R.TIM_DOM_SEL then (if R.TIM_DOM_SEL_FORCE.of v = 3 then s else s.plainWrite l a v)
  else if a = R.TIM_PPS then (s.writePps l v).keepSetting l a
  else if a = R.TIM_EXT then s.writeTimExt v
  else if inArray a (R.CRC_CFG 0) 8 then s.writeCrcCfg l ((a - R.CRC_CFG 0) / 8) v
  else if inArray a (R.CRC_VAL 0) 8 then s.writeCrcVal l ((a - R.CRC_VAL 0) / 8) v
  else if a = R.FIO_LEN then (if R.FIO_LEN_COMASK.of v ≠ 0 ∧ (s.core l c).level ≠ .k then s else s.writeLen l v)
  else if inArray a (fioCellAddr 0) 27 && bit v.toNat 63 then s.clearCell ((a - fioCellAddr 0) / 8)
  else if inArray a (R.FIO_DEB 0) 48 then s.writeDeb l a v
  else if a = R.FIO_FB then (if s.fieldConfig then s.plainWrite l a v else s)
  else if inArray a (fioCellAddr 0) 27 then s
  else if a = R.PWR_STAMP_REQ then s.writeStampReq l v
  else if a = R.UPD_CTRL then s.writeUpdCtrl l v
  else if a = R.SEC_MBOX then s.writeMbox l v
  else if a = R.LOG_CTRL then (if R.LOG_CTRL_CLEAR.of v = 1 then s.writeClear l else s)
  else if a = R.LOG_FREEZE then s.writeFreeze l v
  else if a = R.LOG_RATE then s.writeRate l v
  else if inArray a (R.PMC_SEL 0) 32 then s.writePmcSel l ((a - R.PMC_SEL 0) / 8) v
  else if a = R.PMC_UAC then s.writeUac l v
  else if a = R.TST_KEY then s.judgeToken l v
  else if a = R.TST_DELAY then s.testWrite l a v fun s => s.plainWrite l a v
  else if a = R.TST_BP then s.testWrite l a v fun s => s.plainWrite l a v
  else if a = R.TST_INJ then s.writeInj l v
  else if inArray a (R.SEM_LOCK 0) 64 then s.writeLock l c ((a - R.SEM_LOCK 0) / 8) v
  else if a = R.SEM_CLAIM then s.writeClaim l v
  else s.plainWrite l a v

/-- A core's write of a register: the checks, the reserved bits, the write. -/
def State.coreWrite (s : State) (l : Lane) (c : CoreId) (a : Nat) (v : Word) : State :=
  s.regWriteBy l c a v fun s => s.writeReg l c a v

/-- A core's read of a register into gd: the checks, the read. A load into g0 discards the value (R60). -/
def State.coreRead (s : State) (l : Lane) (c : CoreId) (gd : GReg) (a : Nat) : State :=
  s.regAccess l c a false fun s =>
    let r := s.readReg l c a
    r.2.onCore l c fun x => x.setG gd r.1

/-! ## The commands -/

/-- LOG_WIN0_READ (R534). -/
def execLogWin0Read (l : Lane) (c : CoreId) (gd : GReg) (s : State) : Host.Outcome State Fault Refusal :=
  .next (s.coreRead l c gd (R.LOG_WIN 0))

/-- LOG_WIN7_READ (R534). -/
def execLogWin7Read (l : Lane) (c : CoreId) (gd : GReg) (s : State) : Host.Outcome State Fault Refusal :=
  .next (s.coreRead l c gd (R.LOG_WIN 7))

/-- RC_READ (R16). -/
def execRcRead (l : Lane) (c : CoreId) (gd : GReg) (addr : Nat) (s : State) : Host.Outcome State Fault Refusal :=
  .next (s.coreRead l c gd addr)

/-- PMC_SEL_WRITE (R541). -/
def execPmcSelWrite (l : Lane) (c : CoreId) (n : Nat) (v : Word) (s : State) : Host.Outcome State Fault Refusal :=
  .next (if n < 32 then s.coreWrite l c (R.PMC_SEL n) v else s)

/-- PMC_UAC_WRITE (R541). -/
def execPmcUacWrite (l : Lane) (c : CoreId) (v : Word) (s : State) : Host.Outcome State Fault Refusal :=
  .next (s.coreWrite l c R.PMC_UAC v)

/-- CRC_INIT: a write of CRC_CFGu with INIT = 1 (R542). -/
def execCrcInit (l : Lane) (c : CoreId) (u : Nat) (v : Word) (s : State) : Host.Outcome State Fault Refusal :=
  .next (if u < 8 then s.coreWrite l c (R.CRC_CFG u) ((R.CRC_CFG_INIT u).put v 1) else s)

/-- CRC_VAL_WRITE (R544). -/
def execCrcValWrite (l : Lane) (c : CoreId) (u : Nat) (v : Word) (s : State) : Host.Outcome State Fault Refusal :=
  .next (if u < 8 then s.coreWrite l c (R.CRC_VAL u) v else s)

/-- CRC_ENABLE: a write of CRC_CFGu that starts or stops folding, INIT = 0 (R544). -/
def execCrcEnable (l : Lane) (c : CoreId) (u : Nat) (v : Word) (s : State) : Host.Outcome State Fault Refusal :=
  .next (if u < 8 then s.coreWrite l c (R.CRC_CFG u) ((R.CRC_CFG_INIT u).put v 0) else s)

/-- TST_TOKEN (R545). -/
def execTstToken (l : Lane) (c : CoreId) (v : Word) (s : State) : Host.Outcome State Fault Refusal :=
  .next (s.coreWrite l c R.TST_KEY v)

/-- TST_DELAY_WRITE (R546). -/
def execTstDelayWrite (l : Lane) (c : CoreId) (v : Word) (s : State) : Host.Outcome State Fault Refusal :=
  .next (s.coreWrite l c R.TST_DELAY v)

/-- TST_BP_WRITE (R547). -/
def execTstBpWrite (l : Lane) (c : CoreId) (v : Word) (s : State) : Host.Outcome State Fault Refusal :=
  .next (s.coreWrite l c R.TST_BP v)

/-- MEMORY_INJECT: a write of TST_INJ with KIND 0x1 or 0x2 (R548); a value of another KIND is not this command. -/
def execMemoryInject (l : Lane) (c : CoreId) (v : Word) (s : State) : Host.Outcome State Fault Refusal :=
  .next (if R.TST_INJ_KIND.of v = 1 ∨ R.TST_INJ_KIND.of v = 2 then s.coreWrite l c R.TST_INJ v else s)

/-- COMPARATOR_INJECT: a write of TST_INJ with KIND 0x3 (R548). -/
def execComparatorInject (l : Lane) (c : CoreId) (v : Word) (s : State) : Host.Outcome State Fault Refusal :=
  .next (s.coreWrite l c R.TST_INJ (R.TST_INJ_KIND.put v 3))

/-- CMP_INJECT_WRITE (R261). -/
def execCmpInjectWrite (l : Lane) (c : CoreId) (v : Word) (s : State) : Host.Outcome State Fault Refusal :=
  .next (s.coreWrite l c R.CMP_INJECT v)

/-- CMP_SCOPE_WRITE (R234). -/
def execCmpScopeWrite (l : Lane) (c : CoreId) (v : Word) (s : State) : Host.Outcome State Fault Refusal :=
  .next (s.coreWrite l c R.CMP_SCOPE v)

/-- TSK_FORCE_WRITE (R217). -/
def execTskForceWrite (l : Lane) (c : CoreId) (v : Word) (s : State) : Host.Outcome State Fault Refusal :=
  .next (s.coreWrite l c R.TSK_FORCE v)

/-- TASK_CONFIG_WRITE: a write of TSK_RSET or a TSK_CFGt (R230); another address is not this command. -/
def execTaskConfigWrite (l : Lane) (c : CoreId) (addr : Nat) (v : Word) (s : State) : Host.Outcome State Fault Refusal :=
  .next (if addr = R.TSK_RSET ∨ inArray addr (R.TSK_CFG 0) 16 = true then s.coreWrite l c addr v else s)

/-- FLUSH: a write of RTE_CTRL with FLUSH = 1 (R177). -/
def execFlush (l : Lane) (c : CoreId) (v : Word) (s : State) : Host.Outcome State Fault Refusal :=
  .next (s.coreWrite l c R.RTE_CTRL (R.RTE_CTRL_FLUSH.put v 1))

/-- ENGINE_ENABLE: a write of RTE_CTRL with FLUSH = 0 (R177). -/
def execEngineEnable (l : Lane) (c : CoreId) (v : Word) (s : State) : Host.Outcome State Fault Refusal :=
  .next (s.coreWrite l c R.RTE_CTRL (R.RTE_CTRL_FLUSH.put v 0))

/-- IMG_BASE_WRITE (R180). -/
def execImgBaseWrite (l : Lane) (c : CoreId) (v : Word) (s : State) : Host.Outcome State Fault Refusal :=
  .next (s.coreWrite l c R.RTE_IMG_BASE v)

/-- DPREV_WRITE (R182). -/
def execDprevWrite (l : Lane) (c : CoreId) (task : Nat) (v : Word) (s : State) : Host.Outcome State Fault Refusal :=
  .next (if task < 16 then s.coreWrite l c (R.RTE_DPREV task) v else s)

/-- CTX_BASE_WRITE (R181). -/
def execCtxBaseWrite (l : Lane) (c : CoreId) (v : Word) (s : State) : Host.Outcome State Fault Refusal :=
  .next (s.coreWrite l c R.RTE_CTX_BASE v)

/-- VOTED_WRITE (R34): a write of a voted register; another address is not this command. -/
def execVotedWrite (l : Lane) (c : CoreId) (addr : Nat) (v : Word) (s : State) : Host.Outcome State Fault Refusal :=
  .next (if isVoted addr then s.coreWrite l c addr v else s)

/-- REGISTER_WRITE (R15). -/
def execRegisterWrite (l : Lane) (c : CoreId) (addr : Nat) (v : Word) (s : State) : Host.Outcome State Fault Refusal :=
  .next (s.coreWrite l c addr v)

end Sys2Proof.Machine
end

