-- ==== Sys2Proof/Machine/CoreMem.lean ====
section
/-! DEFINITION. Machine/CoreMem.lean: the loads, stores and reserved accesses of the control cores (R57, R60 to R65, R153). -/
namespace Sys2Proof.Machine

/-- The exception that the checks of a data access raise, if any (R57): alignment (R61), region (R56), the level of a register
block (R32), then the address and the width (R29, R30, R62). `block` says whether the form may name a register. -/
def State.dataRefusal (s : State) (l : Lane) (c : CoreId) (ea : Word) (n : Nat) (write block : Bool) : Option (Nat × Word) :=
  let a := ea.toNat
  if a % n ≠ 0 then some (exDataAlign, ea)
  else if (s.core l c).regionOk a (if write then .write else .read) = false then some (exProt, ea)
  else if isSram a || isDram a then none
  else
    match s.levelRefusal l c a write with
    | some e => some e
    | none => if isBlock a && block then none else some (exDataBus, ea)

/-- The spans that control-core stores may not touch: footprints of tasks with a plain or coded pass held (R153). -/
def State.storeBarred (s : State) (l : Lane) (a : Nat) : Bool :=
  (s.eng l).queue.any fun p =>
    p.desc.kind != .look && spanHits ((s.taskImage p.desc.task).bind fun t => footSpan p.desc.stateBase t) (a, a + 1)

/-- The bytes of a loaded word that a form takes, extended (R61, R62). -/
def extractBytes (w : Word) (o n : Nat) (signed : Bool) : Word :=
  let v := (w.toNat >>> (8 * o)) % 2 ^ (8 * n)
  if signed && decide (2 ^ (8 * n - 1) ≤ v) then BitVec.ofInt 64 ((v : Int) - 2 ^ (8 * n)) else BitVec.ofNat 64 v

/-- A load of n bytes (R57, R60, R64): memory through the decoder, or a register for LD. -/
def State.load (s : State) (l : Lane) (c : CoreId) (gd ga : GReg) (imm : BitVec 16) (n : Nat) (signed : Bool) : State :=
  s.issue l c .u fun s =>
    let ea := (s.core l c).ea ga imm
    let a := ea.toNat
    match s.dataRefusal l c ea n false (decide (n = 8)) with
    | some e => s.exception l c e.1 e.2
    | none =>
      if isBlock a then
        let r := s.readReg l c a
        (r.2.onCore l c fun x => x.setG gd r.1).retire l c
      else
        let r := s.readMem l (mCore0 + c.num) (some (s.core l c).level.code) 0 a n
        match r.1 with
        | some w => (r.2.onCore l c fun x => x.setG gd (extractBytes w (a % 8) n signed)).retire l c
        | none => r.2.exception l c exUncorr (BitVec.ofNat 64 (a / 8 * 8))

/-- A write of n bytes to memory by a core whose checks have passed: done, or refused with DATA_BUS (R63, R64, R153). -/
def State.storeMem (s : State) (l : Lane) (c : CoreId) (ea : Word) (n : Nat) (v : Word) (done : State → State) : State :=
  let a := ea.toNat
  let lvl := (s.core l c).level.code
  if s.storeBarred l a then s.exception l c exDataBus ea
  else
    match s.cross l (.store c) (if n = 8 then 0 else 2) (a / 8 * 8) v with
    | (none, s1) => s1.exception l c exDataBus ea
    | (some v, s1) =>
      if n = 8 then done (s1.writeWord l (some c) (mCore0 + c.num) (some lvl) a v)
      else
        let r := s1.writeNarrow l c lvl a n v
        if r.1 then done r.2 else r.2.exception l c exDataBus ea

/-- A store of n bytes of a register (R57, R62 to R64): memory, or a register for SD. -/
def State.store (s : State) (l : Lane) (c : CoreId) (gs ga : GReg) (imm : BitVec 16) (n : Nat) : State :=
  s.issue l c .u fun s =>
    let x := s.core l c
    let ea := x.ea ga imm
    let a := ea.toNat
    let v := x.g gs
    match s.dataRefusal l c ea n true (decide (n = 8)) with
    | some e => s.exception l c e.1 e.2
    | none =>
      if isBlock a then (s.guardReserved l a v fun s => s.writeReg l c a v).retire l c
      else s.storeMem l c ea n v fun s => s.retire l c

/-- LD: the 64-bit word at ea. -/
def execLd (l : Lane) (c : CoreId) (gd ga : GReg) (imm : BitVec 16) (s : State) : Host.Outcome State Fault Refusal :=
  .next (s.load l c gd ga imm 8 false)

/-- LW: the 32-bit word at ea, zero-extended. -/
def execLw (l : Lane) (c : CoreId) (gd ga : GReg) (imm : BitVec 16) (s : State) : Host.Outcome State Fault Refusal :=
  .next (s.load l c gd ga imm 4 false)

/-- LWS: the 32-bit word at ea, sign-extended. -/
def execLws (l : Lane) (c : CoreId) (gd ga : GReg) (imm : BitVec 16) (s : State) : Host.Outcome State Fault Refusal :=
  .next (s.load l c gd ga imm 4 true)

/-- LH: the 16-bit half-word at ea, zero-extended. -/
def execLh (l : Lane) (c : CoreId) (gd ga : GReg) (imm : BitVec 16) (s : State) : Host.Outcome State Fault Refusal :=
  .next (s.load l c gd ga imm 2 false)

/-- LHS: the 16-bit half-word at ea, sign-extended. -/
def execLhs (l : Lane) (c : CoreId) (gd ga : GReg) (imm : BitVec 16) (s : State) : Host.Outcome State Fault Refusal :=
  .next (s.load l c gd ga imm 2 true)

/-- LB: the byte at ea, zero-extended. -/
def execLb (l : Lane) (c : CoreId) (gd ga : GReg) (imm : BitVec 16) (s : State) : Host.Outcome State Fault Refusal :=
  .next (s.load l c gd ga imm 1 false)

/-- LBS: the byte at ea, sign-extended. -/
def execLbs (l : Lane) (c : CoreId) (gd ga : GReg) (imm : BitVec 16) (s : State) : Host.Outcome State Fault Refusal :=
  .next (s.load l c gd ga imm 1 true)

/-- SD: all 64 bits of gs. -/
def execSd (l : Lane) (c : CoreId) (gs ga : GReg) (imm : BitVec 16) (s : State) : Host.Outcome State Fault Refusal :=
  .next (s.store l c gs ga imm 8)

/-- SW: bits 31:0 of gs. -/
def execSw (l : Lane) (c : CoreId) (gs ga : GReg) (imm : BitVec 16) (s : State) : Host.Outcome State Fault Refusal :=
  .next (s.store l c gs ga imm 4)

/-- SH: bits 15:0 of gs. -/
def execSh (l : Lane) (c : CoreId) (gs ga : GReg) (imm : BitVec 16) (s : State) : Host.Outcome State Fault Refusal :=
  .next (s.store l c gs ga imm 2)

/-- SB: bits 7:0 of gs (R63). -/
def execSb (l : Lane) (c : CoreId) (gs ga : GReg) (imm : BitVec 16) (s : State) : Host.Outcome State Fault Refusal :=
  .next (s.store l c gs ga imm 1)

/-- LL: the word at ga, and the reservation of ga (R65). An earlier reservation of the core is lost. -/
def execLl (l : Lane) (c : CoreId) (gd ga : GReg) (s : State) : Host.Outcome State Fault Refusal :=
  .next (s.issue l c .u fun s =>
    let ea := (s.core l c).g ga
    match s.dataRefusal l c ea 8 false false with
    | some e => s.exception l c e.1 e.2
    | none =>
      let r := s.readMem l (mCore0 + c.num) (some (s.core l c).level.code) 0 ea.toNat 8
      match r.1 with
      | some w => (r.2.onCore l c fun x => { x.setG gd w with resv := some ea }).retire l c
      | none => r.2.exception l c exUncorr ea)

/-- SC: while the reservation is ga, gb is stored and gd is 0; otherwise gd is 1 and no access is made. The reservation is
cleared either way (R65). A failure is counted (R538). -/
def execSc (l : Lane) (c : CoreId) (gd ga gb : GReg) (s : State) : Host.Outcome State Fault Refusal :=
  .next (s.issue l c .u fun s =>
    let x := s.core l c
    let ea := x.g ga
    match s.dataRefusal l c ea 8 true false with
    | some e => s.exception l c e.1 e.2
    | none =>
      let fin (v : Word) (s : State) : State := (s.onCore l c fun y => { y.setG gd v with resv := none }).retire l c
      if x.resv = some ea then s.storeMem l c ea 8 (x.g gb) (fin 0)
      else fin 1 (s.pmc l 1 5 (.level x.level.code)))

end Sys2Proof.Machine
end

