-- ==== Sys2Proof/Machine/Dispatch.lean ====
section
/-! DEFINITION. Machine/Dispatch.lean: one arm per command, each one call of its meaning. -/
namespace Sys2Proof.Machine

def exec (i : Instr) (s : State) : Host.Outcome State Fault Refusal :=
  match i with
  | .add l c gd ga gb => Sys2Proof.Machine.execAdd l c gd ga gb s
  | .sub l c gd ga gb => Sys2Proof.Machine.execSub l c gd ga gb s
  | .adds l c gd ga gb => Sys2Proof.Machine.execAdds l c gd ga gb s
  | .subs l c gd ga gb => Sys2Proof.Machine.execSubs l c gd ga gb s
  | .addv l c gd ga gb => Sys2Proof.Machine.execAddv l c gd ga gb s
  | .subv l c gd ga gb => Sys2Proof.Machine.execSubv l c gd ga gb s
  | .cmp l c ga gb => Sys2Proof.Machine.execCmp l c ga gb s
  | .and l c gd ga gb => Sys2Proof.Machine.execAnd l c gd ga gb s
  | .or l c gd ga gb => Sys2Proof.Machine.execOr l c gd ga gb s
  | .xor l c gd ga gb => Sys2Proof.Machine.execXor l c gd ga gb s
  | .andn l c gd ga gb => Sys2Proof.Machine.execAndn l c gd ga gb s
  | .slt l c gd ga gb => Sys2Proof.Machine.execSlt l c gd ga gb s
  | .sltu l c gd ga gb => Sys2Proof.Machine.execSltu l c gd ga gb s
  | .sll l c gd ga gb => Sys2Proof.Machine.execSll l c gd ga gb s
  | .srl l c gd ga gb => Sys2Proof.Machine.execSrl l c gd ga gb s
  | .sra l c gd ga gb => Sys2Proof.Machine.execSra l c gd ga gb s
  | .ror l c gd ga gb => Sys2Proof.Machine.execRor l c gd ga gb s
  | .mul l c gd ga gb => Sys2Proof.Machine.execMul l c gd ga gb s
  | .mulh l c gd ga gb => Sys2Proof.Machine.execMulh l c gd ga gb s
  | .mulhu l c gd ga gb => Sys2Proof.Machine.execMulhu l c gd ga gb s
  | .mulv l c gd ga gb => Sys2Proof.Machine.execMulv l c gd ga gb s
  | .div l c gd ga gb => Sys2Proof.Machine.execDiv l c gd ga gb s
  | .divu l c gd ga gb => Sys2Proof.Machine.execDivu l c gd ga gb s
  | .rem l c gd ga gb => Sys2Proof.Machine.execRem l c gd ga gb s
  | .remu l c gd ga gb => Sys2Proof.Machine.execRemu l c gd ga gb s
  | .clz l c gd ga => Sys2Proof.Machine.execClz l c gd ga s
  | .popc l c gd ga => Sys2Proof.Machine.execPopc l c gd ga s
  | .addi l c gd ga imm => Sys2Proof.Machine.execAddi l c gd ga imm s
  | .andi l c gd ga imm => Sys2Proof.Machine.execAndi l c gd ga imm s
  | .ori l c gd ga imm => Sys2Proof.Machine.execOri l c gd ga imm s
  | .xori l c gd ga imm => Sys2Proof.Machine.execXori l c gd ga imm s
  | .slti l c gd ga imm => Sys2Proof.Machine.execSlti l c gd ga imm s
  | .sltiu l c gd ga imm => Sys2Proof.Machine.execSltiu l c gd ga imm s
  | .qset l c gd imm k => Sys2Proof.Machine.execQset l c gd imm k s
  | .qins l c gd imm k => Sys2Proof.Machine.execQins l c gd imm k s
  | .shi l c gd ga t sh => Sys2Proof.Machine.execShi l c gd ga t sh s
  | .cmpi l c ga imm => Sys2Proof.Machine.execCmpi l c ga imm s
  | .ld l c gd ga imm => Sys2Proof.Machine.execLd l c gd ga imm s
  | .lw l c gd ga imm => Sys2Proof.Machine.execLw l c gd ga imm s
  | .lws l c gd ga imm => Sys2Proof.Machine.execLws l c gd ga imm s
  | .lh l c gd ga imm => Sys2Proof.Machine.execLh l c gd ga imm s
  | .lhs l c gd ga imm => Sys2Proof.Machine.execLhs l c gd ga imm s
  | .lb l c gd ga imm => Sys2Proof.Machine.execLb l c gd ga imm s
  | .lbs l c gd ga imm => Sys2Proof.Machine.execLbs l c gd ga imm s
  | .sd l c gs ga imm => Sys2Proof.Machine.execSd l c gs ga imm s
  | .sw l c gs ga imm => Sys2Proof.Machine.execSw l c gs ga imm s
  | .sh l c gs ga imm => Sys2Proof.Machine.execSh l c gs ga imm s
  | .sb l c gs ga imm => Sys2Proof.Machine.execSb l c gs ga imm s
  | .ll l c gd ga => Sys2Proof.Machine.execLl l c gd ga s
  | .sc l c gd ga gb => Sys2Proof.Machine.execSc l c gd ga gb s
  | .beq l c ga gb off => Sys2Proof.Machine.execBeq l c ga gb off s
  | .bne l c ga gb off => Sys2Proof.Machine.execBne l c ga gb off s
  | .blt l c ga gb off => Sys2Proof.Machine.execBlt l c ga gb off s
  | .bge l c ga gb off => Sys2Proof.Machine.execBge l c ga gb off s
  | .bltu l c ga gb off => Sys2Proof.Machine.execBltu l c ga gb off s
  | .bgeu l c ga gb off => Sys2Proof.Machine.execBgeu l c ga gb off s
  | .bc l c cond off => Sys2Proof.Machine.execBc l c cond off s
  | .j l c off => Sys2Proof.Machine.execJ l c off s
  | .jal l c off => Sys2Proof.Machine.execJal l c off s
  | .jalr l c gd ga imm => Sys2Proof.Machine.execJalr l c gd ga imm s
  | .fence l c => Sys2Proof.Machine.execFence l c s
  | .fenceio l c => Sys2Proof.Machine.execFenceio l c s
  | .ifence l c => Sys2Proof.Machine.execIfence l c s
  | .syscall l c => Sys2Proof.Machine.execSyscall l c s
  | .brk l c => Sys2Proof.Machine.execBrk l c s
  | .eret l c => Sys2Proof.Machine.execEret l c s
  | .wfi l c => Sys2Proof.Machine.execWfi l c s
  | .wfiWake l c => Sys2Proof.Machine.execWfiWake l c s
  | .mfc l c gd cn => Sys2Proof.Machine.execMfc l c gd cn s
  | .mtc l c ga cn => Sys2Proof.Machine.execMtc l c ga cn s
  | .illegalInstruction l c word => Sys2Proof.Machine.execIllegalInstruction l c word s
  | .interruptTaken l c => Sys2Proof.Machine.execInterruptTaken l c s
  | .epass l c gd ga => Sys2Proof.Machine.execEpass l c gd ga s
  | .ewait l c gd ga => Sys2Proof.Machine.execEwait l c gd ga s
  | .ewaitReturn l c => Sys2Proof.Machine.execEwaitReturn l c s
  | .epoll l c gd ga => Sys2Proof.Machine.execEpoll l c gd ga s
  | .ecancel l c gd ga => Sys2Proof.Machine.execEcancel l c gd ga s
  | .passStart l => Sys2Proof.Machine.execPassStart l s
  | .lookaheadBudgetReached l => Sys2Proof.Machine.execLookaheadBudgetReached l s
  | .mov l off bd dst src => Sys2Proof.Machine.execMov l off bd dst src s
  | .ldi l off bd dst lit => Sys2Proof.Machine.execLdi l off bd dst lit s
  | .logicAdd l off bd dst s0 s1 => Sys2Proof.Machine.execLogicAdd l off bd dst s0 s1 s
  | .logicSub l off bd dst s0 s1 => Sys2Proof.Machine.execLogicSub l off bd dst s0 s1 s
  | .not l off bd dst src => Sys2Proof.Machine.execNot l off bd dst src s
  | .sel l off bd dst cond t f => Sys2Proof.Machine.execSel l off bd dst cond t f s
  | .all l off bd dst slots => Sys2Proof.Machine.execAll l off bd dst slots s
  | .any l off bd dst slots => Sys2Proof.Machine.execAny l off bd dst slots s
  | .conf l off bd dst own slots => Sys2Proof.Machine.execConf l off bd dst own slots s
  | .flank l off bd dst own slots => Sys2Proof.Machine.execFlank l off bd dst own slots s
  | .flreq l off own slots => Sys2Proof.Machine.execFlreq l off own slots s
  | .lock l off bd dst own slots => Sys2Proof.Machine.execLock l off bd dst own slots s
  | .unlock l off own slots => Sys2Proof.Machine.execUnlock l off own slots s
  | .route l off own conds => Sys2Proof.Machine.execRoute l off own conds s
  | .rrel l off first own slots => Sys2Proof.Machine.execRrel l off first own slots s
  | .tmr l off dur dst run => Sys2Proof.Machine.execTmr l off dur dst run s
  | .edge l off bd dst src mem => Sys2Proof.Machine.execEdge l off bd dst src mem s
  | .carry l off recs => Sys2Proof.Machine.execCarry l off recs s
  | .seal l off slots => Sys2Proof.Machine.execSeal l off slots s
  | .skipf l off count cond => Sys2Proof.Machine.execSkipf l off count cond s
  | .skipt l off count cond => Sys2Proof.Machine.execSkipt l off count cond s
  | .endPass l off => Sys2Proof.Machine.execEndPass l off s
  | .instructionCommit l => Sys2Proof.Machine.execInstructionCommit l s
  | .engineCheckFailure l word => Sys2Proof.Machine.execEngineCheckFailure l word s
  | .preemption l => Sys2Proof.Machine.execPreemption l s
  | .passResume l => Sys2Proof.Machine.execPassResume l s
  | .passAgeing l ticket => Sys2Proof.Machine.execPassAgeing l ticket s
  | .roundTick hits ticks => Sys2Proof.Machine.execRoundTick hits ticks s
  | .roundSetBoundary lead => Sys2Proof.Machine.execRoundSetBoundary lead s
  | .boundaryMarkerReceived l sender offset => Sys2Proof.Machine.execBoundaryMarkerReceived l sender offset s
  | .gatherClose l => Sys2Proof.Machine.execGatherClose l s
  | .sortingExchange => Sys2Proof.Machine.execSortingExchange s
  | .frameCopy => Sys2Proof.Machine.execFrameCopy s
  | .agreement => Sys2Proof.Machine.execAgreement s
  | .heldFlag => Sys2Proof.Machine.execHeldFlag s
  | .inputPosting => Sys2Proof.Machine.execInputPosting s
  | .twinInputRecordSend absent differ => Sys2Proof.Machine.execTwinInputRecordSend absent differ s
  | .twinInputRecord rec => Sys2Proof.Machine.execTwinInputRecord rec s
  | .pairCombination => Sys2Proof.Machine.execPairCombination s
  | .sealDeadline l => Sys2Proof.Machine.execSealDeadline l s
  | .xleRecordReceived l sender damaged => Sys2Proof.Machine.execXleRecordReceived l sender damaged s
  | .vote canaryBad => Sys2Proof.Machine.execVote canaryBad s
  | .outcomeRecord lost damage => Sys2Proof.Machine.execOutcomeRecord lost damage s
  | .dispatchStart => Sys2Proof.Machine.execDispatchStart s
  | .writeClose late => Sys2Proof.Machine.execWriteClose late s
  | .stateCopyComplete res => Sys2Proof.Machine.execStateCopyComplete res s
  | .cat3TelegramSend => Sys2Proof.Machine.execCat3TelegramSend s
  | .configRecordCompare damage => Sys2Proof.Machine.execConfigRecordCompare damage s
  | .compareRecordSend absent differ => Sys2Proof.Machine.execCompareRecordSend absent differ s
  | .compareRecord rec => Sys2Proof.Machine.execCompareRecord rec s
  | .twinCompare framesSeen => Sys2Proof.Machine.execTwinCompare framesSeen s
  | .transmitSlot ch slot absent differ lead off => Sys2Proof.Machine.execTransmitSlot ch slot absent differ lead off s
  | .xleHeartbeatTimeout l sender => Sys2Proof.Machine.execXleHeartbeatTimeout l sender s
  | .xleLinkDown l1 l2 => Sys2Proof.Machine.execXleLinkDown l1 l2 s
  | .starFrameIngress ch port tSfd frame endOk overflow => Sys2Proof.Machine.execStarFrameIngress ch port tSfd frame endOk overflow s
  | .portUnblock ch port => Sys2Proof.Machine.execPortUnblock ch port s
  | .coldFrameAtListeningCore ch port tSfd frame => Sys2Proof.Machine.execColdFrameAtListeningCore ch port tSfd frame s
  | .posteRestanteClaim ch port tSfd frame => Sys2Proof.Machine.execPosteRestanteClaim ch port tSfd frame s
  | .claimExpiry ch slot => Sys2Proof.Machine.execClaimExpiry ch slot s
  | .laneFrameReceived l slot => Sys2Proof.Machine.execLaneFrameReceived l slot s
  | .syncReceived ch slot => Sys2Proof.Machine.execSyncReceived ch slot s
  | .mgmtReceived ch => Sys2Proof.Machine.execMgmtReceived ch s
  | .coldReceived => Sys2Proof.Machine.execColdReceived s
  | .listenTimeout t => Sys2Proof.Machine.execListenTimeout t s
  | .syncLoss => Sys2Proof.Machine.execSyncLoss s
  | .silentTimeout => Sys2Proof.Machine.execSilentTimeout s
  | .leaderTakeover => Sys2Proof.Machine.execLeaderTakeover s
  | .protocolEnable l c v => Sys2Proof.Machine.execProtocolEnable l c v s
  | .scheduleRequest l c v => Sys2Proof.Machine.execScheduleRequest l c v s
  | .slotClaimRequest l c => Sys2Proof.Machine.execSlotClaimRequest l c s
  | .slotClaimRelease l c => Sys2Proof.Machine.execSlotClaimRelease l c s
  | .scheduleTableWrite l c v => Sys2Proof.Machine.execScheduleTableWrite l c v s
  | .guardianStreamWrite l c v => Sys2Proof.Machine.execGuardianStreamWrite l c v s
  | .linkDelayRequest ch port t1 => Sys2Proof.Machine.execLinkDelayRequest ch port t1 s
  | .markReceived ch port response t transmitting => Sys2Proof.Machine.execMarkReceived ch port response t transmitting s
  | .linkDelayDiscard ch port => Sys2Proof.Machine.execLinkDelayDiscard ch port s
  | .holdoverEntry => Sys2Proof.Machine.execHoldoverEntry s
  | .ppsEdge rising t => Sys2Proof.Machine.execPpsEdge rising t s
  | .ppsLoss => Sys2Proof.Machine.execPpsLoss s
  | .extTimeInvalid => Sys2Proof.Machine.execExtTimeInvalid s
  | .ppsOutPulse => Sys2Proof.Machine.execPpsOutPulse s
  | .ptpMessage msg => Sys2Proof.Machine.execPtpMessage msg s
  | .timExtWrite l c v => Sys2Proof.Machine.execTimExtWrite l c v s
  | .wanDatagramReceived port postmark payload => Sys2Proof.Machine.execWanDatagramReceived port postmark payload s
  | .helloReceived hello => Sys2Proof.Machine.execHelloReceived hello s
  | .helloTimeout => Sys2Proof.Machine.execHelloTimeout s
  | .taskTransfer tr => Sys2Proof.Machine.execTaskTransfer tr s
  | .roleSwapRequest => Sys2Proof.Machine.execRoleSwapRequest s
  | .twinFunctionProof fn ok => Sys2Proof.Machine.execTwinFunctionProof fn ok s
  | .cutOffNotice rs groups chkOk => Sys2Proof.Machine.execCutOffNotice rs groups chkOk s
  | .updateRecord rec => Sys2Proof.Machine.execUpdateRecord rec s
  | .handover rec => Sys2Proof.Machine.execHandover rec s
  | .twinDetach l c => Sys2Proof.Machine.execTwinDetach l c s
  | .twinSwapRequest l c => Sys2Proof.Machine.execTwinSwapRequest l c s
  | .downlinkFrameSend => Sys2Proof.Machine.execDownlinkFrameSend s
  | .downlinkFrameReceived l frame mids => Sys2Proof.Machine.execDownlinkFrameReceived l frame mids s
  | .configFrameReceived l frame => Sys2Proof.Machine.execConfigFrameReceived l frame s
  | .uplinkFrameReceived l frame inst => Sys2Proof.Machine.execUplinkFrameReceived l frame inst s
  | .controllerLinkWatchdog l => Sys2Proof.Machine.execControllerLinkWatchdog l s
  | .inputDebounced l input value => Sys2Proof.Machine.execInputDebounced l input value s
  | .fieldSupplyUnknown l vf => Sys2Proof.Machine.execFieldSupplyUnknown l vf s
  | .fieldSupplyRecovered l vf => Sys2Proof.Machine.execFieldSupplyRecovered l vf s
  | .sagLatchSet l vf => Sys2Proof.Machine.execSagLatchSet l vf s
  | .sagLatchRelease l vf => Sys2Proof.Machine.execSagLatchRelease l vf s
  | .currentLimitTrip l cell branch => Sys2Proof.Machine.execCurrentLimitTrip l cell branch s
  | .controllerSupplyLoss l => Sys2Proof.Machine.execControllerSupplyLoss l s
  | .testPulseStart => Sys2Proof.Machine.execTestPulseStart s
  | .pulseEvaluation levels => Sys2Proof.Machine.execPulseEvaluation levels s
  | .darkPulseEnd => Sys2Proof.Machine.execDarkPulseEnd s
  | .lightPulseEnd l => Sys2Proof.Machine.execLightPulseEnd l s
  | .feedbackSettle group => Sys2Proof.Machine.execFeedbackSettle group s
  | .cellClear l c cell => Sys2Proof.Machine.execCellClear l c cell s
  | .laneEnableWrite l c v => Sys2Proof.Machine.execLaneEnableWrite l c v s
  | .d6SafeSwitchOff => Sys2Proof.Machine.execD6SafeSwitchOff s
  | .vinInterruptionBegin vin => Sys2Proof.Machine.execVinInterruptionBegin vin s
  | .vinInterruptionEnd vin us => Sys2Proof.Machine.execVinInterruptionEnd vin us s
  | .powerFail => Sys2Proof.Machine.execPowerFail s
  | .storeExhausted => Sys2Proof.Machine.execStoreExhausted s
  | .holdupCharged charge => Sys2Proof.Machine.execHoldupCharged charge s
  | .vinAppear vin => Sys2Proof.Machine.execVinAppear vin s
  | .standbyToStarting => Sys2Proof.Machine.execStandbyToStarting s
  | .startSequence inp => Sys2Proof.Machine.execStartSequence inp s
  | .fillComplete l ok sramUs dramMs => Sys2Proof.Machine.execFillComplete l ok sramUs dramMs s
  | .selfTestBlock block signature marchOk => Sys2Proof.Machine.execSelfTestBlock block signature marchOk s
  | .selfTestAbort block conds => Sys2Proof.Machine.execSelfTestAbort block conds s
  | .imageLoad badPages secondBad => Sys2Proof.Machine.execImageLoad badPages secondBad s
  | .regulatorFault reg => Sys2Proof.Machine.execRegulatorFault reg s
  | .stampRequest l c v => Sys2Proof.Machine.execStampRequest l c v s
  | .stampRelease l c v => Sys2Proof.Machine.execStampRelease l c v s
  | .stampGrant => Sys2Proof.Machine.execStampGrant s
  | .groupOnStampTimeout tag => Sys2Proof.Machine.execGroupOnStampTimeout tag s
  | .domainOffRequest l c v => Sys2Proof.Machine.execDomainOffRequest l c v s
  | .shutdownRestart l c => Sys2Proof.Machine.execShutdownRestart l c s
  | .shutdownStandby l c => Sys2Proof.Machine.execShutdownStandby l c s
  | .orderlyShutdown results => Sys2Proof.Machine.execOrderlyShutdown results s
  | .rstNLow => Sys2Proof.Machine.execRstNLow s
  | .rstNHeldLong => Sys2Proof.Machine.execRstNHeldLong s
  | .rstNRelease stableS => Sys2Proof.Machine.execRstNRelease stableS s
  | .operatingMinute => Sys2Proof.Machine.execOperatingMinute s
  | .tamperSample lid1 lid2 light => Sys2Proof.Machine.execTamperSample lid1 lid2 light s
  | .scrubBurst l => Sys2Proof.Machine.execScrubBurst l s
  | .sramScrubStep l => Sys2Proof.Machine.execSramScrubStep l s
  | .scrubPassLate l dram => Sys2Proof.Machine.execScrubPassLate l dram s
  | .grantRevocation l req urgent => Sys2Proof.Machine.execGrantRevocation l req urgent s
  | .dramCutOff l => Sys2Proof.Machine.execDramCutOff l s
  | .engineCutOff l => Sys2Proof.Machine.execEngineCutOff l s
  | .arbPrioWrite l c v => Sys2Proof.Machine.execArbPrioWrite l c v s
  | .acquire l c n lease => Sys2Proof.Machine.execAcquire l c n lease s
  | .release l c n => Sys2Proof.Machine.execRelease l c n s
  | .renew l c n lease => Sys2Proof.Machine.execRenew l c n lease s
  | .hand l c n ticket lease => Sys2Proof.Machine.execHand l c n ticket lease s
  | .recover l c n => Sys2Proof.Machine.execRecover l c n s
  | .leaseExpiry l n => Sys2Proof.Machine.execLeaseExpiry l n s
  | .claim l c req => Sys2Proof.Machine.execClaim l c req s
  | .claimRelease l c req => Sys2Proof.Machine.execClaimRelease l c req s
  | .takeOwnership anchor auth => Sys2Proof.Machine.execTakeOwnership anchor auth s
  | .releaseOwnership auth => Sys2Proof.Machine.execReleaseOwnership auth s
  | .setUpdateLock auth => Sys2Proof.Machine.execSetUpdateLock auth s
  | .clearUpdateLock auth => Sys2Proof.Machine.execClearUpdateLock auth s
  | .installConnectionKey pkg => Sys2Proof.Machine.execInstallConnectionKey pkg s
  | .commitChangeOver auth => Sys2Proof.Machine.execCommitChangeOver auth s
  | .enterCommissioning auth => Sys2Proof.Machine.execEnterCommissioning auth s
  | .leaveCommissioning auth => Sys2Proof.Machine.execLeaveCommissioning auth s
  | .commissioningCommandDrop => Sys2Proof.Machine.execCommissioningCommandDrop s
  | .getCert l addr len => Sys2Proof.Machine.execGetCert l addr len s
  | .attest l addr len => Sys2Proof.Machine.execAttest l addr len s
  | .imgCheck l addr len img => Sys2Proof.Machine.execImgCheck l addr len img s
  | .imgApply l addr len img => Sys2Proof.Machine.execImgApply l addr len img s
  | .gcmSeal l addr len conn => Sys2Proof.Machine.execGcmSeal l addr len conn s
  | .gcmOpen l addr len => Sys2Proof.Machine.execGcmOpen l addr len s
  | .keyInstall l addr len pkg => Sys2Proof.Machine.execKeyInstall l addr len pkg s
  | .ownerCmd l addr len auth => Sys2Proof.Machine.execOwnerCmd l addr len auth s
  | .logMac l addr len req => Sys2Proof.Machine.execLogMac l addr len req s
  | .mailboxResponse l => Sys2Proof.Machine.execMailboxResponse l s
  | .updLoad l c => Sys2Proof.Machine.execUpdLoad l c s
  | .updCommit l c => Sys2Proof.Machine.execUpdCommit l c s
  | .updAbort l c => Sys2Proof.Machine.execUpdAbort l c s
  | .changeOverTimeout => Sys2Proof.Machine.execChangeOverTimeout s
  | .firmwareMinimumRaise => Sys2Proof.Machine.execFirmwareMinimumRaise s
  | .starFirmwareApply ch img => Sys2Proof.Machine.execStarFirmwareApply ch img s
  | .loneRecord => Sys2Proof.Machine.execLoneRecord s
  | .recordWrite => Sys2Proof.Machine.execRecordWrite s
  | .rateWindowEnd => Sys2Proof.Machine.execRateWindowEnd s
  | .logClear l c => Sys2Proof.Machine.execLogClear l c s
  | .eraseComplete => Sys2Proof.Machine.execEraseComplete s
  | .logFreezeWrite l c v => Sys2Proof.Machine.execLogFreezeWrite l c v s
  | .freezeTimeout => Sys2Proof.Machine.execFreezeTimeout s
  | .logWin0Read l c gd => Sys2Proof.Machine.execLogWin0Read l c gd s
  | .logWin7Read l c gd => Sys2Proof.Machine.execLogWin7Read l c gd s
  | .logRateSelect l c v => Sys2Proof.Machine.execLogRateSelect l c v s
  | .logRateApply l c v => Sys2Proof.Machine.execLogRateApply l c v s
  | .pmcSelWrite l c n v => Sys2Proof.Machine.execPmcSelWrite l c n v s
  | .pmcUacWrite l c v => Sys2Proof.Machine.execPmcUacWrite l c v s
  | .crcInit l c u v => Sys2Proof.Machine.execCrcInit l c u v s
  | .crcValWrite l c u v => Sys2Proof.Machine.execCrcValWrite l c u v s
  | .crcEnable l c u v => Sys2Proof.Machine.execCrcEnable l c u v s
  | .tstToken l c v => Sys2Proof.Machine.execTstToken l c v s
  | .tstDelayWrite l c v => Sys2Proof.Machine.execTstDelayWrite l c v s
  | .tstBpWrite l c v => Sys2Proof.Machine.execTstBpWrite l c v s
  | .memoryInject l c v => Sys2Proof.Machine.execMemoryInject l c v s
  | .comparatorInject l c v => Sys2Proof.Machine.execComparatorInject l c v s
  | .cmpInjectWrite l c v => Sys2Proof.Machine.execCmpInjectWrite l c v s
  | .cmpScopeWrite l c v => Sys2Proof.Machine.execCmpScopeWrite l c v s
  | .xleRetrain l c trained lat => Sys2Proof.Machine.execXleRetrain l c trained lat s
  | .haltRequest l c => Sys2Proof.Machine.execHaltRequest l c s
  | .haltResume l c => Sys2Proof.Machine.execHaltResume l c s
  | .tskForceWrite l c v => Sys2Proof.Machine.execTskForceWrite l c v s
  | .taskConfigWrite l c addr v => Sys2Proof.Machine.execTaskConfigWrite l c addr v s
  | .flush l c v => Sys2Proof.Machine.execFlush l c v s
  | .engineEnable l c v => Sys2Proof.Machine.execEngineEnable l c v s
  | .imgBaseWrite l c v => Sys2Proof.Machine.execImgBaseWrite l c v s
  | .dprevWrite l c task v => Sys2Proof.Machine.execDprevWrite l c task v s
  | .ctxBaseWrite l c v => Sys2Proof.Machine.execCtxBaseWrite l c v s
  | .votedWrite l c addr v => Sys2Proof.Machine.execVotedWrite l c addr v s
  | .rcRead l c gd addr => Sys2Proof.Machine.execRcRead l c gd addr s
  | .registerWrite l c addr v => Sys2Proof.Machine.execRegisterWrite l c addr v s
  | .twinLinkChange pairB up => Sys2Proof.Machine.execTwinLinkChange pairB up s
  | .selfTestResume waiting => Sys2Proof.Machine.execSelfTestResume waiting s
  | .low90Change vin => Sys2Proof.Machine.execLow90Change vin s

end Sys2Proof.Machine
end

