-- ==== Sys2Proof/Safety.lean ====
section
/-! DEFINITION. Safety.lean: what holds in every state that a run can reach, and the terms in which statements speak of
what a command leaves alone. -/
namespace Sys2Proof.Machine

/-- The canonical form of a lane's memory: addresses strictly rising, no listed byte equal to the fill. -/
abbrev Memory.wf (m : List Host.Cell) : Prop := mapWf memDefault m = true

/-- A core in a legal state: g0 is zero (R47) and PSW.LVL is no reserved code (R50). -/
structure Core.Ok (x : Core) : Prop where
  zero : x.g 0 = 0
  level : bits x.psw.toNat 1 0 ≠ 3

/-- A lane in a legal state: both cores, its memory and check bytes and its registers in canonical form, and at most four
descriptors in its engine (R87). -/
structure LaneState.Ok (x : LaneState) : Prop where
  core0 : x.core0.Ok
  core1 : x.core1.Ok
  mem : Memory.wf x.mem
  chk : Memory.wf x.chk
  regs : mapWf resetOf x.regs = true
  queue : x.eng.queue.length ≤ 4

/-- The invariant of the machine: every lane is in a legal state and the module's registers are in canonical form. -/
structure State.Inv (s : State) : Prop where
  lane : ∀ l, (s.lane l).Ok
  modRegs : mapWf resetOf s.modRegs = true

/-- What a control-core program can see of its core without reading a register of a block: everything but the pending
interrupts, which every block may raise (R80). -/
def Core.own (x : Core) : Core := { x with ipend := 0 }

/-- The bytes of memory, their check bytes, both cores and the route engine of a lane. -/
def LaneState.own (x : LaneState) : List Host.Cell × List Host.Cell × Core × Core × Engine :=
  (x.mem, x.chk, x.core0.own, x.core1.own, x.eng)

/-- The queue is the same, and the invariant passes from one state to the other. -/
structure Keeps (s t : State) : Prop where
  pending : t.pending = s.pending
  inv : s.Inv → t.Inv

/-- The same, and no lane's memory, engine or core has changed but for pending interrupts. -/
structure Spares (s t : State) : Prop extends Keeps s t where
  own : ∀ l, (t.lane l).own = (s.lane l).own

/-- The outcome is a next state t with P t, that keeps the queue and the invariant. -/
def Kept (o : Host.Outcome State Fault Refusal) (s : State) (P : State → Prop) : Prop := ∃ t, o = .next t ∧ Keeps s t ∧ P t

/-- The outcome is a next state t with P t, in which no lane's memory, engine or core has changed but for pending interrupts. -/
def Spared (o : Host.Outcome State Fault Refusal) (s : State) (P : State → Prop) : Prop := ∃ t, o = .next t ∧ Spares s t ∧ P t

/-- A phase of the round set may act: a round set runs, the phases it follows have acted, and it has not (R189, R190). -/
structure Turn (s : State) (before : List Nat) (ph : Nat) : Prop where
  active : s.cyc.active = true
  ready : before.all s.did = true
  fresh : s.did ph = false

/-! ## Control-core instructions -/

/-- The registers that a counted event may change: the counters and their overflow flags (R540). -/
def isPmcReg (a : Nat) : Bool := (decide (R.PMC_CNT 0 ≤ a) && decide (a < R.PMC_CNT 32)) || decide (a = R.PMC_OVF)

/-- t is s but for the performance counters of one lane. -/
def Counted (s : State) (l : Lane) (t : State) : Prop :=
  ∃ rs : List (Nat × Word), t = s.onLane l (fun x => { x with regs := rs }) ∧
    ∀ a, isPmcReg a = false → mapGet resetOf rs a = s.laneReg l a

/-- A core may run its next instruction at a level of at least `lowest`: its lane runs, it does not wait, no interrupt is taken
first (R80), its fetch raises no exception (R77) and its level is high enough (R69). -/
structure Ready (s : State) (l : Lane) (c : CoreId) (lowest : Level) : Prop where
  issues : s.canIssue l c = true
  quiet : (s.core l c).takesInterrupt = false
  fetches : (s.fetch l c).1 = none
  level : lowest.le (s.core l c).level = true

/-- The state after the fetch: s, but that a corrected word has been reported and a repaired one written back (R282). -/
def State.fetched (s : State) (l : Lane) (c : CoreId) : State := (s.fetch l c).2

/-- The outcome is the next state in which the core is as f makes it, and everything else is as the fetch left it but for
the performance counters of the lane. -/
def Runs (r : Host.Outcome State Fault Refusal) (s : State) (l : Lane) (c : CoreId) (f : Core → Core) : Prop :=
  ∃ t, r = .next t ∧ Counted ((s.fetched l c).onCore l c f) l t

/-- A general register written and the pc moved on: what most instructions do to their core. -/
def Core.done (x : Core) (gd : GReg) (v : Word) : Core := { x.setG gd v with pc := x.pc + 4 }

/-- Exception entry (R79): the saved registers, level K with IE = 0 and EXL = 1, and pc at KVEC. -/
structure Entered (x y : Core) (cause eaddr : Word) : Prop where
  epsw : y.epsw = x.psw
  epc : y.epc = x.pc
  cause : y.ecause = cause
  eaddr : y.eaddr = eaddr
  pc : y.pc = x.kvec
  level : y.level = .k
  ie : y.ie = false
  exl : y.exl = true
  flags : y.flags = x.flags
  regs : ∀ r, y.g r = x.g r
  resv : y.resv = none

/-- The outcome is the next state after a synchronous exception of one core (R76, R79): the core has entered it, and no other
core, no byte of memory, no engine and no register of the module has changed since the fetch. -/
def Takes (r : Host.Outcome State Fault Refusal) (s : State) (l : Lane) (c : CoreId) (cause : Nat) (eaddr : Word) : Prop :=
  ∃ t, r = .next t ∧ Entered (s.core l c) (t.core l c) (BitVec.ofNat 64 cause) eaddr
    ∧ (∀ m d, (m, d) ≠ (l, c) → t.core m d = s.core m d)
    ∧ (∀ m, (t.lane m).mem = ((s.fetched l c).lane m).mem ∧ t.eng m = s.eng m)
    ∧ t.modRegs = s.modRegs ∧ t.pending = s.pending

/-- The registers that counting and check-value units may change beside what an instruction does (R540, R543). -/
def isCounterReg (a : Nat) : Bool :=
  isPmcReg a || (decide (R.CRC_CFG 0 ≤ a) && decide (a < R.CRC_CFG 8)) || (decide (R.CRC_VAL 0 ≤ a) && decide (a < R.CRC_VAL 8))

/-- A memory access of core c of lane l leaves alone: the other cores but for a reservation, every engine, every register but
counters, and whatever belongs to the module. -/
structure Beside (s : State) (l : Lane) (c : CoreId) (t : State) : Prop where
  lanes : ∀ m, m ≠ l → t.lane m = s.lane m
  other : { t.core l c.other with resv := none } = { s.core l c.other with resv := none }
  eng : t.eng l = s.eng l
  regs : ∀ a, isCounterReg a = false → t.laneReg l a = s.laneReg l a
  modRegs : t.modRegs = s.modRegs
  pending : t.pending = s.pending

/-- A register access of a core reaches the register: the core issues, and no check of R57 refuses it. -/
def Allowed (s : State) (l : Lane) (c : CoreId) (a : Nat) (write : Bool) : Prop :=
  s.canIssue l c = true ∧ s.regRefusal l c a write = none

/-! ## Route-engine instructions -/

/-- A plain or coded pass p of lane l runs, its window is empty, and the stream stands at word `off`, before LOGIC_END; the stream does
not wait for the DRAM channel (R171), and no damage waits on the path of the engine's reads (R277). -/
structure Oldest (s : State) (l : Lane) (p : Pass) (r : Run) (off : Nat) : Prop where
  runs : (s.eng l).running = some (p, r)
  kind : p.desc.kindRaw = 1 ∨ p.desc.kindRaw = 2
  coding : p.desc.kindRaw = 2 → 0 < s.codingA l ∧ s.codingA l < 2 ^ 31
  window : r.window = []
  next : off = r.off
  inside : p.desc.logicBase + 8 * off < p.desc.logicEnd
  flows : (s.lane l).streamWaits = false
  sound : (s.lane l).bus.find? (fun h => h.path == .engineRead) = none

/-- An instruction at word `off` is a legal encoding, and all its words lie before LOGIC_END (R115). -/
abbrev LegalAt (p : Pass) (off : Nat) (i : LogicIns) : Prop :=
  i.legal = true ∧ p.desc.logicBase + 8 * (off + i.size) ≤ p.desc.logicEnd

/-- The words in DRAM at word `off` spell that instruction, which is a legal one (R113, R115). -/
abbrev Stands (s : State) (l : Lane) (p : Pass) (off : Nat) (i : LogicIns) : Prop := LegalAt p off i ∧ s.spells l p off i = true

/-- What a pass sees of the machine with nothing before an instruction in its window. -/
def State.seen (s : State) (l : Lane) (p : Pass) (r : Run) : Ctx := s.ctx l p r []

/-- An operand holds n: a written temporary, or a word of the footprint that memory holds without error, in the form of the
pass (R95, R96, R103, R108). -/
structure Holds (s : State) (l : Lane) (p : Pass) (r : Run) (ref : Ref) (n : Nat) : Prop where
  small : n < 2 ^ 32
  temp : refTemp ref = true → ∃ v, assoc r.temps (refId ref) = some v ∧ v.raw = (s.seen l p r).enc n v.sig
  word : refTemp ref = false → inFoot (s.taskImg p.desc.task) (refBare ref) = true ∧ ∃ w,
    (let a := p.desc.stateBase + refOffset (refBare ref) + (if p.desc.kindRaw = 2 then 8 else 0)
     rsDecode ((s.lane l).data (a / 8 * 8)) ((s.lane l).check (a / 8 * 8)) = .clean w) ∧
    (if p.desc.kindRaw = 2 ∧ !r.written.contains (refBare ref) then
      w + BitVec.ofNat 64 p.desc.dsig - BitVec.ofNat 64 r.dprev else w)
      = (s.seen l p r).enc n ((s.seen l p r).sig (refBare ref))

/-- A destination that the pass may write: a temporary, or a word of the footprint. -/
def Target (s : State) (p : Pass) (ref : Ref) : Prop := refTemp ref = true ∨ inFoot (s.taskImg p.desc.task) (refBare ref) = true

/-- The held-post entry of a value n for a word, with the signature b. -/
def entry (c : Ctx) (ref : Ref) (b n : Nat) : Entry := { ref := refBare ref, val := ⟨c.enc n b, b⟩, plain := n, null := false }

/-- A word of the instruction's entries holds the plain value n, coded as the pass codes it. -/
def Writes (c : Ctx) (h : Held) (ref : Ref) (n : Nat) : Prop :=
  entry c ref (c.sig (refBare ref)) n ∈ h.entries

/-- The outcome is the next state in which the instruction, evaluated without error, stands in the window; memory, both cores
and every register of the module are as before. -/
def Evaluates (o : Host.Outcome State Fault Refusal) (s : State) (l : Lane) (p : Pass) (r : Run) (P : Held → Prop) : Prop :=
  ∃ t h, o = .next t ∧ t.eng l = (s.eng l).setPhase p.ticket (.running { r with window := [h] })
    ∧ (∀ m, m ≠ l → t.lane m = s.lane m) ∧ t.core l .c0 = s.core l .c0 ∧ t.core l .c1 = s.core l .c1
    ∧ t.modRegs = s.modRegs ∧ t.pending = s.pending ∧ h.off = r.off ∧ h.err = none ∧ P h

end Sys2Proof.Machine
end

