-- ==== Sys2Proof/Certificates/Slice0/Obligations.lean ====
section
/-! DEFINITION. Certificates/Slice0/Obligations.lean: the statements for the provers. `Ready`, `Runs`, `Takes` and the other words
that they are written in are defined in Safety.lean. A statement about a choice of the model says so and names the log entry. -/
open Sys2Proof Sys2Proof.Machine


/-! ## Control cores (chapter 02) -/

/-- Register arithmetic: what each row of opcode 0x01 without flags writes to gd, for every gd, ga and gb (g0 included: a write to it
is discarded), and the four flags of an instruction that sets them, with gd written or not, every other bit of PSW kept. C is the
carry of ga + gb, or "no borrow" of a subtraction; V is that the exact signed result lies outside 64 bits. Nothing else of the
machine changes but the pc, the performance counters and what the fetch did. -/
def Obligations.RegisterArithmetic : Prop :=
  (∀ (s : State) (l : Lane) (c : CoreId) (gd ga gb : GReg), Ready s l c .u →
      Runs (exec (.add l c gd ga gb) s) s l c (fun x => x.done gd (BitVec.ofNat 64 ((x.g ga).toNat + (x.g gb).toNat)))
      ∧ Runs (exec (.sub l c gd ga gb) s) s l c (fun x => x.done gd (BitVec.ofInt 64 ((x.g ga).toInt - (x.g gb).toInt)))
      ∧ Runs (exec (.and l c gd ga gb) s) s l c (fun x => x.done gd (x.g ga &&& x.g gb))
      ∧ Runs (exec (.or l c gd ga gb) s) s l c (fun x => x.done gd (x.g ga ||| x.g gb))
      ∧ Runs (exec (.xor l c gd ga gb) s) s l c (fun x => x.done gd (x.g ga ^^^ x.g gb))
      ∧ Runs (exec (.andn l c gd ga gb) s) s l c (fun x => x.done gd (x.g ga &&& ~~~(x.g gb)))
      ∧ Runs (exec (.slt l c gd ga gb) s) s l c (fun x => x.done gd (if (x.g ga).toInt < (x.g gb).toInt then 1 else 0))
      ∧ Runs (exec (.sltu l c gd ga gb) s) s l c (fun x => x.done gd (if (x.g ga).toNat < (x.g gb).toNat then 1 else 0))
      ∧ Runs (exec (.mul l c gd ga gb) s) s l c (fun x => x.done gd (BitVec.ofInt 64 ((x.g ga).toInt * (x.g gb).toInt)))
      ∧ Runs (exec (.mulh l c gd ga gb) s) s l c
          (fun x => x.done gd (BitVec.ofInt 64 ((x.g ga).toInt * (x.g gb).toInt / 2 ^ 64)))
      ∧ Runs (exec (.mulhu l c gd ga gb) s) s l c
          (fun x => x.done gd (BitVec.ofNat 64 ((x.g ga).toNat * (x.g gb).toNat / 2 ^ 64))))
  ∧ (∀ (s : State) (l : Lane) (c : CoreId) (gd ga gb : GReg) (imm : BitVec 16), Ready s l c .u →
      let out (v : Int) : Bool := decide (v < -(2 ^ 63)) || decide (2 ^ 63 ≤ v)
      let sum (a b : Word) : FlagSet :=
        { n := decide ((a + b).toInt < 0), z := decide (a + b = 0), c := decide (2 ^ 64 ≤ a.toNat + b.toNat)
          v := out (a.toInt + b.toInt) }
      let diff (a b : Word) : FlagSet :=
        { n := decide ((a - b).toInt < 0), z := decide (a = b), c := decide (b.toNat ≤ a.toNat), v := out (a.toInt - b.toInt) }
      Runs (exec (.adds l c gd ga gb) s) s l c (fun x => (x.setFlags (sum (x.g ga) (x.g gb))).done gd (x.g ga + x.g gb))
      ∧ Runs (exec (.subs l c gd ga gb) s) s l c (fun x => (x.setFlags (diff (x.g ga) (x.g gb))).done gd (x.g ga - x.g gb))
      ∧ Runs (exec (.cmp l c ga gb) s) s l c (fun x => { x.setFlags (diff (x.g ga) (x.g gb)) with pc := x.pc + 4 })
      ∧ Runs (exec (.cmpi l c ga imm) s) s l c
          (fun x => { x.setFlags (diff (x.g ga) (BitVec.ofInt 64 imm.toInt)) with pc := x.pc + 4 })
      ∧ ∀ (x : Core) (f : FlagSet), (x.setFlags f).flags = f
          ∧ ∀ i, i < 12 ∨ 16 ≤ i → bit (x.setFlags f).psw.toNat i = bit x.psw.toNat i)

/-- Shifts and rotates, by register (amount modulo 64) and by immediate, then immediates, constants and bit counts: what gd takes. -/
def Obligations.ShiftsImmediatesCounts : Prop :=
  (∀ (s : State) (l : Lane) (c : CoreId) (gd ga gb : GReg) (sh : BitVec 6), Ready s l c .u →
      let n (x : Core) : Nat := (x.g gb).toNat % 64
      let left (a : Word) (k : Nat) : Word := BitVec.ofNat 64 (a.toNat * 2 ^ k)
      let right (a : Word) (k : Nat) : Word := BitVec.ofNat 64 (a.toNat / 2 ^ k)
      let arith (a : Word) (k : Nat) : Word := BitVec.ofInt 64 (a.toInt / 2 ^ k)
      let rot (a : Word) (k : Nat) : Word := BitVec.ofNat 64 (a.toNat / 2 ^ k + a.toNat * 2 ^ (64 - k))
      Runs (exec (.sll l c gd ga gb) s) s l c (fun x => x.done gd (left (x.g ga) (n x)))
      ∧ Runs (exec (.srl l c gd ga gb) s) s l c (fun x => x.done gd (right (x.g ga) (n x)))
      ∧ Runs (exec (.sra l c gd ga gb) s) s l c (fun x => x.done gd (arith (x.g ga) (n x)))
      ∧ Runs (exec (.ror l c gd ga gb) s) s l c (fun x => x.done gd (rot (x.g ga) (n x)))
      ∧ Runs (exec (.shi l c gd ga 0 sh) s) s l c (fun x => x.done gd (left (x.g ga) sh.toNat))
      ∧ Runs (exec (.shi l c gd ga 1 sh) s) s l c (fun x => x.done gd (right (x.g ga) sh.toNat))
      ∧ Runs (exec (.shi l c gd ga 2 sh) s) s l c (fun x => x.done gd (arith (x.g ga) sh.toNat))
      ∧ Runs (exec (.shi l c gd ga 3 sh) s) s l c (fun x => x.done gd (rot (x.g ga) sh.toNat)))
  ∧ (∀ (s : State) (l : Lane) (c : CoreId) (gd ga : GReg) (imm : BitVec 16) (k : BitVec 2), Ready s l c .u →
      Runs (exec (.addi l c gd ga imm) s) s l c (fun x => x.done gd (BitVec.ofInt 64 ((x.g ga).toInt + imm.toInt)))
      ∧ Runs (exec (.andi l c gd ga imm) s) s l c (fun x => x.done gd (BitVec.ofNat 64 ((x.g ga).toNat &&& imm.toNat)))
      ∧ Runs (exec (.ori l c gd ga imm) s) s l c (fun x => x.done gd (BitVec.ofNat 64 ((x.g ga).toNat ||| imm.toNat)))
      ∧ Runs (exec (.xori l c gd ga imm) s) s l c (fun x => x.done gd (BitVec.ofNat 64 ((x.g ga).toNat ^^^ imm.toNat)))
      ∧ Runs (exec (.slti l c gd ga imm) s) s l c (fun x => x.done gd (if (x.g ga).toInt < imm.toInt then 1 else 0))
      ∧ Runs (exec (.sltiu l c gd ga imm) s) s l c
          (fun x => x.done gd (if (x.g ga).toNat < (BitVec.ofInt 64 imm.toInt).toNat then 1 else 0))
      ∧ Runs (exec (.qset l c gd imm k) s) s l c (fun x => x.done gd (BitVec.ofNat 64 (imm.toNat * 2 ^ (16 * k.toNat))))
      ∧ (∃ v : Core → Word, Runs (exec (.qins l c gd imm k) s) s l c (fun x => x.done gd (v x)) ∧
          ∀ x i, i < 64 → bit (v x).toNat i =
            if 16 * k.toNat ≤ i ∧ i < 16 * k.toNat + 16 then bit imm.toNat (i - 16 * k.toNat) else bit (x.g gd).toNat i)
      ∧ (∃ v : Core → Word, Runs (exec (.clz l c gd ga) s) s l c (fun x => x.done gd (v x)) ∧
          ∀ x, (x.g ga = 0 → v x = 64) ∧
            (x.g ga ≠ 0 → (v x).toNat < 64 ∧ bit (x.g ga).toNat (63 - (v x).toNat) = true
              ∧ ∀ i, 63 - (v x).toNat < i → bit (x.g ga).toNat i = false))
      ∧ (∃ v : Core → Word, Runs (exec (.popc l c gd ga) s) s l c (fun x => x.done gd (v x)) ∧
          ∀ x, (v x).toNat = ((List.range 64).filter fun i => bit (x.g ga).toNat i).length))

/-- The trapping arithmetic: inside its range gd takes the exact result; outside it the exception ARITH is taken with EADDR zero,
and neither gd nor the flags are written. -/
def Obligations.TrappingArithmetic : Prop :=
  (∀ (s : State) (l : Lane) (c : CoreId) (gd ga gb : GReg), Ready s l c .u →
      let a := ((s.core l c).g ga).toInt
      let b := ((s.core l c).g gb).toInt
      let fits (v : Int) : Prop := -(2 ^ 63) ≤ v ∧ v < 2 ^ 63
      (fits (a + b) → Runs (exec (.addv l c gd ga gb) s) s l c (fun x => x.done gd (BitVec.ofInt 64 (a + b))))
      ∧ (fits (a - b) → Runs (exec (.subv l c gd ga gb) s) s l c (fun x => x.done gd (BitVec.ofInt 64 (a - b))))
      ∧ (fits (a * b) → Runs (exec (.mulv l c gd ga gb) s) s l c (fun x => x.done gd (BitVec.ofInt 64 (a * b))))
      ∧ (b ≠ 0 → fits (a.tdiv b) →
          Runs (exec (.div l c gd ga gb) s) s l c (fun x => x.done gd (BitVec.ofInt 64 (a.tdiv b)))
          ∧ Runs (exec (.rem l c gd ga gb) s) s l c (fun x => x.done gd (BitVec.ofInt 64 (a - b * a.tdiv b))))
      ∧ (b ≠ 0 →
          Runs (exec (.divu l c gd ga gb) s) s l c (fun x => x.done gd (BitVec.ofNat 64 ((x.g ga).toNat / (x.g gb).toNat)))
          ∧ Runs (exec (.remu l c gd ga gb) s) s l c (fun x => x.done gd (BitVec.ofNat 64 ((x.g ga).toNat % (x.g gb).toNat)))))
  ∧ (∀ (s : State) (l : Lane) (c : CoreId) (gd ga gb : GReg), Ready s l c .u → (s.core l c).exl = false →
      let a := ((s.core l c).g ga).toInt
      let b := ((s.core l c).g gb).toInt
      let out (v : Int) : Prop := v < -(2 ^ 63) ∨ 2 ^ 63 ≤ v
      (out (a + b) → Takes (exec (.addv l c gd ga gb) s) s l c 9 0)
      ∧ (out (a - b) → Takes (exec (.subv l c gd ga gb) s) s l c 9 0)
      ∧ (out (a * b) → Takes (exec (.mulv l c gd ga gb) s) s l c 9 0)
      ∧ (b = 0 ∨ out (a.tdiv b) →
          Takes (exec (.div l c gd ga gb) s) s l c 9 0 ∧ Takes (exec (.rem l c gd ga gb) s) s l c 9 0)
      ∧ (b = 0 → Takes (exec (.divu l c gd ga gb) s) s l c 9 0 ∧ Takes (exec (.remu l c gd ga gb) s) s l c 9 0))

/-- Branches: the pc moves by four times the signed offset when the condition holds and to the next instruction otherwise; nothing
else of the core changes. After a subtraction of two operands the conditions of BC compare them, signed and unsigned, whatever
they are: the flags and the condition codes fit together. -/
def Obligations.BranchesAndConditions : Prop :=
  (∀ (s : State) (l : Lane) (c : CoreId) (ga gb : GReg) (off : BitVec 16) (cond : BitVec 4), Ready s l c .u →
      let go (p : Core → Prop) (q : (x : Core) → Decidable (p x)) (x : Core) : Core :=
        { x with pc := @ite _ (p x) (q x) (x.pc + BitVec.ofInt 64 (4 * off.toInt)) (x.pc + 4) }
      Runs (exec (.beq l c ga gb off) s) s l c (go (fun x => x.g ga = x.g gb) fun _ => inferInstance)
      ∧ Runs (exec (.bne l c ga gb off) s) s l c (go (fun x => x.g ga ≠ x.g gb) fun _ => inferInstance)
      ∧ Runs (exec (.blt l c ga gb off) s) s l c (go (fun x => (x.g ga).toInt < (x.g gb).toInt) fun _ => inferInstance)
      ∧ Runs (exec (.bge l c ga gb off) s) s l c (go (fun x => (x.g gb).toInt ≤ (x.g ga).toInt) fun _ => inferInstance)
      ∧ Runs (exec (.bltu l c ga gb off) s) s l c (go (fun x => (x.g ga).toNat < (x.g gb).toNat) fun _ => inferInstance)
      ∧ Runs (exec (.bgeu l c ga gb off) s) s l c (go (fun x => (x.g gb).toNat ≤ (x.g ga).toNat) fun _ => inferInstance)
      ∧ (cond ≠ 15 → Runs (exec (.bc l c cond off) s) s l c (go (fun x => x.flags.holds cond = true) fun _ => inferInstance)))
  ∧ (∀ a b : Word,
      let f := subFlags a b
      (f.holds 0 = true ↔ a = b) ∧ (f.holds 8 = true ↔ a ≠ b)
      ∧ (f.holds 1 = true ↔ b.toNat ≤ a.toNat) ∧ (f.holds 9 = true ↔ a.toNat < b.toNat)
      ∧ (f.holds 4 = true ↔ b.toNat < a.toNat) ∧ (f.holds 12 = true ↔ a.toNat ≤ b.toNat)
      ∧ (f.holds 5 = true ↔ b.toInt ≤ a.toInt) ∧ (f.holds 13 = true ↔ a.toInt < b.toInt)
      ∧ (f.holds 6 = true ↔ b.toInt < a.toInt) ∧ (f.holds 14 = true ↔ a.toInt ≤ b.toInt)
      ∧ f.holds 7 = true)

/-- Jumps: J moves the pc by four times the signed offset, JAL also writes g31 with pc + 4, and JALR takes its target from ga
before it writes gd; a JALR target that is not a multiple of 4 raises FETCH_ALIGN with the target in EADDR. FENCE and FENCEIO at
any level and IFENCE at K only move the pc on: that an in-order model has nothing to wait for is its own reading (log entry 11). -/
def Obligations.JumpsAndFences : Prop :=
  (∀ (s : State) (l : Lane) (c : CoreId) (gd ga : GReg) (imm : BitVec 16) (off : BitVec 26), Ready s l c .u →
      let t := (s.core l c).g ga + BitVec.ofInt 64 imm.toInt
      Runs (exec (.j l c off) s) s l c (fun x => { x with pc := x.pc + BitVec.ofInt 64 (4 * off.toInt) })
      ∧ Runs (exec (.jal l c off) s) s l c
          (fun x => { x.setG 31 (x.pc + 4) with pc := x.pc + BitVec.ofInt 64 (4 * off.toInt) })
      ∧ (t.toNat % 4 = 0 → Runs (exec (.jalr l c gd ga imm) s) s l c (fun x => { x.setG gd (x.pc + 4) with pc := t }))
      ∧ (t.toNat % 4 ≠ 0 → (s.core l c).exl = false → Takes (exec (.jalr l c gd ga imm) s) s l c 3 t))
  ∧ (∀ (s : State) (l : Lane) (c : CoreId), Ready s l c .u →
      Runs (exec (.fence l c) s) s l c (fun x => { x with pc := x.pc + 4 })
      ∧ Runs (exec (.fenceio l c) s) s l c (fun x => { x with pc := x.pc + 4 })
      ∧ ((s.core l c).level = .k → Runs (exec (.ifence l c) s) s l c (fun x => { x with pc := x.pc + 4 })))

/-- Exception entry (R79) by the instructions whose effect is to take one: SYSCALL, BRK at K, a word that is no legal encoding, and BC
with cond 0b1111. EPC is the instruction itself, EADDR what R76 gives. A synchronous exception while EXL = 1 stops both cores of the
lane, withdraws its view and its pending votes, and leaves every core as it was (R81). -/
def Obligations.ExceptionEntry : Prop :=
  (∀ (s : State) (l : Lane) (c : CoreId) (word : BitVec 32) (off : BitVec 16), Ready s l c .u → (s.core l c).exl = false →
      Takes (exec (.syscall l c) s) s l c 0xA 0
      ∧ ((s.core l c).level = .k → Takes (exec (.brk l c) s) s l c 0xB 0)
      ∧ (legalWord word = false → Takes (exec (.illegalInstruction l c word) s) s l c 1 (word.zeroExtend 64))
      ∧ Takes (exec (.bc l c 15 off) s) s l c 1 (BitVec.ofNat 64 (0x26 * 2 ^ 26 + 15 * 2 ^ 21 + off.toNat)))
  ∧ (∀ (s : State) (l : Lane) (c : CoreId), s.Inv → Ready s l c .u → (s.core l c).exl = true →
      ∃ t, exec (.syscall l c) s = .next t ∧ (t.lane l).running = false ∧ (t.lane l).pend = []
        ∧ t.rd l R.CMP_VOTE_VIEW = 0 ∧ t.laneReg l R.FIO_LEN = 0 ∧ ∀ m d, t.core m d = s.core m d)

/-- Below its lowest level an instruction takes PRIV with EADDR zero (R69): IFENCE, BRK and ERET below K, WFI and the engine
instructions at U. At K, ERET restores level, interrupt enable and flags from EPSW, clears EXL and the reservation, and goes to EPC;
a saved level 0b11 raises ILLEGAL instead and leaves the level (R50). -/
def Obligations.PrivilegeAndReturn : Prop :=
  (∀ (s : State) (l : Lane) (c : CoreId) (gd ga : GReg), Ready s l c .u → (s.core l c).exl = false →
      ((s.core l c).level ≠ .k →
        Takes (exec (.ifence l c) s) s l c 2 0 ∧ Takes (exec (.brk l c) s) s l c 2 0 ∧ Takes (exec (.eret l c) s) s l c 2 0)
      ∧ ((s.core l c).level = .u →
        Takes (exec (.wfi l c) s) s l c 2 0 ∧ Takes (exec (.epass l c gd ga) s) s l c 2 0
        ∧ Takes (exec (.ewait l c gd ga) s) s l c 2 0 ∧ Takes (exec (.epoll l c gd ga) s) s l c 2 0
        ∧ Takes (exec (.ecancel l c gd ga) s) s l c 2 0))
  ∧ (∀ (s : State) (l : Lane) (c : CoreId), Ready s l c .k →
      let saved := (s.core l c).epsw.toNat
      (bits saved 1 0 ≠ 3 → Runs (exec (.eret l c) s) s l c
        (fun x => { x with psw := BitVec.ofNat 64 (bits saved 15 12 * 0x1000 + bits saved 2 0), pc := x.epc, resv := none }))
      ∧ (bits saved 1 0 = 3 → (s.core l c).exl = false →
          Takes (exec (.eret l c) s) s l c 1 (BitVec.ofNat 64 (0x30 * 2 ^ 26 + 5))))

/-- Interrupts (R80, R83): a pending enabled source is taken before an instruction (here of any instruction that issues: ADD stands
for it), by INTERRUPT_TAKEN and when a WFI wakes with IE = 1; the lowest source is taken, EPC is the instruction not yet executed.
WFI waits when nothing is pending, goes on when something is, and WFI_WAKE ends the wait. -/
def Obligations.InterruptsAndWaiting : Prop :=
  (∀ (s : State) (l : Lane) (c : CoreId) (n : Nat), s.canIssue l c = true →
      let x := s.core l c
      (∀ gd ga gb, x.takesInterrupt = true → x.pendingSource = some n →
        (∃ t, exec (.add l c gd ga gb) s = .next t ∧ Entered x (t.core l c) (BitVec.ofNat 64 (0x8000 + n)) 0)
        ∧ (∃ t, exec (.interruptTaken l c) s = .next t ∧ Entered x (t.core l c) (BitVec.ofNat 64 (0x8000 + n)) 0))
      ∧ (Ready s l c .s → x.pendingSource = none →
          ∃ t, exec (.wfi l c) s = .next t ∧ t.core l c = { x with wait := .wfi })
      ∧ (Ready s l c .s → x.pendingSource ≠ none → Runs (exec (.wfi l c) s) s l c (fun x => { x with pc := x.pc + 4 })))
  ∧ (∀ (s : State) (l : Lane) (c : CoreId) (n : Nat), (s.lane l).running = true → (s.core l c).wait = .wfi →
      let x := s.core l c
      (x.pendingSource = some n → x.takesInterrupt = false →
        ∃ t, exec (.wfiWake l c) s = .next t ∧ t.core l c = { x with wait := .none, pc := x.pc + 4 })
      ∧ (x.pendingSource = some n → x.takesInterrupt = true →
        (∃ t, exec (.wfiWake l c) s = .next t ∧ Entered x (t.core l c) (BitVec.ofNat 64 (0x8000 + n)) 0)
        ∧ (∃ t, exec (.interruptTaken l c) s = .next t ∧ Entered x (t.core l c) (BitVec.ofNat 64 (0x8000 + n)) 0))
      ∧ (x.pendingSource = some n → bit x.ipend.toNat n = true ∧ bit x.imask.toNat n = true
          ∧ ∀ m, m < n → bit (x.ipend &&& x.imask).toNat m = false))

/-- MFC at K reads every listed control register but CYC and DOORBELL, whose value is free, and at S and U PSW and CORE; MTC at K
writes one. MTC to PSW below K changes the flags alone, with no exception (R54). A register below its level raises PRIV, and MTC to
CORE ILLEGAL at every level (R70); a number that is not listed raises ILLEGAL at every level. -/
def Obligations.ControlRegisterMoves : Prop :=
  ∀ (s : State) (l : Lane) (c : CoreId) (g : GReg) (cn : BitVec 12), Ready s l c .u →
    let x := s.core l c
    let n := cn.toNat
    (x.level = .k ∨ n = 0 ∨ n = 8 → ctlListed n = true → n ≠ 9 → n ≠ 0xA →
      Runs (exec (.mfc l c g cn) s) s l c (fun y => y.done g (x.ctl l c n)))
    ∧ (x.level = .k → n = 9 ∨ n = 0xA → ∃ v t, exec (.mfc l c g cn) s = .next t ∧ (t.core l c).g g = (x.setG g v).g g
        ∧ (t.core l c).pc = x.pc + 4)
    ∧ (x.level = .k → ctlListed n = true → n ≠ 0xA → n ≠ 8 → x.g g &&& BitVec.ofNat 64 (ctlReserved n) = 0 →
        (n = 0 → bits (x.g g).toNat 1 0 ≠ 3) →
        Runs (exec (.mtc l c g cn) s) s l c (fun y => { y.setCtl n (x.g g) with pc := x.pc + 4 }))
    ∧ (x.level ≠ .k → n = 0 →
        Runs (exec (.mtc l c g cn) s) s l c (fun y => { y with
          psw := BitVec.ofNat 64 (bits y.psw.toNat 63 16 * 2 ^ 16 + bits (x.g g).toNat 15 12 * 2 ^ 12 + bits y.psw.toNat 11 0)
          pc := y.pc + 4 }))
    ∧ (x.exl = false → ctlListed n = false →
        Takes (exec (.mfc l c g cn) s) s l c 1 (mfcWord g cn) ∧ Takes (exec (.mtc l c g cn) s) s l c 1 (mtcWord g cn))
    ∧ (x.exl = false → n = 8 → Takes (exec (.mtc l c g cn) s) s l c 1 (mtcWord g cn))
    ∧ (x.exl = false → x.level ≠ .k → ctlListed n = true → n ≠ 0 → n ≠ 8 →
        Takes (exec (.mtc l c g cn) s) s l c 2 0 ∧ (n ≠ 9 → Takes (exec (.mfc l c g cn) s) s l c 2 0))

/-- Loads from memory: with the address aligned, permitted, in SRAM or DRAM, its word good and no damage on its way to the core, gd
takes the bytes at ea, zero- or sign-extended. A load that names a register block must be LD: with no check against it, gd takes what a read of that register gives. -/
def Obligations.Loads : Prop :=
  (∀ (s : State) (l : Lane) (c : CoreId) (gd ga : GReg) (imm : BitVec 16) (w : Word), Ready s l c .u →
      let f := s.fetched l c
      let ea := (s.core l c).g ga + BitVec.ofInt 64 imm.toInt
      let a := ea.toNat
      let v (n : Nat) : Nat := w.toNat / 2 ^ (8 * (a % 8)) % 2 ^ (8 * n)
      let good (n : Nat) : Prop := a % n = 0 ∧ (s.core l c).regionOk a .read = true ∧ (isSram a = true ∨ isDram a = true)
        ∧ rsDecode ((f.lane l).data (a / 8 * 8)) ((f.lane l).check (a / 8 * 8)) = .clean w
        ∧ ∀ h ∈ (f.lane l).bus, h.path ≠ .load c
      let loads (r : Host.Outcome State Fault Refusal) (val : Word) : Prop :=
        ∃ t, r = .next t ∧ t.core l c = (s.core l c).done gd val ∧ Beside f l c t
          ∧ (t.lane l).mem = (f.lane l).mem
      (good 8 → loads (exec (.ld l c gd ga imm) s) w)
      ∧ (good 4 → loads (exec (.lw l c gd ga imm) s) (BitVec.ofNat 64 (v 4)))
      ∧ (good 4 → loads (exec (.lws l c gd ga imm) s) ((BitVec.ofNat 32 (v 4)).signExtend 64))
      ∧ (good 2 → loads (exec (.lh l c gd ga imm) s) (BitVec.ofNat 64 (v 2)))
      ∧ (good 2 → loads (exec (.lhs l c gd ga imm) s) ((BitVec.ofNat 16 (v 2)).signExtend 64))
      ∧ (good 1 → loads (exec (.lb l c gd ga imm) s) (BitVec.ofNat 64 (v 1)))
      ∧ (good 1 → loads (exec (.lbs l c gd ga imm) s) ((BitVec.ofNat 8 (v 1)).signExtend 64)))
  ∧ (∀ (s : State) (l : Lane) (c : CoreId) (gd ga : GReg) (imm : BitVec 16), Ready s l c .u →
      let f := s.fetched l c
      let ea := (s.core l c).g ga + BitVec.ofInt 64 imm.toInt
      ea.toNat % 8 = 0 → isBlock ea.toNat = true → f.regRefusal l c ea.toNat false = none →
        ∃ t, exec (.ld l c gd ga imm) s = .next t ∧ (t.core l c).own = ((s.core l c).done gd (f.readReg l c ea.toNat).1).own)

/-- Stores to memory: with the address aligned, permitted, in SRAM or DRAM, outside the footprint of a held pass, no damage on the way
(and, for a narrow form, its word good), exactly the n bytes at ea take the low bytes of gs; the other core loses a reservation of the word. -/
def Obligations.MemoryStores : Prop :=
  ∀ (s : State) (l : Lane) (c : CoreId) (gs ga : GReg) (imm : BitVec 16), s.Inv → Ready s l c .u →
    let f := s.fetched l c
    let ea := (s.core l c).g ga + BitVec.ofInt 64 imm.toInt
    let a := ea.toNat
    let v := (s.core l c).g gs
    let fit (n : Nat) : Prop := a % n = 0 ∧ (s.core l c).regionOk a .write = true ∧ (isSram a = true ∨ isDram a = true)
      ∧ f.storeBarred l a = false ∧ ∀ h ∈ (f.lane l).bus, h.path ≠ .store c
    let good : Prop := ∃ w, rsDecode ((f.lane l).data (a / 8 * 8)) ((f.lane l).check (a / 8 * 8)) = .clean w
    let stores (r : Host.Outcome State Fault Refusal) (n : Nat) : Prop :=
      ∃ t, r = .next t ∧ t.core l c = { s.core l c with pc := (s.core l c).pc + 4 }
        ∧ (∀ b, (t.lane l).byte b = if a ≤ b ∧ b < a + n then BitVec.ofNat 8 (v.toNat / 2 ^ (8 * (b - a))) else (f.lane l).byte b)
        ∧ (t.core l c.other).resv = (if (s.core l c.other).resv = some (BitVec.ofNat 64 (a / 8 * 8)) then none
            else (s.core l c.other).resv)
        ∧ Beside f l c t
    (fit 8 → stores (exec (.sd l c gs ga imm) s) 8)
    ∧ (fit 4 → good → stores (exec (.sw l c gs ga imm) s) 4)
    ∧ (fit 2 → good → stores (exec (.sh l c gs ga imm) s) 2)
    ∧ (fit 1 → good → stores (exec (.sb l c gs ga imm) s) 1)

/-- LL takes the word and the reservation; SC stores and gives 0 while the core's reservation is the address, else it makes no
access and gives 1; either way the reservation is gone (R65). -/
def Obligations.ReservedAccesses : Prop :=
  ∀ (s : State) (l : Lane) (c : CoreId) (gd ga gb : GReg) (w : Word), s.Inv → Ready s l c .u →
    let f := s.fetched l c
    let x := s.core l c
    let a := (x.g ga).toNat
    let memory : Prop := a % 8 = 0 ∧ (isSram a = true ∨ isDram a = true)
      ∧ ∀ h ∈ (f.lane l).bus, h.path ≠ .load c ∧ h.path ≠ .store c
    (memory → x.regionOk a .read = true → rsDecode ((f.lane l).data a) ((f.lane l).check a) = .clean w →
      ∃ t, exec (.ll l c gd ga) s = .next t ∧ t.core l c = { x.done gd w with resv := some (x.g ga) } ∧ Beside f l c t
        ∧ (t.lane l).mem = (f.lane l).mem)
    ∧ (memory → x.regionOk a .write = true → x.resv = some (x.g ga) → f.storeBarred l a = false →
      ∃ t, exec (.sc l c gd ga gb) s = .next t ∧ t.core l c = { x.done gd 0 with resv := none } ∧ Beside f l c t
        ∧ ∀ b, (t.lane l).byte b = if a ≤ b ∧ b < a + 8 then BitVec.ofNat 8 ((x.g gb).toNat / 2 ^ (8 * (b - a)))
            else (f.lane l).byte b)
    ∧ (memory → x.regionOk a .write = true → x.resv ≠ some (x.g ga) →
      ∃ t, exec (.sc l c gd ga gb) s = .next t ∧ t.core l c = { x.done gd 1 with resv := none } ∧ Beside f l c t
        ∧ (t.lane l).mem = (f.lane l).mem)
    ∧ (x.exl = false → a % 8 = 0 → isBlock a = true → f.regRefusal l c a false = none →
      Takes (exec (.ll l c gd ga) s) s l c 6 (x.g ga))

/-- A misaligned load or store, LL and SC among them, raises DATA_ALIGN with ea in EADDR and reaches no memory or register (R61). Of the
further checks of a load or store, the region comes before address and width; the first that fails decides the exception, EADDR is
ea, and nothing is read or written. Damage that strikes a loaded word on its way (R277, R279): damage to one symbol is corrected and
counted and the load goes on; damage that is detected raises UNCORR and is counted; the word in memory stays as it is. -/
def Obligations.DataChecks : Prop :=
  (∀ (w v : Word) (e : Nat), e < 11 → v.toNat < 256 → v ≠ 0 →
      busArrive w (BitVec.ofNat 88 (v.toNat * 2 ^ (if e < 3 then 64 + 8 * e else 8 * (e - 3)))) = .corrected w)
  ∧ (∀ (s : State) (l : Lane) (c : CoreId) (gd ga : GReg) (imm : BitVec 16) (w : Word) (pat : BitVec 88), s.Inv → Ready s l c .u →
      let f := s.fetched l c
      let x := s.core l c
      let a := (x.g ga + BitVec.ofInt 64 imm.toInt).toNat
      a % 8 = 0 → x.regionOk a .read = true → isSram a = true ∨ isDram a = true →
      rsDecode ((f.lane l).data a) ((f.lane l).check a) = .clean w → (f.lane l).bus = [⟨.load c, pat⟩] →
      (∀ v, busArrive w pat = .corrected v → ∃ t, exec (.ld l c gd ga imm) s = .next t ∧ t.core l c = x.done gd v ∧ (t.lane l).bus = []
        ∧ t.rd l R.MEM_ECC_STAT_BUS_CORR = satAdd (f.rd l R.MEM_ECC_STAT_BUS_CORR) 1 R.MEM_ECC_STAT_BUS_CORR.max
        ∧ (t.lane l).mem = (f.lane l).mem)
      ∧ (busArrive w pat = .detected → x.exl = false → ∃ t, exec (.ld l c gd ga imm) s = .next t
        ∧ Entered x (t.core l c) 8 (BitVec.ofNat 64 a) ∧ (t.lane l).bus = []
        ∧ t.rd l R.MEM_ECC_STAT_BUS_DET = satAdd (f.rd l R.MEM_ECC_STAT_BUS_DET) 1 R.MEM_ECC_STAT_BUS_DET.max
        ∧ (t.lane l).mem = (f.lane l).mem ∧ (t.lane l).chk = (f.lane l).chk))
  ∧ ∀ (s : State) (l : Lane) (c : CoreId) (g ga : GReg) (imm : BitVec 16), Ready s l c .u → (s.core l c).exl = false →
    let ea := (s.core l c).g ga + BitVec.ofInt 64 imm.toInt
    let a := ea.toNat
    ∀ f ∈ [(8, true, Access.read, Instr.ld l c g ga imm), (4, false, .read, .lw l c g ga imm), (4, false, .read, .lws l c g ga imm)
        , (2, false, .read, .lh l c g ga imm), (2, false, .read, .lhs l c g ga imm), (1, false, .read, .lb l c g ga imm)
        , (1, false, .read, .lbs l c g ga imm), (8, true, .write, .sd l c g ga imm), (4, false, .write, .sw l c g ga imm)
        , (2, false, .write, .sh l c g ga imm), (1, false, .write, .sb l c g ga imm)],
      (a % f.1 ≠ 0 → Takes (exec f.2.2.2 s) s l c 5 ea)
      ∧ (a % f.1 = 0 → (s.core l c).regionOk a f.2.2.1 = false → Takes (exec f.2.2.2 s) s l c 7 ea)
      ∧ (a % f.1 = 0 → (s.core l c).regionOk a f.2.2.1 = true → isSram a = false → isDram a = false →
          (s.fetched l c).levelRefusal l c a (decide (f.2.2.1 = .write)) = none → f.2.1 = false →
          Takes (exec f.2.2.2 s) s l c 6 ea)
      ∧ (((s.core l c).g ga).toNat % 8 ≠ 0 → ∀ gb, Takes (exec (.ll l c g ga) s) s l c 5 ((s.core l c).g ga)
        ∧ Takes (exec (.sc l c g ga gb) s) s l c 5 ((s.core l c).g ga))

/-! ## Engine instructions and passes (chapters 02 and 04) -/

/-- EPASS, EWAIT, EPOLL and ECANCEL, and the return of an EWAIT (R86 to R91): tickets, the copy of the descriptor, refusal of a
fifth descriptor, what each status returns and when a ticket is used up. That the count passes over a zero ticket by one more is the
model's own choice (log entry 153). -/
def Obligations.EngineInstructions : Prop :=
  ∀ (s : State) (l : Lane) (c : CoreId) (gd ga : GReg) (ws : List Word), s.Inv →
    let f := s.fetched l c
    let x := f.core l c
    let e := s.eng l
    let a := (x.g ga).toNat
    let tk := x.g ga
    (Ready s l c .s → f.rd l R.RTE_CTRL_EN = 0 ∨ e.queue.length = 4 → Runs (exec (.epass l c gd ga) s) s l c (fun y => y.done gd 0))
    ∧ (Ready s l c .s → f.rd l R.RTE_CTRL_EN = 1 → e.queue.length < 4 → x.regionOk a .read = true → a % 64 = 0 → isSram a = true →
        ws.length = 8 → (∀ k, k < 8 → rsDecode ((f.lane l).data (a + 8 * k)) ((f.lane l).check (a + 8 * k)) = .clean (ws.getD k 0)) →
        (∀ h ∈ (f.lane l).bus, h.path ≠ .load c) →
        let d := descOfWords ws true
        let n := if (e.submitted + 1) % 2 ^ 16 = 0 ∧ d.kindRaw = 0 then 1 else (e.submitted + 1) % 2 ^ 16
        let p : Pass := { ticket := BitVec.ofNat 64 (n * 2 ^ 48 + d.kindRaw), core := c, desc := d, seq := n, raised := 0, phase := .waiting }
        d.kindRaw ≠ 1 ∨ (∀ q ∈ e.queue, q.desc.kindRaw = 3 → q.desc.task ≠ d.task) →
        ∃ t, exec (.epass l c gd ga) s = .next t ∧ t.core l c = x.done gd p.ticket ∧ t.eng l = { e with submitted := n, queue := e.queue ++ [p] }
          ∧ p.ticket ≠ 0 ∧ (t.lane l).mem = (f.lane l).mem ∧ t.modRegs = s.modRegs)
    ∧ (Ready s l c .s → e.status tk = 0 →
        (∃ t, exec (.ewait l c gd ga) s = .next t ∧ t.core l c = { x with wait := .ewait gd tk } ∧ t.eng l = e)
        ∧ (∃ t, exec (.epoll l c gd ga) s = .next t ∧ t.core l c = x.done gd 0 ∧ t.eng l = e))
    ∧ (Ready s l c .s → e.status tk ≠ 0 →
        (∃ t, exec (.ewait l c gd ga) s = .next t ∧ t.core l c = x.done gd (BitVec.ofNat 64 (e.status tk)) ∧ t.eng l = e.consume tk)
        ∧ (∃ t, exec (.epoll l c gd ga) s = .next t ∧ t.core l c = x.done gd (BitVec.ofNat 64 (e.status tk)) ∧ t.eng l = e.consume tk))
    ∧ (∀ g k, (s.lane l).running = true → (s.core l c).wait = .ewait g k → e.status k ≠ 0 →
        ∃ t, exec (.ewaitReturn l c) s = .next t
          ∧ t.core l c = { (s.core l c).done g (BitVec.ofNat 64 (e.status k)) with wait := .none }
          ∧ t.eng l = e.consume k)
    ∧ (Ready s l c .s → (∀ q ∈ e.queue, q.ticket = tk → q.desc.kindRaw ≠ 3) →
        ∃ t, exec (.ecancel l c gd ga) s = .next t ∧ t.core l c = x.done gd (BitVec.ofNat 64 (e.status tk)) ∧ t.eng l = e)
    ∧ (Ready s l c .s → (∃ q ∈ e.queue, q.ticket = tk ∧ q.desc.kindRaw = 3) → (∀ q ∈ e.results, q.1 ≠ tk) →
        ∃ t, exec (.ecancel l c gd ga) s = .next t ∧ (t.core l c).own = (x.done gd 4).own ∧ (∀ q ∈ (t.eng l).queue, q.ticket ≠ tk)
          ∧ (t.eng l).status tk = 4 ∧ (t.eng l).hints = [])

/-- The life of a pass: it starts, the highest order level first and earlier submissions first among equals; a descriptor that
may not start ends with status 3; an internal check ends it with 5, damage that the check corrects does not; a look-ahead pass ends with
1 at its budget and at the end of its index; preemption, which squashes and counts the window, and resumption; ageing raises what
waits. -/
def Obligations.PassLife : Prop :=
  ∀ (s : State) (l : Lane) (p : Pass) (r : Run), s.Inv →
    let e := s.eng l
    let ends (o : Host.Outcome State Fault Refusal) (status : Nat) : Prop := ∃ t, o = .next t
      ∧ (t.eng l).results = e.results ++ [(p.ticket, status)] ∧ (t.eng l).queue = e.queue.filter (fun q => q.ticket != p.ticket)
      ∧ t.rd l R.RTE_STAT_LAST_STATUS = status ∧ bit (t.core l p.core).ipend.toNat 3 = true
    (e.next = some p → p.phase = .waiting → s.descOk l p.desc = true → p.desc.kindRaw = 1 ∨ p.desc.kindRaw = 2 →
      ∃ t, exec (.passStart l) s = .next t ∧ (t.eng l).queue =
        e.queue.map fun q => if q.ticket == p.ticket then { q with phase := .running (s.newRun l p), raised := 0 } else q)
    ∧ (e.next = some p → p.phase = .waiting → s.descOk l p.desc = false → ends (exec (.passStart l) s) 3)
    ∧ (e.next = some p → e.running = none ∧ ∃ pre post, e.queue = pre ++ p :: post ∧ (∀ q ∈ pre, q.order < p.order)
        ∧ ∀ q ∈ post, q.order ≤ p.order)
    ∧ (e.running = some (p, r) → ends (exec (.engineCheckFailure l none) s) 5
        ∧ (p.desc.kindRaw = 1 ∨ p.desc.kindRaw = 2 → p.desc.task < 16 →
          ∃ t, exec (.engineCheckFailure l none) s = .next t ∧ t.rd l (R.RTE_DPREV_VALID p.desc.task) = 0)
        ∧ ∀ pat, (busArrive 0 pat = .detected → ends (exec (.engineCheckFailure l (some pat)) s) 5)
          ∧ (busArrive 0 pat ≠ .detected → ∃ t, exec (.engineCheckFailure l (some pat)) s = .next t ∧ t.eng l = e))
    ∧ (e.running = some (p, r) → p.desc.kindRaw = 3 → r.look.2.1 ≤ r.streamed → ends (exec (.lookaheadBudgetReached l) s) 1)
    ∧ (e.running = some (p, r) → p.desc.kindRaw = 3 → r.look.2.2 ≤ r.idone → ends (exec (.passStart l) s) 1)
    ∧ (e.running = some (p, r) → p.desc.kindRaw = 3 → e.preempter p ≠ none →
        ∃ t, exec (.preemption l) s = .next t ∧ t.eng l = e.setPhase p.ticket (.preempted none r))
    ∧ (∀ (q : Pass) (i : Fin 3), e.running = some (p, r) → p.desc.kindRaw ≠ 3 → e.preempter p = some q → e.slots[i] = false →
        (∀ j : Fin 3, j < i → e.slots[j] = true) → s.rd l R.RTE_CTRL_PREEMPT = 1 → s.rd l R.RTE_CTX_BASE_VALID = 1 →
        (q.desc.kindRaw = 3 ∨ ∀ x y, footSpan p.desc.stateBase (s.taskImg p.desc.task) = some x →
          footSpan q.desc.stateBase (s.taskImg q.desc.task) = some y → overlap x y = false ∧ overlap y x = false) →
        ∃ t, exec (.preemption l) s = .next t ∧ t.eng l =
          { e.setPhase p.ticket (.preempted (some i.val) { r with window := [] }) with slots := e.slots.set i true }
          ∧ t.rd l R.RTE_SQUASH_CNT_SQUASHED =
            satAdd (s.rd l R.RTE_SQUASH_CNT_SQUASHED) r.window.length R.RTE_SQUASH_CNT_SQUASHED.max)
    ∧ (∀ (n : Nat) (r1 : Run), e.next = some p → p.phase = .preempted (some n) r → (s.loadCtx l n r).1 = some r1 →
        ∃ t, exec (.passResume l) s = .next t ∧ (t.eng l).queue =
          e.queue.map fun q => if q.ticket == p.ticket then { q with phase := .running r1, raised := 0 } else q)
    ∧ (s.rd l R.ARB_PRIO_AGE ≠ 0 → ∃ t, exec (.passAgeing l p.ticket) s = .next t ∧ (∀ m, m ≠ l → t.lane m = s.lane m)
        ∧ t.eng l = { e with queue := e.queue.map fun q =>
            match q.phase with
            | .running _ => q
            | _ => if q.ticket = p.ticket ∧ q.desc.prio + q.raised < 15 then { q with raised := q.raised + 1 } else q })

/-- INSTRUCTION_COMMIT of the only instruction of the window, its words good: a value goes to the temporary file or to SRAM, is
marked as written and folded into the seal unless the word is scratch; a deferred error ends the pass with its status; END
completes the pass when every word has been written, and fails it otherwise. -/
def Obligations.InstructionCommits : Prop :=
  ∀ (s : State) (l : Lane) (p : Pass) (r : Run) (h : Held) (e : Entry), s.Inv →
    (s.eng l).running = some (p, r) → p.desc.kindRaw = 1 ∨ p.desc.kindRaw = 2 → r.window = [h] → h.off = r.off → h.ins.isSkip = false →
    (∀ j, j < h.size → ∃ w, rsDecode ((s.lane l).data (p.desc.logicBase + 8 * (h.off + j)))
      ((s.lane l).check (p.desc.logicBase + 8 * (h.off + j))) = .clean w) → p.desc.logicBase % 8 = 0 →
    p.desc.logicBase + 8 * (h.off + h.size) ≤ p.desc.logicEnd → (∀ x ∈ (s.lane l).bus, x.path ≠ .engineRead) →
    let c := exec (.instructionCommit l) s
    let a := p.desc.stateBase + refOffset e.ref + (if p.desc.kindRaw = 2 then 8 else 0)
    let ends (status : Nat) : Prop := ∃ t, c = .next t ∧ (t.eng l).results = (s.eng l).results ++ [(p.ticket, status)]
      ∧ (t.eng l).queue = (s.eng l).queue.filter (fun q => q.ticket != p.ticket) ∧ t.rd l R.RTE_STAT_LAST_STATUS = status
    (h.err = none → h.ins.op ≠ .endp → h.folds = [] → h.entries = [e] → e.null = false → refTemp e.ref = true →
      ∃ t, c = .next t ∧ t.eng l = (s.eng l).setPhase p.ticket (.running { r with
        window := [], off := h.endOff, streamed := r.streamed + h.size, temps := mapInsert r.temps (refId e.ref) e.val })
        ∧ (t.lane l).mem = (s.lane l).mem)
    ∧ (h.err = none → h.ins.op ≠ .endp → h.folds = [] → h.entries = [e] → e.null = false → refTemp e.ref = false → a % 8 = 0 →
      r.acc.wpos < 4095 →
      ∃ t, c = .next t ∧ t.eng l = (s.eng l).setPhase p.ticket (.running { r with
        window := [], off := h.endOff, streamed := r.streamed + h.size
        written := if r.written.contains e.ref then r.written else e.ref :: r.written
        acc := if isScratch (s.taskImg p.desc.task) e.ref then r.acc else
          { r.acc with wcrc := crc64 r.acc.wcrc (foldValue e.ref e.plain), wpos := r.acc.wpos + 1, nres := r.acc.nres + 1 } })
        ∧ (∀ b, (t.lane l).byte b = if a ≤ b ∧ b < a + 8 then BitVec.ofNat 8 (e.val.raw.toNat / 2 ^ (8 * (b - a)))
            else (s.lane l).byte b))
    ∧ (∀ status, h.err = some status → status < 16 → ends status)
    ∧ (h.err = none → h.ins.op = .endp → h.entries = [] → h.folds = [] → (s.lane l).inject = none →
        ends (if allWritten (s.taskImg p.desc.task) r.written then 1 else if p.desc.kindRaw = 2 then 2 else 5))

/-! ## Element logic (chapter 03) -/

/-- The words of a logic instruction: a legal instruction decodes from its words, whatever follows them, and from words that
decode the instruction's words are the ones it was read from, so that no two instructions share an encoding. -/
def Obligations.LogicEncodingRoundTrip : Prop :=
  (∀ (i : LogicIns) (rest : List Word), i.legal = true → decodeLogic (i.encode ++ rest) = some i ∧ i.encode.length = i.size)
  ∧ ∀ (i : LogicIns) (ws : List Word), decodeLogic ws = some i → i.encode = ws.take i.size

/-- A coded value reads back as what it holds (R103, R104), and a difference in the signatures it is read with never decodes: the
residue is smaller than A. State codes (R98, R100): any two differ in at least 16 bit positions, and a code and its complement in
all 32; TRUE and FALSE are complements. -/
def Obligations.CodedValuesAndStateCodes : Prop :=
  (∀ (a n b b' d : Nat), 2 ^ 30 ≤ a → a < 2 ^ 31 → n < 2 ^ 32 → 1 ≤ b → b < 2 ^ 20 → b' < 2 ^ 20 → d < 2 ^ 29 →
      decodeCoded a (encodeWord a n b d) b d = some n
      ∧ (b' ≠ b → decodeCoded a (encodeWord a n b d) b' d = none)
      ∧ (∀ d', d' < 2 ^ 29 → d' ≠ d → decodeCoded a (encodeWord a n b d) b d' = none)
      ∧ (∀ x, decodeCoded a x b d = some n → x = encodeWord a n b d)
      ∧ (encodeWord a n b d).toNat = (a * n + b + d) % 2 ^ 64 ∧ b + d < a
      ∧ ∀ w : Word, let x := (w - BitVec.ofNat 64 b - BitVec.ofNat 64 d).toNat
          decodeCoded a w b d = if x % a = 0 ∧ x < a * 2 ^ 32 then some (x / a) else none)
  ∧ ((∀ i j, codeIndexOk i = true → codeIndexOk j = true → i ≠ j →
      16 ≤ ((List.range 32).filter fun k => bit (stateCode i) k != bit (stateCode j) k).length)
    ∧ (∀ i, codeIndexOk i = true → 0 < stateCode i ∧ stateCode i < 2 ^ 32 - 1)
    ∧ (∀ i, i < 32 → stateCode (i + 32) = 2 ^ 32 - 1 - stateCode i) ∧ codeTrue + codeFalse = 2 ^ 32 - 1)

/-- MOV, LDI, ADD, SUB, NOT and SEL: what each puts into the held post, in both kinds of pass; in a coded pass the entry is
A·n + Bd + D, which the coded formulas reach without decoding (chapter 03, "Arithmetic, selection and conditions"). A MOV with an
illegal encoding, or one that names a word outside the footprint, enters the window with a deferred status 5 and writes nothing
(R94, R115). -/
def Obligations.LogicValues : Prop :=
  (∀ (s : State) (l : Lane) (p : Pass) (r : Run) (off : Nat) (bd : BitVec 20) (dst src : Ref), Oldest s l p r off →
      s.spells l p off { op := .mov, imm := bd.toNat, dst := dst, slots := [src] } = true → ¬ (LegalAt p off { op := .mov, imm := bd.toNat, dst := dst, slots := [src] } ∧ Target s p dst ∧ Target s p src) →
      ∃ t h, exec (.mov l off bd dst src) s = .next t ∧ t.eng l = (s.eng l).setPhase p.ticket (.running { r with window := [h] })
        ∧ h.err = some 5 ∧ h.entries = [])
  ∧ (∀ (s : State) (l : Lane) (p : Pass) (r : Run) (off : Nat) (bd : BitVec 20) (dst x y z : Ref) (lit : BitVec 32) (n m k : Nat),
      Oldest s l p r off → Target s p dst → Holds s l p r x n → Holds s l p r y m → Holds s l p r z k →
      let c := s.seen l p r
      let legal (op : Op) (slots : List Ref) : Prop := Stands s l p off { op := op, imm := bd.toNat, dst := dst, slots := slots }
      let gives (o : Host.Outcome State Fault Refusal) (v : Nat) : Prop :=
        Evaluates o s l p r fun h => h.entries = [entry c dst (c.bd dst bd.toNat) v] ∧ h.folds = []
      (legal .mov [x] → gives (exec (.mov l off bd dst x) s) n)
      ∧ (legal .ldi [lit] → gives (exec (.ldi l off bd dst lit) s) lit.toNat)
      ∧ (legal .add [x, y] → n + m < 2 ^ 32 → gives (exec (.logicAdd l off bd dst x y) s) (n + m))
      ∧ (legal .sub [x, y] → m ≤ n → gives (exec (.logicSub l off bd dst x y) s) (n - m))
      ∧ (legal .not [x] → n = codeTrue → gives (exec (.not l off bd dst x) s) codeFalse)
      ∧ (legal .not [x] → n = codeFalse → gives (exec (.not l off bd dst x) s) codeTrue)
      ∧ (legal .sel [x, y, z] → n = codeTrue → gives (exec (.sel l off bd dst x y z) s) m)
      ∧ (legal .sel [x, y, z] → n = codeFalse → gives (exec (.sel l off bd dst x y z) s) k))

/-- ALL, ANY, CONF and FLANK: the boolean that each gives from the values of its slots (R116, R121, R122 and their pseudocode). -/
def Obligations.LogicConditions : Prop :=
  ∀ (s : State) (l : Lane) (p : Pass) (r : Run) (off : Nat) (bd : BitVec 20) (dst own : Ref) (slots : List Ref) (v u : Ref → Nat),
    Oldest s l p r off → Target s p own → (∀ q ∈ slots, Holds s l p r q (v q)) →
    let c := s.seen l p r
    let legal (op : Op) (slots : List Ref) : Prop := Stands s l p off { op := op, imm := bd.toNat, dst := dst, slots := slots }
    let gives (o : Host.Outcome State Fault Refusal) (b : Prop) : Prop :=
      (b → Evaluates o s l p r fun h => h.entries = [entry c dst bd.toNat codeTrue])
      ∧ (¬ b → Evaluates o s l p r fun h => h.entries = [entry c dst bd.toNat codeFalse])
    (legal .all slots → gives (exec (.all l off bd dst slots) s) (∀ q ∈ slots, v q = stateCode (refExp q)))
    ∧ (legal .any slots → gives (exec (.any l off bd dst slots) s) (∃ q ∈ slots, v q = stateCode (refExp q)))
    ∧ (legal .conf (own :: slots) → gives (exec (.conf l off bd dst own slots) s)
        (∀ q ∈ slots, v q = stateCode 1 ∨ (v q = stateCode 3 ∧ refId own < refId q)))
    ∧ (legal .flank (own :: slots) → (∀ q ∈ slots, Holds s l p r (refAt q 6) (u q)) → gives (exec (.flank l off bd dst own slots) s)
        (∀ q ∈ slots, v q = (if refExp q = 3 then stateCode 1 else stateCode 4) ∧ (u q = stateCode 1 ∨ u q = stateCode (refExp q))))

/-- LOCK is all or nothing (R124): with every listed element free, or held by the route with the same kind, each is locked for
the route and DST is TRUE; otherwise no lock word is assigned and DST is FALSE. UNLOCK frees what the route holds with the kind
and leaves the rest, and FLREQ writes its flank requirements when the route is set. -/
def Obligations.LogicLocks : Prop :=
  ∀ (s : State) (l : Lane) (p : Pass) (r : Run) (off : Nat) (bd : BitVec 20) (dst own : Ref) (slots : List Ref) (st : Nat)
    (lk ow fl : Ref → Nat),
    Oldest s l p r off → Target s p own →
    (∀ q ∈ slots, Target s p q) →
    let c := s.seen l p r
    let legal (op : Op) (imm : Nat) (dst : Ref) : Prop := Stands s l p off { op := op, imm := imm, dst := dst, slots := own :: slots }
    let kind := if refMode own = 0 then stateCode 3 else stateCode 4
    let mine (q : Ref) : Prop := ow q = refId own ∧ lk q = kind
    let locks : Prop := ∀ q ∈ slots, Holds s l p r (refAt q 4) (lk q) ∧ Holds s l p r (refAt q 5) (ow q)
    let flanks : Prop := ∀ q ∈ slots, Holds s l p r (refAt q 6) (fl q)
    (legal .lock bd.toNat dst → locks → (∀ q ∈ slots, lk q = stateCode 1 ∨ mine q) →
      Evaluates (exec (.lock l off bd dst own slots) s) s l p r fun h => entry c dst bd.toNat codeTrue ∈ h.entries
        ∧ ∀ q ∈ slots, Writes c h (refAt q 4) kind ∧ Writes c h (refAt q 5) (refId own))
    ∧ (legal .lock bd.toNat dst → locks → (∃ q ∈ slots, lk q ≠ stateCode 1 ∧ ¬ mine q) →
      Evaluates (exec (.lock l off bd dst own slots) s) s l p r fun h => entry c dst bd.toNat codeFalse ∈ h.entries
        ∧ ∀ x ∈ h.entries, refTemp x.ref = false → x.null = true)
    ∧ (legal .unlock 0 0 → locks → Evaluates (exec (.unlock l off own slots) s) s l p r fun h =>
        ∀ q ∈ slots, (mine q → Writes c h (refAt q 4) (stateCode 1) ∧ Writes c h (refAt q 5) 0x2000)
          ∧ (¬ mine q → ∀ x ∈ h.entries, x.ref = refAt q 4 ∨ x.ref = refAt q 5 → x.null = true))
    ∧ (legal .flreq 0 0 → Holds s l p r own st → st ∉ [stateCode 5, stateCode 6, stateCode 7, stateCode 8] →
      Evaluates (exec (.flreq l off own slots) s) s l p r fun h => ∀ x ∈ h.entries, x.null = true)
    ∧ (legal .flreq 0 0 → Holds s l p r own st → st ∈ [stateCode 5, stateCode 6, stateCode 7, stateCode 8] → flanks →
      (slots.map fun q => refAt q 6).Nodup → Evaluates (exec (.flreq l off own slots) s) s l p r fun h =>
        ∀ q ∈ slots, Writes c h (refAt q 6)
          (if fl q = stateCode 1 ∨ fl q = stateCode (refExp q) then stateCode (refExp q) else stateCode 5))

/-- ROUTE makes the transition that R126 lists, writes REQ as NONE, and resets RELPTR exactly when a route is requested. RREL (R127): a
route that is not IN_USE is left alone; the section at RELPTR that has been seen occupied and is now left by the train, the next one
being occupied, is released with its lock and RELPTR moves on; the last section takes the route to IDLE. -/
def Obligations.Routes : Prop :=
  (∀ (s : State) (l : Lane) (p : Pass) (r : Run) (off : Nat) (own r1 r2 r3 r4 r5 r6 : Ref) (st q : Nat) (b1 b2 b3 b4 b5 b6 : Bool),
      Oldest s l p r off → Stands s l p off { op := .route, imm := 0, dst := 0, slots := [own, r1, r2, r3, r4, r5, r6] } →
      Holds s l p r own st → Holds s l p r (refAt own 1) q →
      Holds s l p r r1 (boolCode b1) → Holds s l p r r2 (boolCode b2) → Holds s l p r r3 (boolCode b3) →
      Holds s l p r r4 (boolCode b4) → Holds s l p r r5 (boolCode b5) → Holds s l p r r6 (boolCode b6) →
      let c := s.seen l p r
      let goes (new : Nat) : Prop := Evaluates (exec (.route l off own [r1, r2, r3, r4, r5, r6]) s) s l p r fun h =>
        Writes c h own new ∧ Writes c h (refAt own 1) (stateCode 1)
          ∧ (st = stateCode 1 ∧ q = stateCode 3 → Writes c h (refAt own 2) 0)
          ∧ (¬ (st = stateCode 1 ∧ q = stateCode 3) → ∀ x ∈ h.entries, x.ref = refAt own 2 → x.null = true)
      let idle := stateCode 1
      let cancel := q = stateCode 4
      (st = idle → q = stateCode 3 → goes (stateCode 3)) ∧ (st = idle → q ≠ stateCode 3 → goes idle)
      ∧ (st = stateCode 3 ∨ st = stateCode 4 ∨ st = stateCode 5 → cancel → goes idle)
      ∧ (¬ cancel → (st = stateCode 3 → goes (if b1 then stateCode 4 else st)) ∧ (st = stateCode 4 → goes (if b2 then stateCode 5 else st))
          ∧ (st = stateCode 5 → goes (if b3 then stateCode 6 else st)))
      ∧ (st = stateCode 6 → goes (if b4 then stateCode 7 else if q = stateCode 4 then (if b5 then idle else stateCode 8) else st))
      ∧ (st = stateCode 8 → goes (if b4 then stateCode 7 else if b6 then idle else st))
      ∧ (st = stateCode 7 → goes st))
  ∧ (∀ (s : State) (l : Lane) (p : Pass) (r : Run) (off : Nat) (first : BitVec 20) (own j nxt : Ref) (slots : List Ref) (st i n : Nat),
      Oldest s l p r off → Target s p own → Holds s l p r own st → Holds s l p r (refAt own 2) i → Holds s l p r (refAt own 3) n →
      (∀ q ∈ slots, Target s p q) →
      let c := s.seen l p r
      let legal (slots : List Ref) : Prop := Stands s l p off { op := .rrel, imm := first.toNat, dst := 0, slots := own :: slots }
      let none' (h : Held) : Prop := ∀ x ∈ h.entries, x.null = true
      let released (h : Held) : Prop := Writes c h (refAt j 4) (stateCode 1) ∧ Writes c h (refAt j 5) 0x2000
        ∧ Writes c h (refAt j 6) (stateCode 1) ∧ Writes c h (refAt own 2) (i + 1)
      (legal slots → st ≠ stateCode 7 → Evaluates (exec (.rrel l off first own slots) s) s l p r none')
      ∧ (legal [j] → Target s p j → st = stateCode 7 → i = first.toNat → i + 1 = n → refMode j = 0 → Holds s l p r j (stateCode 1) →
          Holds s l p r (refAt j 6) (stateCode 3) →
          Evaluates (exec (.rrel l off first own [j]) s) s l p r fun h => released h ∧ Writes c h own (stateCode 1))
      ∧ (legal [j, nxt] → Target s p j → Target s p nxt → st = stateCode 7 → i = first.toNat → i + 1 ≠ n → i + 1 < 2 ^ 32 → refMode j = 0 →
          refMode nxt = 1 → refBare j ≠ refBare nxt → Holds s l p r j (stateCode 1) → Holds s l p r nxt (stateCode 3) →
          Holds s l p r (refAt j 6) (stateCode 3) →
          Evaluates (exec (.rrel l off first own [j, nxt]) s) s l p r fun h => released h ∧ ∀ x ∈ h.entries, x.ref = refBare own → x.null = true)
      ∧ (legal [j] → Target s p j → st = stateCode 7 → i = first.toNat → i + 1 ≠ n → refMode j = 0 → Holds s l p r j (stateCode 1) →
          Holds s l p r (refAt j 6) (stateCode 3) → Evaluates (exec (.rrel l off first own [j]) s) s l p r none'))

/-- TMR and EDGE (R128, R130): a timer that stands idle is loaded, runs down by the task period and expires; a condition that is FALSE
idles it. An edge is what the mode of the memory word asks for, and the memory word always takes the source's value. CARRY writes
each word of its records again with its value, SEAL writes nothing and folds its slots in order, scratch words apart, a skip is
taken or not by its condition, and END writes nothing (R131 to R135). An END that the words in DRAM do not spell changes nothing
(log entry 18). -/
def Obligations.TimersEdgesAndControl : Prop :=
  (∀ (s : State) (l : Lane) (p : Pass) (r : Run) (off : Nat) (imm : BitVec 20) (dst x mem : Ref) (run : Bool) (st rem cur prev : Nat),
      Oldest s l p r off → Target s p dst →
      let c := s.seen l p r
      let trem := refAt dst (refWord dst + 1)
      let per := c.period
      let timer (h : Held) (state left : Nat) : Prop :=
        entry c dst (c.bd dst imm.toNat) state ∈ h.entries ∧ Writes c h trem left
      let e := stateCode (refExp x)
      let edge (h : Held) (b : Prop) : Prop := Writes c h mem cur ∧ (b → entry c dst imm.toNat codeTrue ∈ h.entries)
        ∧ (¬ b → entry c dst imm.toNat codeFalse ∈ h.entries)
      (Stands s l p off { op := .tmr, imm := imm.toNat, dst := dst, slots := [x] } → Holds s l p r x (boolCode run) →
        Holds s l p r dst st → Holds s l p r trem rem →
        (run = false → Evaluates (exec (.tmr l off imm dst x) s) s l p r fun h => timer h (stateCode 1) 0)
        ∧ (run = true → st = stateCode 1 → Evaluates (exec (.tmr l off imm dst x) s) s l p r fun h =>
            timer h (if imm.toNat = 0 then stateCode 4 else stateCode 3) imm.toNat)
        ∧ (run = true → st = stateCode 3 → per < rem → Evaluates (exec (.tmr l off imm dst x) s) s l p r fun h =>
            Writes c h trem (rem - per) ∧ ∀ y ∈ h.entries, y.ref = dst → y.null = true)
        ∧ (run = true → st = stateCode 3 → rem ≤ per → Evaluates (exec (.tmr l off imm dst x) s) s l p r fun h =>
            timer h (stateCode 4) 0)
        ∧ (run = true → st = stateCode 4 → Evaluates (exec (.tmr l off imm dst x) s) s l p r fun h => ∀ y ∈ h.entries, y.null = true))
      ∧ (Stands s l p off { op := .edge, imm := imm.toNat, dst := dst, slots := [x, mem] } → Holds s l p r x cur →
        Holds s l p r mem prev → Evaluates (exec (.edge l off imm dst x mem) s) s l p r fun h =>
          (refMode mem = 1 → edge h (cur = e ∧ prev ≠ e)) ∧ (refMode mem = 2 → edge h (prev = e ∧ cur ≠ e))
          ∧ (refMode mem = 3 → edge h ((cur = e) ≠ (prev = e))) ∧ (refMode mem = 4 → edge h (cur ≠ prev))))
  ∧ (∀ (s : State) (l : Lane) (p : Pass) (r : Run) (off : Nat) (count : BitVec 20) (slots : List Ref) (cond : Ref) (b : Bool)
      (v : Ref → Nat) (f : FootRec), Oldest s l p r off →
      let c := s.seen l p r
      let img := s.taskImg p.desc.task
      (Stands s l p off { op := .carry, imm := 0, dst := 0, slots := slots } → f ∈ img.footprint →
        (∀ q ∈ slots, footRec img q = some f) → (∀ w ∈ footWords f, isScratch img w = false → Holds s l p r w (v w)) →
        Evaluates (exec (.carry l off slots) s) s l p r fun h =>
          ∀ w ∈ footWords f, isScratch img w = false → Writes c h w (v w))
      ∧ (Stands s l p off { op := .seal, imm := 0, dst := 0, slots := slots } → (∀ q ∈ slots, Holds s l p r q (v q)) →
        Evaluates (exec (.seal l off slots) s) s l p r fun h => h.entries = []
          ∧ h.folds = (slots.filter fun q => refTemp q || !isScratch img q).map fun q => (refBare q, v q))
      ∧ (Stands s l p off { op := .skipf, imm := count.toNat, dst := 0, slots := [cond] } → Holds s l p r cond (boolCode b) →
        Evaluates (exec (.skipf l off count cond) s) s l p r fun h => h.entries = [] ∧ h.taken = !b ∧ h.target = off + 2 + count.toNat)
      ∧ (Stands s l p off { op := .skipt, imm := count.toNat, dst := 0, slots := [cond] } → Holds s l p r cond (boolCode b) →
        Evaluates (exec (.skipt l off count cond) s) s l p r fun h => h.entries = [] ∧ h.taken = b ∧ h.target = off + 2 + count.toNat)
      ∧ (Stands s l p off { op := .endp, imm := 0, dst := 0, slots := [] } →
        Evaluates (exec (.endPass l off) s) s l p r fun h => h.entries = [] ∧ h.ins.op = .endp))
  ∧ (∀ (s : State) (l : Lane) (p : Pass) (r : Run) (off : Nat), Oldest s l p r off → s.spells l p off { op := .endp, imm := 0, dst := 0, slots := [] } = false →
      exec (.endPass l off) s = .next s)

/-! ## Lanes, links and the vote (chapters 01, 05 and 06) -/

/-- XLE heartbeats, links and records (R21, R240, R249, R251): a lane declares a silent one absent, two declarations make it
absent for the module; a link with one declaration is down at both ends and named; a damaged record is counted, and the third in
a row takes the link down. -/
def Obligations.LaneAbsenceAndLinks : Prop :=
  ∀ (s : State) (l v : Lane), s.Inv → l ≠ v →
    let own (x y : Lane) : Prop := bit (s.rd x R.XLE_STAT_ABS_OWN) y.bit = true
    let n := mapGet (fun _ => 0) (s.lane l).chkFails v.code
    ((s.lane l).running = true → Kept (exec (.xleHeartbeatTimeout l v) s) s fun t =>
      bit (t.rd l R.XLE_STAT_ABS_OWN) v.bit = true ∧ ((∃ w, w ≠ l ∧ own w v) → bit (t.rdM R.XLE_STAT_ABS_MOD) v.bit = true))
    ∧ (own l v ∨ own v l → (∀ w, w ≠ l → w ≠ v → ¬ own w l ∧ ¬ own w v) → Kept (exec (.xleLinkDown l v) s) s fun t =>
      t.rd l (upField l v) = 0 ∧ t.rd v (upField v l) = 0 ∧ ∀ x, bit (t.laneReg x R.CMP_MISMATCH).toNat srcLink = true)
    ∧ ((s.lane l).running = true → n < 2 → Kept (exec (.xleRecordReceived l v true) s) s fun t =>
      t.rd l R.XLE_STAT_CRCERR = satAdd (s.rd l R.XLE_STAT_CRCERR) 1 R.XLE_STAT_CRCERR.max)
    ∧ ((s.lane l).running = true → 2 ≤ n → Kept (exec (.xleRecordReceived l v true) s) s fun t => t.rd l (upField l v) = 0)
    ∧ ((s.lane l).running = true → Kept (exec (.xleRecordReceived l v false) s) s fun t =>
      t.rd l R.XLE_STAT_CRCERR = s.rd l R.XLE_STAT_CRCERR ∧ t.rd l (upField l v) = s.rd l (upField l v))

/-- The tables of R243 and R244: what three outcomes give, in whatever order, and what two give. -/
def Obligations.VoteTables : Prop :=
  (∀ (x y z : SealOutcome) (v : Word),
      let d := decideTask [(.a, x), (.b, y), (.c, z)]
      let all := [(Lane.a, x), (Lane.b, y), (Lane.c, z)]
      let failed := all.filter fun o => match o.2 with | .failed _ => true | _ => false
      let values := valuesOf all
      ((∀ o ∈ all, o.2 = .value v) → d = ⟨voUnanimous, some v, []⟩)
      ∧ (∀ o ∈ all, o.2 ≠ .value v → (∀ q ∈ all, q.1 ≠ o.1 → q.2 = .value v) → d = ⟨voMajority, some v, [o.1]⟩)
      ∧ (2 ≤ values.length → (values.map (·.2)).Nodup → d = ⟨voFailure, none, []⟩)
      ∧ (2 ≤ failed.length → d = ⟨voFailure, none, []⟩)
      ∧ (values.length ≤ 1 → failed.length ≤ 1 → d = ⟨voNone, none, failed.map (·.1)⟩))
  ∧ (∀ (l m : Lane) (x y : SealOutcome),
      let d := decideTask [(l, x), (m, y)]
      let late (o : SealOutcome) : Prop := o = .late
      let fails (o : SealOutcome) : Prop := ∃ c, o = .failed c
      (∀ v, x = .value v → y = .value v → d = ⟨voAgreement, some v, []⟩)
      ∧ (∀ v w, x = .value v → y = .value w → v ≠ w → d = ⟨voFailure, none, []⟩)
      ∧ (fails x ∨ fails y → d = ⟨voFailure, none, []⟩)
      ∧ ((late x ∧ ¬ fails y) ∨ (late y ∧ ¬ fails x) → d = ⟨voNone, none, []⟩))

/-- SEAL_DEADLINE and VOTE (R191, R243, R246): the close marker fixes which records count; equal seals from every lane decide a task
without naming anyone; a lane that differs from the other two is named SEAL. OUTCOME_RECORD (R245): equal records name nobody; a
lane whose record is missing is named OUTCOME, and one that alone requests SAFE is named for that (R248). -/
def Obligations.SealsAndVote : Prop :=
  (∀ (s : State) (l : Lane) (v : Nat → Word), s.Inv →
      let sends (x : Lane) (k : Nat) (w : Word) : Prop :=
        ((s.lane x).task k).counted = true ∧ ∃ n, ((s.lane x).task k).sent = some (0, w, n)
      let open' : Prop := s.cyc.active = true ∧ s.cyc.kind = .normal ∧ s.did phPost = true ∧ s.did phVote = false
        ∧ (∀ x ∈ s.voters, (s.lane x).closed = true) ∧ s.overReady = [] ∧ s.probation = none ∧ ∀ x, (s.lane x).inject = none
      (s.cyc.active = true → (s.lane l).running = true → (s.lane l).closed = false → Spared (exec (.sealDeadline l) s) s fun t =>
        (t.lane l).closed = true ∧ ∀ k, k < 16 → ((s.lane l).task k).ovr = false →
          ((t.lane l).task k).counted = ((s.lane l).task k).sent.isSome)
      ∧ (open' → 2 ≤ s.voters.length → (∀ k ∈ s.dueTasks, ∀ x ∈ s.voters, sends x k (v k)) →
        Kept (exec (.vote 0) s) s fun t => t.vset = s.vset ∧ t.cyc.named = s.cyc.named ∧ t.did phVote = true
          ∧ ∀ k : Fin 16, k.val ∈ s.dueTasks → bit t.cyc.voted k = true ∧ t.cyc.vseal[k] = v k)
      ∧ (∀ (k : Fin 16) (w : Word), open' → s.vset = 7 → s.dueTasks = [k.val] → w ≠ v k →
        (∀ x, x ≠ l → sends x k (v k)) → sends l k w →
        Kept (exec (.vote 0) s) s fun t => bit t.cyc.voted k = true ∧ t.cyc.vseal[k] = v k
          ∧ ∀ x, bit (t.laneReg x R.CMP_MISMATCH).toNat srcSeal = true ∧ bit (t.laneReg x R.CMP_MISMATCH).toNat l.bit = true))
  ∧ (∀ (s : State) (l : Lane), s.Inv → Turn s [phVote] phOutcome → s.probation = none → (∀ x, (s.lane x).inject = none) →
      (2 ≤ s.voters.length → (∀ x ∈ s.voters, ∀ y ∈ s.voters, s.rd x R.CMP_VOTE_VIEW = s.rd y R.CMP_VOTE_VIEW) →
        Kept (exec (.outcomeRecord 0 ⟨0, 0, 0⟩) s) s fun t => t.vset = s.vset ∧ t.cyc.named = s.cyc.named ∧ t.did phOutcome = true
          ∧ ∀ x, t.laneReg x R.CMP_MISMATCH = s.laneReg x R.CMP_MISMATCH)
      ∧ (s.vset = 7 → Kept (exec (.outcomeRecord l.mask ⟨0, 0, 0⟩) s) s fun t =>
        ∀ x, bit (t.laneReg x R.CMP_MISMATCH).toNat srcOutcome = true ∧ bit (t.laneReg x R.CMP_MISMATCH).toNat l.bit = true)
      ∧ (s.vset = 7 → s.safe = false → Kept (exec (.outcomeRecord 0 ((⟨0, 0, 0⟩ : PerLane Nat).set l 0x100)) s) s fun t =>
        ∀ x, bit (t.laneReg x R.CMP_MISMATCH).toNat srcSafeReq = true ∧ bit (t.laneReg x R.CMP_MISMATCH).toNat l.bit = true))

/-! ## DRAM grants, locks and claims (chapter 16) -/

/-- DRAM grants and cut-offs (R558, R559, R563 to R565, R561): the free channel is granted, a higher priority revokes the
holder's grant, any other request waits; a holder that does not release is cut off and the channel passes on; the engine's cut-off ends
the running pass with status 6, its window squashed and counted; a pass that ends gives the channel up; ARB_PRIO takes only a legal order of priorities. -/
def Obligations.DramGrantsAndCutOffs : Prop :=
  ∀ (s : State) (l : Lane) (r : Requester) (urgent : Bool) (c : CoreId) (v : Word), s.Inv →
    let g := exec (.grantRevocation l r urgent) s
    let x := s.lane l
    let ended (t : State) (p : Pass) : Prop := (t.eng l).results = (s.eng l).results ++ [(p.ticket, 6)]
      ∧ (t.eng l).queue = (s.eng l).queue.filter fun q => q.ticket != p.ticket
    (x.running = true → x.grant = none → x.revoked = none → Spared g s fun t => (t.lane l).grant = some r ∧ (t.lane l).revoked = none)
    ∧ (∀ h, x.running = true → x.grant = some h → x.revoked = none →
        let higher := s.dramPrio l h (s.rd l R.MEM_SCRUB_STAT_URGENT = 1) < s.dramPrio l r urgent
        (higher → Spared g s fun t => (t.lane l).grant = some h ∧ (t.lane l).revoked = some r)
        ∧ (¬ higher → Spared g s fun t => (t.lane l).grant = some h ∧ (t.lane l).revoked = none ∧ (r, urgent) ∈ (t.lane l).waiting))
    ∧ (∀ h q, x.grant = some h → x.revoked = some q → q ≠ h → Kept (exec (.dramCutOff l) s) s fun t =>
        (t.lane l).grant = some q ∧ (t.lane l).revoked = none ∧ bit (t.rd l R.ARB_FLAG_CUT) (requesterBit h) = true
          ∧ (∀ p u, h = .engine → (s.eng l).running = some (p, u) → ended t p)
          ∧ (h = .core1 → x.core1.exl = false → (t.lane l).core1.pc = x.core1.kvec ∧ (t.lane l).core1.epc = x.core1.pc
            ∧ (t.lane l).core1.ecause = BitVec.ofNat 64 exDataBus))
    ∧ (∀ p u, (s.eng l).running = some (p, u) → Kept (exec (.engineCutOff l) s) s fun t =>
        ended t p ∧ bit (t.rd l R.ARB_FLAG_CUT) 0 = true ∧ t.rd l R.RTE_SQUASH_CNT_SQUASHED =
          satAdd (s.rd l R.RTE_SQUASH_CNT_SQUASHED) u.window.length R.RTE_SQUASH_CNT_SQUASHED.max)
    ∧ (x.grant = some .engine → x.revoked = none → x.waiting = [] → ∀ p u, (s.eng l).running = some (p, u) →
        Kept (exec (.engineCheckFailure l none) s) s fun t => (t.lane l).grant = none)
    ∧ (Allowed s l c R.ARB_PRIO true → setsReserved R.ARB_PRIO v = false →
        let scrubN := R.ARB_PRIO_SCRUB_N.of v
        let engine := R.ARB_PRIO_ENGINE.of v
        let scrubU := R.ARB_PRIO_SCRUB_U.of v
        let legal : Prop := [R.ARB_PRIO_MAC.of v, R.ARB_PRIO_XLE.of v, scrubU, R.ARB_PRIO_CORE0.of v, engine, R.ARB_PRIO_CORE1.of v,
          scrubN].Nodup ∧ scrubN < engine ∧ engine < scrubU
        (legal → Spared (exec (.arbPrioWrite l c v) s) s fun t => t.laneReg l R.ARB_PRIO = v)
        ∧ (¬ legal → Spared (exec (.arbPrioWrite l c v) s) s fun t => t.laneReg l R.ARB_PRIO = s.laneReg l R.ARB_PRIO))

/-- The hardware locks (R567 to R571): who may take, give up, renew, hand over and recover a lock, and what an expired lease leaves; a
refused operation changes nothing of the lock. Claims (R573 to R575, R577): a resource that no feature holds is granted, one that
another holds is not, and a release frees it. -/
def Obligations.LocksAndClaims : Prop :=
  (∀ (s : State) (l : Lane) (c : CoreId) (n lease ticket : Nat), s.Inv → n < 64 → lease < 2 ^ 16 → ticket < 2 ^ 16 →
      let owner := s.rd l (R.SEM_LOCK_OWNER n)
      let dirty := s.rd l (R.SEM_LOCK_DIRTY n)
      let may := s.ownsLock l c n = true
      let held := (s.eng l).queue.any fun p => decide (bits p.ticket.toNat 63 48 = ticket)
      let is (t : State) (o d left : Nat) : Prop :=
        t.rd l (R.SEM_LOCK_OWNER n) = o ∧ t.rd l (R.SEM_LOCK_DIRTY n) = d ∧ t.rd l (R.SEM_LOCK_LEFT n) = left
      let same (t : State) : Prop := t.laneReg l (R.SEM_LOCK n) = s.laneReg l (R.SEM_LOCK n)
      (Allowed s l c (R.SEM_LOCK n) true →
        (owner = 0 → dirty = 0 → lease ≠ 0 → Spared (exec (.acquire l c n lease) s) s fun t =>
          is t (coreOwner c) 0 lease ∧ t.rd l (R.SEM_LOCK_LVL n) = lockLvl (s.core l c))
        ∧ (owner ≠ 0 ∨ dirty = 1 ∨ lease = 0 → Spared (exec (.acquire l c n lease) s) s same)
        ∧ (may → Spared (exec (.release l c n) s) s fun t => is t 0 dirty 0)
        ∧ (¬ may → owner ≠ 4 → Spared (exec (.release l c n) s) s same)
        ∧ (may → lease ≠ 0 → Spared (exec (.renew l c n lease) s) s fun t => is t owner dirty lease)
        ∧ (¬ may → Spared (exec (.renew l c n lease) s) s same ∧ Spared (exec (.hand l c n ticket lease) s) s same)
        ∧ (may → dirty = 0 → lease ≠ 0 → held = true → Spared (exec (.hand l c n ticket lease) s) s fun t =>
          is t 3 0 lease ∧ t.rd l (R.SEM_LOCK_TICKET n) = ticket)
        ∧ ((s.core l c).level = .k → dirty = 1 → owner = 0 → Spared (exec (.recover l c n) s) s fun t => t.rd l (R.SEM_LOCK_OWNER n) = 4)
        ∧ ((s.core l c).level = .k → owner = 4 → Spared (exec (.release l c n) s) s fun t => is t 0 0 0)
        ∧ ((s.core l c).level ≠ .k → Spared (exec (.recover l c n) s) s same))
      ∧ (owner ≠ 0 → s.rd l (R.SEM_LOCK_LEFT n) ≠ 0 → s.mode ≠ mHalted → Spared (exec (.leaseExpiry l n) s) s fun t => is t 0 1 0))
  ∧ (∀ (s : State) (l : Lane) (c : CoreId) (q : ClaimReq), s.Inv → Allowed s l c R.SEM_CLAIM true →
      q.feature < 256 → q.resource < 2 ^ 16 → q.first < 2 ^ 12 → q.last < 2 ^ 12 → q.resource ≠ resBuffer → q.feature ≠ 10 →
      let rows := (s.lane l).claims
      let row : ClaimRow := { feature := q.feature, resource := q.resource, first := q.first, last := q.last, dflt := false }
      (mayClaim q.feature q.resource = true → s.fitted = true → rows.length < 64 → (∀ r ∈ rows, r.resource ≠ q.resource) →
        Spared (exec (.claim l c q) s) s fun t => t.rd l R.SEM_CLAIM_RESULT = 0 ∧ (t.lane l).claims = rows ++ [row])
      ∧ (mayClaim q.feature q.resource = true → s.fitted = true → (∃ r ∈ rows, r.resource = q.resource) →
        (∀ r ∈ rows, r.resource = q.resource → r.feature ≠ q.feature ∧ r.dflt = false) →
        Spared (exec (.claim l c q) s) s fun t => t.rd l R.SEM_CLAIM_RESULT = 1 ∧ (t.lane l).claims = rows)
      ∧ (mayClaim q.feature q.resource = false → Spared (exec (.claim l c q) s) s fun t =>
        t.rd l R.SEM_CLAIM_RESULT = 5 ∧ (t.lane l).claims = rows)
      ∧ (q.resource ≠ resPps → (∃ r ∈ rows, r.feature = q.feature ∧ r.resource = q.resource) →
        Spared (exec (.claimRelease l c q) s) s fun t => t.rd l R.SEM_CLAIM_RESULT = 0
          ∧ (t.lane l).claims = rows.filter fun r => !(r.feature == q.feature && r.resource == q.resource))
      ∧ (mayClaim q.feature q.resource = true → (∀ r ∈ rows, ¬ (r.feature = q.feature ∧ r.resource = q.resource)) →
        Spared (exec (.claimRelease l c q) s) s fun t => t.rd l R.SEM_CLAIM_RESULT = 6 ∧ (t.lane l).claims = rows))

/-! ## Field interface (chapter 12) -/

/-- Isolation links (R430 to R436, R439, R453): a downlink frame carries valid check values, the counts, the enables and REQ; a
lane enable write touches the cells of its mask; a controller obeys a good frame and no other; uplink frames and lost links. A
CB-TX3-N (R2, R425) drives no link, has no controller, and takes no write of the FIO registers. -/
def Obligations.FieldLinks : Prop :=
  (∀ (s : State) (l : Lane) (c : CoreId) (v : Word) (frame : BitVec 128) (mids : List Mid) (inst input : Nat) (value : Tri),
    s.fitted = false →
    (∃ t, exec .downlinkFrameSend s = .next t ∧ t.field.down = .all none)
    ∧ (Allowed s l c R.FIO_LEN true → setsReserved R.FIO_LEN v = false → ∃ t, exec (.laneEnableWrite l c v) s = .next t
      ∧ t.laneReg l R.FIO_LEN = s.laneReg l R.FIO_LEN)
    ∧ exec (.downlinkFrameReceived l frame mids) s = .next s ∧ exec (.configFrameReceived l frame) s = .next s
    ∧ exec (.uplinkFrameReceived l frame inst) s = .next s ∧ exec (.controllerLinkWatchdog l) s = .next s
    ∧ exec (.controllerSupplyLoss l) s = .next s ∧ exec (.inputDebounced l input value) s = .next s)
  ∧ ∀ (s : State) (l : Lane) (c : CoreId) (v : Word) (frame : BitVec 128) (mids : List Mid) (inst input : Nat) (value : Tri),
    s.Inv → s.fitted = true →
    let n := frame.toNat
    let x := s.field.ctrl.get l
    let open' (t : State) : Prop := ∀ k j, (t.field.ctrl.get l).closes k j = false
    (s.dom 6 = 2 → s.dom (laneDom l) = 2 → Spared (exec .downlinkFrameSend s) s fun t =>
      t.field.fseq = (s.field.fseq + 1) % 64 ∧ ∃ f, t.field.down.get l = some f ∧ downValid f.toNat = true
        ∧ downSeq f.toNat = (t.field.fseq, (s.field.lseq.get l + 1) % 256) ∧ bits f.toNat 74 48 = s.laneEn l
        ∧ bit f.toNat 113 = s.power.safe6 ∧ (s.field.cfgOut = [] → bits f.toNat 101 75 = s.frameReq % 2 ^ 27))
    ∧ (Allowed s l c R.FIO_LEN true → setsReserved R.FIO_LEN v = false →
      (R.FIO_LEN_COMASK.of v = 0 ∨ (s.core l c).level = .k → Spared (exec (.laneEnableWrite l c v) s) s fun t =>
        ∀ i, i < 27 → bit (t.laneEn l) i = if bit v.toNat (32 + i) then bit v.toNat i else bit (s.laneEn l) i)
      ∧ (R.FIO_LEN_COMASK.of v ≠ 0 → (s.core l c).level ≠ .k → Spared (exec (.laneEnableWrite l c v) s) s fun t =>
        t.laneReg l R.FIO_LEN = s.laneReg l R.FIO_LEN))
    ∧ (bits n 127 120 ≠ 0xC3 →
      ((x.judge n).2 = true → Spared (exec (.downlinkFrameReceived l frame mids) s) s fun t =>
        let y := t.field.ctrl.get l
        y.req = bits n 101 75 ∧ y.en = bits n 74 48 ∧ y.safe = bit n 113 ∧ y.last = some (downSeq n) ∧ y.uplink.isSome = true)
      ∧ ((x.judge n).2 = false → Spared (exec (.downlinkFrameReceived l frame mids) s) s fun t =>
        let y := t.field.ctrl.get l
        y.req = x.req ∧ y.en = x.en ∧ y.safe = x.safe ∧ y.last = x.last ∧ y.uplink = x.uplink))
    ∧ (bits n 127 120 = 0xC3 → (x.judge n).2 = true → bits n 101 96 < 48 → mapWf cfgReset x.cfg = true →
      Spared (exec (.configFrameReceived l frame) s) s fun t =>
        let y := t.field.ctrl.get l
        mapGet cfgReset y.cfg (bits n 101 96) = bits n 95 79 ∧ y.req = x.req ∧ y.en = x.en ∧ y.safe = x.safe)
    ∧ (s.dom (laneDom l) = 2 →
      (∀ d, bits n 127 120 = 0x5A → bits n 15 0 = frameCrc n → s.field.down.get l = some d →
        bits d.toNat 119 114 = bits n 119 114 → bits n 113 112 < 3 → Spared (exec (.uplinkFrameReceived l frame inst) s) s fun t =>
          t.rd l R.FIO_LINK_UP = 1
            ∧ (t.lane l).samples.head? = some { page := bits n 113 112, data := bits n 111 16, inst := inst })
      ∧ (bits n 15 0 ≠ frameCrc n → Spared (exec (.uplinkFrameReceived l frame inst) s) s fun t =>
        t.rd l R.FIO_LINK_CRC_ERR = satAdd (s.rd l R.FIO_LINK_CRC_ERR) 1 R.FIO_LINK_CRC_ERR.max
          ∧ (t.lane l).samples = (s.lane l).samples))
    ∧ Spared (exec (.controllerLinkWatchdog l) s) s (fun t => open' t ∧ t.rd l R.FIO_LINK_UP = 0
      ∧ t.rd l R.FIO_IN_UNK_UNK = 2 ^ 48 - 1)
    ∧ Spared (exec (.controllerSupplyLoss l) s) s (fun t => open' t ∧ t.rd l R.FIO_LINK_UP = 0)
    ∧ Spared (exec (.inputDebounced l input value) s) s (fun t => (t.field.ctrl.get l).vals = x.vals.set input value
      ∧ ∀ k j, (t.field.ctrl.get l).closes k j = x.closes k j)

/-- The field supply, current limits and test pulses (R429, R438, R442, R443, R450 to R452). A voltage beyond the absolute
maximum ratings (R581) is a fault. The result of a dark pulse counts at its dark-end frame (R445; log entry 178). -/
def Obligations.FieldSupplyAndPulses : Prop :=
  ∀ (s : State) (l : Lane) (vf : Int) (cell branch group : Nat) (levels : PerLane Mid), s.Inv → s.fitted = true →
    let x := s.field.ctrl.get l
    let ctrl (t : State) : Ctrl := t.field.ctrl.get l
    (vfBeyond vf = true → exec (.fieldSupplyUnknown l vf) s = .fault .absoluteMaximum
      ∧ exec (.fieldSupplyRecovered l vf) s = .fault .absoluteMaximum ∧ exec (.sagLatchSet l vf) s = .fault .absoluteMaximum
      ∧ exec (.sagLatchRelease l vf) s = .fault .absoluteMaximum)
    ∧ (vfBeyond vf = false →
      (vf < 192 ∨ 300 < vf → Spared (exec (.fieldSupplyUnknown l vf) s) s fun t => (ctrl t).unknown = true)
      ∧ (x.vf < 192 → 194 ≤ vf → vf ≤ 300 → Spared (exec (.fieldSupplyRecovered l vf) s) s fun t => (ctrl t).unknown = false)
      ∧ (300 < x.vf → 192 ≤ vf → vf ≤ 298 → Spared (exec (.fieldSupplyRecovered l vf) s) s fun t => (ctrl t).unknown = false)
      ∧ (vf < 160 ∨ 360 < vf → Spared (exec (.sagLatchSet l vf) s) s fun t => (ctrl t).sag = true ∧ ∀ k j, (ctrl t).closes k j = false)
      ∧ (192 ≤ vf → vf ≤ 300 → Spared (exec (.sagLatchRelease l vf) s) s fun t => (ctrl t).sag = false))
    ∧ (cell < 27 → branch < 3 → ownsBranch l branch = true → bit x.req cell = true → x.light = none →
      Spared (exec (.currentLimitTrip l cell branch) s) s fun t => ∀ j, j / 2 = branch → (ctrl t).closes cell j = false)
    ∧ (s.rdM R.FIO_PULSE_EN = 1 → s.field.pulse = none → s.dom 6 = 2 → s.safe = false →
      (∀ m, bit (s.field.ctrl.get m).vg (groupOf (s.field.next % 27)) = true) → Spared (exec .testPulseStart s) s fun t =>
        t.field.pulse = some (bit s.outReq (s.field.next % 27), s.field.next % 27, s.field.next / 27, false)
          ∧ t.field.next = (s.field.next + 1) % 162 ∧ t.rdM R.FIO_OUT_STAT_PULSING = 1)
    ∧ (∀ k j, s.field.pulse = some (true, k, j, false) → Spared (exec (.pulseEvaluation levels) s) s fun t =>
        (ctrl t).pend = some (k, j / 2, decide (levels.get l ≠ .mid)) ∧ (ctrl t).faults = x.faults)
    ∧ (∀ (k b : Nat) (bad : Bool) (frame : BitVec 128) (mids : List Mid),
        let n := frame.toNat
        k < 27 → b < 3 → x.pend = some (k, b, bad) → bits n 127 120 ≠ 0xC3 → (x.judge n).2 = true → bits n 111 110 = 3 →
        bit n 113 = false → bit (bits n 101 75) k = true → Spared (exec (.downlinkFrameReceived l frame mids) s) s fun t =>
          bit (ctrl t).faults (3 * (3 * k + b)) = bad ∧ (ctrl t).pend = none)
    ∧ (∀ k j, s.field.pulse = some (false, k, j, false) → Spared (exec (.pulseEvaluation levels) s) s fun t =>
        bit (ctrl t).faults (3 * (3 * k + j / 2) + (if j % 2 = 0 then 1 else 2))
          = decide (levels.get l ≠ if j % 2 = 0 then .high else .low))
    ∧ (∀ k j b, s.field.pulse = some (true, k, j, b) → Spared (exec .darkPulseEnd s) s fun t => t.field.darkEnd = true)
    ∧ (∀ k j b, s.field.pulse = some (false, k, j, b) → posOwner j = l → Spared (exec (.lightPulseEnd l) s) s fun t =>
        t.field.pulse = none ∧ t.field.withheld = none ∧ (ctrl t).light = none ∧ t.rdM R.FIO_OUT_STAT_PULSING = 0)
    ∧ (group < 3 → Spared (exec (.feedbackSettle group) s) s fun t => bit t.field.settled group = true)
    ∧ (s.power.safe1 = true → Spared (exec .d6SafeSwitchOff s) s fun t => t.dom 6 = 0 ∧ t.field.down = .all none)

/-! ## Sorting, agreement, posting and dispatch (chapters 05 and 11) -/

/-- The table of R201: the agreed value of a field input, whether it diverges, and whether the table makes it UNKNOWN. -/
def Obligations.InputAgreementTable : Prop :=
  ∀ (a b c prev : Tri),
    agreeTri [a, a, a] prev = (a, false, false)
    ∧ (a ≠ b → agreeTri [a, a, b] prev = (a, true, false) ∧ agreeTri [a, b, a] prev = (a, true, false)
        ∧ agreeTri [b, a, a] prev = (a, true, false))
    ∧ (a ≠ b → b ≠ c → a ≠ c → agreeTri [a, b, c] prev = (.unknown, true, true))
    ∧ agreeTri [a, a] prev = (a, false, false)
    ∧ (a ≠ b → a = prev ∨ b = prev → agreeTri [a, b] prev = (prev, true, false))
    ∧ (a ≠ b → a ≠ prev → b ≠ prev → agreeTri [a, b] prev = (.unknown, true, true))
    ∧ agreeTri [a] prev = (.unknown, false, true) ∧ agreeTri [] prev = (.unknown, false, true)

/-- The phases of sorting (R188, R197 to R201): boundary offsets are measured, the sender's test delay among them (R546), a gather set holds the frames between the two
boundaries, offsets are shown and force tables exchanged, the agreed set is what two lanes hold identically, and the field
inputs take their agreed values. A phase acts once in a round set. -/
def Obligations.Sorting : Prop :=
  ∀ (s : State) (l v : Lane) (offset : Int), s.Inv →
    (s.cyc.active = true → l ≠ v → (s.lane l).running = true → Spared (exec (.boundaryMarkerReceived l v offset) s) s fun t =>
      t.offsetOf l v = some (offset + s.rd v R.TST_DELAY_XLE))
    ∧ (Turn s [] (phGather l) → (s.lane l).running = true → s.cyc.kind ≠ .halted →
      Spared (exec (.gatherClose l) s) s fun t => t.did (phGather l) = true
        ∧ ∀ f, f ∈ (t.lane l).gather ↔ f ∈ (s.lane l).inbox ∧ s.cyc.bPrev ≤ f.postmark ∧ f.postmark < s.cyc.b)
    ∧ (Turn s (s.voters.map phGather) phSort → (∀ x ∈ s.voters, s.rd x R.TSK_FORCE_COUNT = 0) →
      Kept (exec .sortingExchange s) s fun t => t.did phSort = true ∧ t.cyc.forceRead = []
        ∧ ((s.lane l).running = true → t.rd l R.XLE_SKEW_OFF_LO = offsetField ((s.offsetOf l l.others.1).getD 0)))
    ∧ (Turn s [phSort] phCopy → Spared (exec .frameCopy s) s fun t => t.did phCopy = true
        ∧ (∀ f ∈ t.cyc.agreed, 2 ≤ (s.holders f).length ∧ ∃ x ∈ s.voters, f ∈ (s.lane x).gather)
        ∧ (∀ x ∈ s.voters, ∀ f ∈ (s.lane x).gather, 2 ≤ (s.holders f).length → ∃ g ∈ t.cyc.agreed, g.wan = f.wan ∧ g.digest = f.digest)
        ∧ ((s.lane l).running = true → (t.lane l).gather = t.cyc.agreed))
    ∧ (Turn s [phCopy] phAgree → s.cyc.kind ≠ .test → s.outOfStep = [] → (∀ x y, s.far x y = false) →
      Kept (exec .agreement s) s fun t => t.did phAgree = true
        ∧ ∀ i, i < nField → t.cyc.inputs.getD i .unknown = if s.fitted then (s.agreeInput i).1 else .unknown)
    ∧ (∀ ph before f, s.did ph = true → s.once before ph f = s)

/-- Held flags, posting and the dispatch start (R194, R207, R208, R215, R440): a due task is skipped when enough lanes still hold
a pass of it; a posting lane's control word holds DETECT in both codes; a fresh dispatch clears CONSEC and STALE, and every lane
of the vote set writes the same output word. FAILED cells and notices (R448, R449): CLR clears a FAILED cell at rest after two
clean evaluations, in COMMISSIONING; the twin's notice of this round set gives the groups that are cut off by notice. -/
def Obligations.PostingDispatchAndCells : Prop :=
  (∀ (s : State) (l : Lane), s.Inv →
      let need := if s.voters.length < 3 then 1 else 2
      (Turn s [phAgree] phHeld → s.runs = true → Kept (exec .heldFlag s) s fun t => t.did phHeld = true
          ∧ ∀ k, k < 16 → bit t.cyc.skipped k = (bit s.due k && decide (need ≤ (s.voters.filter fun x => s.holdsPass x k).length)))
      ∧ (∀ k, Turn s [phHeld] phPost → s.runs = true → s.dueTasks = [k] → l ∈ s.postingLanes → (l.code, k) ∉ s.cyc.heldFlags →
          (s.eng l).areas = [] →
          let img := s.taskImg k
          let w := mkRef 0 img.control 2
          let a := img.stateBase + refOffset w
          let n := boolCode (bit s.cyc.firstRun k && !s.cyc.afterHalt)
          Kept (exec .inputPosting s) s fun t => t.did phPost = true ∧ (t.lane l).data a = n
            ∧ (t.lane l).data (a + 8) = (encodeWord (s.codingA l) n (sigB img w) (s.rd l (R.RTE_DPREV_DPREV k))).toNat)
      ∧ (Turn s [phOutcome] phDispatch → s.cyc.kind = .normal → s.safe = false → s.cyc.third = 0 →
          s.fitted = true → Kept (exec .dispatchStart s) s fun t => t.did phDispatch = true
            ∧ (∀ k ∈ s.freshTasks, t.consec k = 0 ∧ bit (t.rdM R.TSK_OVR_STALE) k = false ∧ bit (t.rdM R.TSK_STAT_FRESH) k = true)
            ∧ ∃ w, ∀ x ∈ s.voters, assoc (t.lane x).pend R.FIO_OUT_REQ = some w))
  ∧ (∀ (s : State) (l : Lane) (c : CoreId) (cell groups : Nat), s.Inv → s.fitted = true →
      (cell < 24 → Allowed s l c (fioCellAddr cell) true → s.mode = mCommissioning → s.cellFailed cell = true → s.atRest cell = true →
        mapGet (fun _ => 0) s.field.clean cell = 2 → Spared (exec (.cellClear l c cell) s) s fun t =>
          t.cellFailed cell = false ∧ t.rdM (R.FIO_CELL_CAUSE cell) = 0)
      ∧ (cell < 24 → Allowed s l c (fioCellAddr cell) true → s.mode ≠ mCommissioning →
        Spared (exec (.cellClear l c cell) s) s fun t => t.cellFailed cell = s.cellFailed cell)
      ∧ (s.paired = true → Spared (exec (.cutOffNotice s.k groups true) s) s fun t =>
        ∀ g, g < 3 → bit t.field.cutNotice g = bit groups g)
      ∧ (s.paired = true → Spared (exec (.cutOffNotice s.k groups false) s) s fun t => t.field.cutNotice = s.field.cutNotice))

/-! ## Denras (chapters 08 and 09) -/

/-- The guardian of an ACTIVE ROOT core (R315 to R319, R323, R328, R330): an accepted frame is forwarded on every enabled port, delivered
to the lanes, and clears the count of violations; a violation is not forwarded (one found at the frame's end goes out ended by an
error), is counted with its cause, and the third in a row blocks the port; a COLD frame makes a listening core ACTIVE; claims come with
CLAIM frames and end after a release or by age. A full port buffer discards and counts (R24), nothing enters at port 0 from outside
(R301), and a TIER core delivers to the lanes no frame from below (R305). -/
def Obligations.StarGuardian : Prop :=
  ∀ (s : State) (ch : Chan) (port tSfd : Nat) (f : Frame) (endOk : Bool) (slot cause : Nat), s.Inv → 1 ≤ port → port ≤ 8 →
    let n := portN ch port
    let x := s.star ch
    let open' (st : Nat) : Prop := s.coreState ch = st ∧ s.coreRole ch = 1 ∧ s.rdM (R.STR_PORT_CTRL_EN n) = 1
      ∧ s.rdM (R.STR_BLOCK_CNT_BLOCKED n) = 0
    let at' := (tSfd : Int) - x.epoch
    let i := exec (.starFrameIngress ch port tSfd f endOk false) s
    let alone : Prop := s.coldTie ch port tSfd f = false ∧ (s.claimTie ch port tSfd f).isNone = true
    (open' 2 → alone → s.judge ch port at' f endOk = .accept slot → Spared i s fun t =>
        t.rdM (R.STR_BLOCK_CNT_CONSEC n) = 0
          ∧ (∃ y, (t.star ch).forwarded = x.forwarded ++ [y] ∧ y.slot = slot ∧ y.node = f.node ∧ y.ended = false
            ∧ y.ports = (List.range' 1 8).filter fun p => s.rdM (R.STR_PORT_CTRL_EN (portN ch p)) = 1)
          ∧ ∃ c, (t.star ch).inner = x.inner ++ [c] ∧ c.frame = f ∧ c.complete = true ∧ c.truncated = false
            ∧ ∀ l, (s.lane l).running = true → ((s.lane l).rx.get ch).length < 588 → (t.lane l).rx.get ch = (s.lane l).rx.get ch ++ [c])
    ∧ (open' 2 → alone → s.judge ch port at' f endOk = .violation slot cause → cause < 8 →
        Spared i s fun t => (cause ≠ 6 → (t.star ch).forwarded = x.forwarded)
          ∧ (cause = 6 → ∃ y, (t.star ch).forwarded = x.forwarded ++ [y] ∧ y.ended = true) ∧ t.rdM (R.STR_BLOCK_CNT_CAUSE n) = cause
          ∧ (2 ≤ s.rdM (R.STR_BLOCK_CNT_CONSEC n) → t.rdM (R.STR_BLOCK_CNT_BLOCKED n) = 1)
          ∧ (s.rdM (R.STR_BLOCK_CNT_CONSEC n) < 2 → t.rdM (R.STR_BLOCK_CNT_CONSEC n) = s.rdM (R.STR_BLOCK_CNT_CONSEC n) + 1
            ∧ t.rdM (R.STR_BLOCK_CNT_BLOCKED n) = 0))
    ∧ (open' 1 → f.kind = fkCold → s.rdM (R.STR_PORT_CTRL_CS n) = 1 → frameFormatOk ch f = true → f.slot = 0 →
        Spared (exec (.coldFrameAtListeningCore ch port tSfd f) s) s fun t => t.coreState ch = 2 ∧ (t.star ch).leader = f.node)
    ∧ (open' 2 → f.kind = fkClaim → alone → s.judge ch port at' f true = .accept slot → numAt f.payload 0 1 % 2 = 0 → (∀ c ∈ x.claims, c.slot ≠ slot) →
        Spared (exec (.posteRestanteClaim ch port tSfd f) s) s fun t =>
          (t.star ch).claims = x.claims ++ [{ slot := slot, port := port, node := f.node, idle := 0, released := false }])
    ∧ (open' 2 → f.kind = fkClaim → alone → s.judge ch port at' f true = .accept slot → numAt f.payload 0 1 % 2 = 1 →
        Spared (exec (.posteRestanteClaim ch port tSfd f) s) s fun t => ∀ c ∈ (t.star ch).claims, c.slot = slot → c.released = true)
    ∧ (Spared (exec (.starFrameIngress ch port tSfd f endOk true) s) s fun t => t.star ch = x
        ∧ t.rdM (R.STR_BLOCK_CNT_OVF n) = (s.rdM (R.STR_BLOCK_CNT_OVF n) + 1) % (R.STR_BLOCK_CNT_OVF n).max.succ)
    ∧ (∀ o, exec (.starFrameIngress ch 0 tSfd f endOk o) s = .next s)
    ∧ (s.coreState ch = 2 → s.coreRole ch = 2 → port ≠ s.upPort ch → alone → Spared i s fun t => (t.star ch).inner = x.inner)
    ∧ (s.coreState ch = 2 → s.coreRole ch = 2 → port = s.upPort ch → s.rdM (R.STR_PORT_CTRL_EN n) = 1 → Spared i s fun t =>
        ∃ y c, (t.star ch).forwarded = x.forwarded ++ [y] ∧ y.node = f.node ∧ port ∉ y.ports
          ∧ (t.star ch).inner = x.inner ++ [c] ∧ c.frame = f)
    ∧ (s.rdM (R.STR_BLOCK_CNT_BLOCKED n) = 1 → 8 ≤ s.rdM (R.STR_BLOCK_CNT_SILENT n) → Spared (exec (.portUnblock ch port) s) s fun t =>
        t.rdM (R.STR_BLOCK_CNT_BLOCKED n) = 0 ∧ t.rdM (R.STR_BLOCK_CNT_CONSEC n) = 0)
    ∧ ((∃ c ∈ x.claims, c.slot = slot ∧ 64 ≤ c.idle) → Spared (exec (.claimExpiry ch slot) s) s fun t =>
        (t.star ch).claims = x.claims.filter fun d => d.slot != slot)

/-- The protocol of the module (R320 to R322, R325, R327, R333): enabling, listening, cold start, integration, silence and
takeover. -/
def Obligations.NetworkProtocol : Prop :=
  ∀ (s : State) (l : Lane) (c : CoreId) (v : Word) (fx fy : Frame) (t0 e : Nat), s.Inv →
    let heard (x y : Option Frame) : Prop := s.coldOn .x = x ∧ s.coldOn .y = y
    let base := R.DNR_CTRL_LISTEN_BASE.of v
    let late (ch : Chan) : Prop := s.coreState ch = 2 ∧ 9 ≤ (s.star ch).noSync
    (Allowed s l c R.DNR_CTRL true → setsReserved R.DNR_CTRL v = false → Spared (exec (.protocolEnable l c v) s) s fun t =>
        t.rd l R.DNR_CTRL_LISTEN_BASE = (if 2 ≤ base ∧ base ≤ 20 then base else s.rd l R.DNR_CTRL_LISTEN_BASE)
          ∧ t.rd l R.DNR_CTRL_EN = (if R.DNR_CTRL_EN.of v = 1 ∧ s.rd l R.DNR_NODE_VALID = 0 then s.rd l R.DNR_CTRL_EN else R.DNR_CTRL_EN.of v)
          ∧ (t.dnrEnabled = true → s.dnr = dnOff → t.dnr = dnListen) ∧ (t.dnrEnabled = false → t.dnr = dnOff))
    ∧ (s.dnr = dnListen → heard (some fx) none → fx.kind = fkCold → Spared (exec .coldReceived s) s fun t =>
        t.dnr = if 1 ≤ s.net.heard then dnInteg else dnListen)
    ∧ (s.dnr = dnCold → fx.kind = fkCold → fy.kind = fkCold → fx.node ≠ s.nodeId → fy.node ≠ s.nodeId →
        heard (some fx) (some fy) → Spared (exec .coldReceived s) s fun t => t.dnr = dnInteg)
    ∧ (s.dnr = dnCold → heard none none → Spared (exec .coldReceived s) s fun t => t.dnr = dnSilent ∧ t.net.silent = 8)
    ∧ (s.dnr = dnListen → s.net.listen = some e → e ≤ t0 → Spared (exec (.listenTimeout t0) s) s fun t =>
        t.dnr = (if s.coldStartAllowed then dnCold else dnListen)
          ∧ (s.coldStartAllowed = true → t.round = 0 ∧ t.rdM R.DNR_SCHED_SEL_NOW = 0))
    ∧ (s.dnr = dnActive → 9 ≤ s.net.noSync.x → 9 ≤ s.net.noSync.y → 8 ≤ s.net.activeFor → Spared (exec .syncLoss s) s fun t =>
        t.dnr = dnSilent ∧ t.net.silent = 8 ∧ ∀ ch, late ch → t.coreState ch = 1)
    ∧ (s.dnr = dnSilent → s.net.silent = 0 → Spared (exec .silentTimeout s) s fun t => t.dnr = dnListen)
    ∧ (s.dnr = dnActive → s.rdM R.DNR_STAT_TWINSYNC = 1 → 2 ≤ s.net.slot0Empty → Spared (exec .leaderTakeover s) s fun t =>
        t.rdM R.DNR_STAT_LEADER = 1 ∧ t.rdM R.DNR_STAT_TWINSYNC = 0 ∧ t.rdM R.DNR_STAT_LEADER_ID = s.nodeId
          ∧ (s.rdM R.DNR_SCHED_SEL_CONF = 0 → t.rdM R.DNR_SCHED_SEL_PEND = 0))

/-- SYNC, MGMT and the start of a round (R327, R333, R334, R344, R353): what a member takes from the leader's frames as its core has
delivered them, and what every round start does, a confirmed change of schedule among it. -/
def Obligations.SyncAndRounds : Prop :=
  ∀ (s : State) (l : Lane) (ch : Chan) (k : RxCopy) (hits : List (Lane × BusHit)) (ticks : List (Lane × PmcTick)), s.Inv →
    s.dnr = dnActive →
    let f := k.frame
    let flags := numAt f.payload 4 1
    (s.heardOn ch (fun c => decide (c.frame.kind = fkSync) && decide (c.slot = 0) && decide (0 < 2)) = some k → f.slot = 0 →
      f.node ≠ s.nodeId → Spared (exec (.syncReceived ch 0) s) s fun t =>
        t.net.noSync.get ch = 0 ∧ t.rdM R.DNR_STAT_LEADER = 0 ∧ t.rdM R.DNR_STAT_LEADER_ID = f.node % 4096
          ∧ ((s.domainOf f).1 = 0 → (t.star ch).theta.1 = some ((k.postmark : Int) - s.expected ch f)))
    ∧ (s.heardOn ch (fun c => decide (c.frame.kind = fkMgmt)) = some k → s.rdM R.DNR_STAT_LEADER = 0 → s.rdM R.DNR_SCHED_SEL_CONF = 0 → bit flags 4 = true →
        Spared (exec (.mgmtReceived ch) s) s fun t => t.rdM R.DNR_STAT_LEADER_ID = numAt f.payload 0 2 % 4096
          ∧ t.rdM R.DNR_SCHED_SEL_PEND = 1 ∧ t.rdM R.DNR_SCHED_SEL_NEXT = bits flags 3 2
          ∧ t.rdM R.DNR_SCHED_SEL_SWITCH_ROUND = numAt f.payload 8 4 % 2 ^ 32 ∧ t.rdM R.DNR_SCHED_SEL_CONF = ofBool (bit flags 5))
    ∧ Spared (exec (.roundTick hits ticks) s) s (fun t => t.round = (s.round + 1) % 2 ^ 32 ∧ t.cyc.rounds = s.cyc.rounds + 1
        ∧ t.time.now = (s.time.now / 1000000 + 1) * 1000000
        ∧ ((s.lane l).running = true → ∀ c, bit (t.core l c).ipend.toNat 1 = true)
        ∧ (t.lane l).bus = (s.lane l).bus ++ (hits.filter fun h => h.1 == l).map (·.2)
        ∧ (t.star ch).forwarded = [] ∧ (t.star ch).inner = []
        ∧ (s.rdM R.DNR_STAT_LEADER = 0 → s.rdM R.DNR_SCHED_SEL_PEND = 1 → s.rdM R.DNR_SCHED_SEL_CONF = 1 →
          (s.round + 1) % 2 ^ 32 = s.rdM R.DNR_SCHED_SEL_SWITCH_ROUND →
          t.rdM R.DNR_SCHED_SEL_NOW = s.rdM R.DNR_SCHED_SEL_NEXT ∧ t.rdM R.DNR_SCHED_SEL_PEND = 0))

/-- Register commands of the network blocks (R329 to R331, R334, R342): schedule requests, slot claims, schedule tables and the
guardian stream. -/
def Obligations.NetworkRegisters : Prop :=
  ∀ (s : State) (l : Lane) (c : CoreId) (v : Word), s.Inv →
    let claim := s.rdM R.DNR_SLOT_CLAIM_STATE
    let n := s.rd l R.DNR_TBL_ADDR_SCHED
    let i := s.rd l R.DNR_TBL_ADDR_ENTRY
    let table (t : State) : List Word := tableOf (t.lane l).sched n
    (Allowed s l c R.DNR_SCHED_SEL true → setsReserved R.DNR_SCHED_SEL v = false → Spared (exec (.scheduleRequest l c v) s) s fun t =>
        t.rd l R.DNR_SCHED_SEL_REQ = R.DNR_SCHED_SEL_REQ.of v ∧ t.rd l R.DNR_SCHED_SEL_REQV = R.DNR_SCHED_SEL_REQV.of v)
    ∧ (Allowed s l c R.DNR_SLOT_CLAIM true →
      (claim ≠ 1 → claim ≠ 2 → (∀ k ks, s.net.freeSlots = k :: ks → Spared (exec (.slotClaimRequest l c) s) s fun t =>
          t.rdM R.DNR_SLOT_CLAIM_STATE = 1 ∧ t.rdM R.DNR_SLOT_CLAIM_SLOT = k % 1024)
        ∧ (s.net.freeSlots = [] → Spared (exec (.slotClaimRequest l c) s) s fun t => t.rdM R.DNR_SLOT_CLAIM_STATE = 3))
      ∧ (claim = 1 ∨ claim = 2 → Spared (exec (.slotClaimRequest l c) s) s fun t => t.modRegs = s.modRegs)
      ∧ Spared (exec (.slotClaimRelease l c) s) s fun t => t.rdM R.DNR_SLOT_CLAIM_STATE = 0
        ∧ (claim = 2 → t.net.owes = s.net.owes ++ [s.rdM R.DNR_SLOT_CLAIM_SLOT]))
    ∧ (Allowed s l c R.DNR_TBL_DATA true → Spared (exec (.scheduleTableWrite l c v) s) s fun t =>
        t.rd l R.DNR_TBL_ADDR_ENTRY = (i + 1) % 2 ^ 13
          ∧ (s.mode = mStarting → s.dnr = dnOff → table t = setEntry (table s) i v)
          ∧ (s.mode ≠ mStarting → s.cyc.kind ≠ .conversion → table t = table s)
          ∧ (s.dnr ≠ dnOff → s.rdM R.DNR_SCHED_SEL_NOW = n → table t = table s))
    ∧ (Allowed s l c R.STR_GT_DATA true → Spared (exec (.guardianStreamWrite l c v) s) s fun t =>
        (s.cyc.active = true → (t.lane l).stream = (s.lane l).stream ++ [v])
          ∧ (s.cyc.active = false → (t.lane l).stream = (s.lane l).stream
            ∧ t.rdM (vwRefuse R.STR_GT_DATA) = satAdd (s.rdM (vwRefuse R.STR_GT_DATA)) 1 (vwRefuse R.STR_GT_DATA).max))

/-- Frames to and from the lanes (R43, R44, R197, R313, R335): of the two copies in a lane's receive queues it keeps X if good, else Y; a
telegram for the module enters the gather set being filled; the leader's SYNC leaves on a channel when two lanes hand over the same
copy, and a lane without one, or one whose test delay makes it late (R546), is named. -/
def Obligations.FramesOfTheLanes : Prop :=
  ∀ (s : State) (l : Lane) (ch : Chan) (slot lead : Nat) (off : Int) (cx : RxCopy), s.Inv →
    let good (c : RxCopy) : Prop := c.complete = true ∧ c.truncated = false
    let queue (c : Chan) : Option RxCopy := ((s.lane l).rx.get c).find? fun c => c.slot == slot
    let quiet : Prop := (∀ c, slot ∉ s.net.sent.get c) ∧ ∀ h ∈ (s.lane l).bus, h.path ≠ .macWrite
    let put (c : RxCopy) (isY : Bool) : GFrame :=
      { slot := c.frame.slot, postmark := c.postmark, crc := crc32c (frameBytes c.frame), wan := false, chanY := isY, port := c.port
        node := c.frame.node, len := c.frame.len, payload := c.frame.payload }
    let inTime (x : Lane) : Prop := 20000 + s.rd x R.TST_DELAY_DNR ≤ lead
    let sync := s.ownFrame ch 0 fkSync s.syncPayload
    let named (t : State) : Prop :=
      ∀ x, bit (t.laneReg x R.CMP_MISMATCH).toNat srcTxsel = true ∧ bit (t.laneReg x R.CMP_MISMATCH).toNat l.bit = true
    ((s.lane l).running = true → s.rd l R.DNR_CTRL_EN_X = 1 → queue .x = some cx → good cx → quiet → s.addressed cx.frame = true →
      Spared (exec (.laneFrameReceived l slot) s) s fun t => (t.lane l).inbox = (s.lane l).inbox ++ [put cx false]
        ∧ (t.lane l).rx.x = (s.lane l).rx.x.erase cx)
    ∧ ((s.lane l).running = true → s.rd l R.DNR_CTRL_EN_Y = 1 → queue .x = none → queue .y = some cx → good cx → quiet →
      s.addressed cx.frame = true →
      Spared (exec (.laneFrameReceived l slot) s) s fun t => (t.lane l).inbox = (s.lane l).inbox ++ [put cx true]
        ∧ t.rd l R.DNR_STAT_COPY_Y = (s.rd l R.DNR_STAT_COPY_Y + 1) % 256)
    ∧ (s.cyc.kind ≠ .test → s.mayTransmit ch = true → s.dnr = dnActive → s.rdM R.DNR_STAT_LEADER = 1 → s.net.tx = none →
      (∀ x, (s.lane x).inject = none) →
      (2 ≤ s.voters.length → (∀ x ∈ s.voters, (s.lane x).running = true) → (∀ x, inTime x) →
        Kept (exec (.transmitSlot ch 0 0 0 lead off) s) s fun t => t.net.wire.get ch = some sync ∧ t.cyc.named = s.cyc.named
          ∧ t.net.octets.get ch = wireBytes sync)
      ∧ (s.vset = 7 → (∀ x, x ≠ l → (s.lane x).running = true ∧ inTime x) →
        Kept (exec (.transmitSlot ch 0 l.mask 0 lead off) s) s fun t => t.net.wire.get ch = some sync ∧ named t)
      ∧ (s.vset = 7 → (∀ x, x ≠ l → (s.lane x).running = true ∧ inTime x) → ¬ inTime l →
        Kept (exec (.transmitSlot ch 0 0 0 lead off) s) s fun t => t.net.wire.get ch = some sync ∧ named t))

/-! ## Time and the wide-area port (chapters 09 and 10) -/

/-- Link delays, holdover and external time (R347 to R349, R358, R360 to R365, R370). The wide-area port (R378, R380, R383, R248): a
datagram to the module's port enters every running lane's gather set being filled; telegrams of category 3 leave after the dispatch
close, and none while SAFE is latched. -/
def Obligations.TimeAndWideArea : Prop :=
  (∀ (s : State) (l : Lane) (c : CoreId) (ch : Chan) (port t0 : Nat) (v : Word) (m : PtpMsg), s.Inv →
      let n := portN ch port
      let k := s.link ch port
      let cur := s.rdM (R.TIM_LDLY_DELAY n)
      let l0 := s.mainLane
      (s.linkOpen ch port = true → Spared (exec (.linkDelayRequest ch port t0) s) s fun t => (t.link ch port).t1 = some t0)
      ∧ (s.linkOpen ch port = true → Spared (exec (.markReceived ch port false t0 false) s) s fun t => (t.link ch port).answer = some (t0 + 2000))
      ∧ (s.linkOpen ch port = true → Spared (exec (.markReceived ch port false t0 true) s) s fun t => (t.link ch port).answer = k.answer)
      ∧ (∀ t1, s.linkOpen ch port = true → k.t1 = some t1 → s.rdM (R.TIM_LDLY_VALID n) = 1 → t1 + 2000 ≤ t0 → t0 ≤ t1 + 12000 →
          (((t0 : Int) - t1 - 2000) - 2 * cur).natAbs ≤ 64 → Spared (exec (.markReceived ch port true t0 false) s) s fun t =>
            t.rdM (R.TIM_LDLY_DELAY n) = meanDelay (((t0 - t1 - 2000) :: k.good).take 8) % 2 ^ 16 ∧ (t.link ch port).bad = 0)
      ∧ (∀ t1, s.linkOpen ch port = true → k.t1 = some t1 → (t0 < t1 + 2000 ∨ t1 + 12000 < t0) →
          Spared (exec (.markReceived ch port true t0 false) s) s fun t =>
            ((s.lane l).running = true → t.rd l (R.TIM_LDLY_DISC n) = satAdd (s.rd l (R.TIM_LDLY_DISC n)) 1 (R.TIM_LDLY_DISC n).max)
              ∧ t.rdM (R.TIM_LDLY_DELAY n) = cur)
      ∧ (port ≤ 8 → s.rdM (R.TIM_LDLY_VALID n) = 1 → 9 ≤ k.bad → Spared (exec (.linkDelayDiscard ch port) s) s fun t =>
          t.rdM (R.TIM_LDLY_VALID n) = 0 ∧ t.rdM (R.TIM_LDLY_DELAY n) = 0)
      ∧ (s.time.dom < 2 → 3 ≤ s.time.missed → s.rdM R.DNR_STAT_LEADER = 0 → Spared (exec .holdoverEntry s) s fun t =>
          t.time.dom = 2 ∧ ((s.lane l).running = true → t.rd l R.TIM_STAT_DOM = 2))
      ∧ (∀ a es sec, s.ppsIn = true → s.rd l0 R.TIM_PPS_POL = 0 → 3 ≤ s.time.edgeRun → s.time.edges = a :: es → s.time.extRate = 0 →
          s.rd l0 R.TIM_PPS_CABLE ≤ t0 → a + 999990000 ≤ t0 - s.rd l0 R.TIM_PPS_CABLE → t0 - s.rd l0 R.TIM_PPS_CABLE ≤ a + 1000010000 →
          s.time.ptp = none → s.time.setTai = some sec → Spared (exec (.ppsEdge true t0) s) s fun t =>
            t.rdM R.TIM_PPS_T_T = (t0 - s.rd l0 R.TIM_PPS_CABLE) % 2 ^ 64 ∧ t.rdM R.TIM_STAT_EXT_VALID = 1 ∧ t.rdM R.TIM_STAT_EXT_HOLD = 0
              ∧ t.time.setTai = some (sec + 1000000000))
      ∧ (∀ e es, s.extDuty = true → 3 ≤ s.time.edgeRun → s.time.edges = e :: es → e + 2000000000 ≤ s.time.now →
          Spared (exec .ppsLoss s) s fun t => t.rdM R.TIM_STAT_EXT_HOLD = 1 ∧ t.time.edgeRun = 0 ∧ t.time.holdFrom = some s.time.now)
      ∧ (∀ h, s.time.holdFrom = some h → h + 3600000000000 ≤ s.time.now → s.rdM R.TIM_STAT_EXT_VALID = 1 →
          Spared (exec .extTimeInvalid s) s fun t => t.rdM R.TIM_STAT_EXT_VALID = 0)
      ∧ (s.rd l0 R.TIM_PPS_OUT_EN = 1 → s.rdM R.TIM_STAT_EXT_VALID = 0 → Spared (exec .ppsOutPulse s) s fun t =>
          ∃ u, t.time.ppsOut = some (u, u + 1000000 * s.rd l0 R.TIM_PPS_WIDTH) ∧ s.time.now ≤ u ∧ u < s.time.now + 1000000000 ∧ u % 1000000000 = 0)
      ∧ (s.extDuty = true → s.rd l0 R.TIM_PPS_PTP_EN = 1 → m.domain = s.rd l0 R.TIM_PPS_PTP_DOM → m.domain ≤ 127 → m.supported = true →
          (m.locks = true → s.rd l0 R.TIM_PPS_IN_EN = 0 → Spared (exec (.ptpMessage m) s) s fun t =>
            t.time.ptp = some ((m.time : Int) - m.t) ∧ t.rdM R.TIM_STAT_EXT_VALID = 1 ∧ t.rdM R.TIM_STAT_EXT_SRC = 3)
          ∧ (m.locks = false → Spared (exec (.ptpMessage m) s) s fun t => t.time.ptp = none))
      ∧ (Allowed s l c R.TIM_EXT true → Spared (exec (.timExtWrite l c v) s) s fun t =>
          t.time.setTai = if v.toNat % 1000000000 = 0 ∧ s.time.ptp.isNone = true then some v.toNat else s.time.setTai))
  ∧ (∀ (s : State) (l : Lane) (b : StationBody) (port postmark : Nat) (payload : List Nat), s.station = some b →
      (port = b.wanPort → (s.lane l).running = true → Spared (exec (.wanDatagramReceived port postmark payload) s) s fun t =>
          (t.lane l).inbox = (s.lane l).inbox ++ [{ slot := 0x3FF, postmark := postmark, crc := crc32c payload, wan := true, chanY := false, port := 0
                                                    node := numAt payload 2 2, len := payload.length, payload := payload }])
      ∧ (port ≠ b.wanPort → Spared (exec (.wanDatagramReceived port postmark payload) s) s fun t => (t.lane l).inbox = (s.lane l).inbox)
      ∧ (s.safe = false → s.did phClose = true → Spared (exec .cat3TelegramSend s) s fun t => ∀ q ∈ t.cyc.queue, q.2.1 ≠ 3)
      ∧ (s.safe = true → Spared (exec .cat3TelegramSend s) s fun t => t.cyc.queue = s.cyc.queue ∧ t.tele.wanOut = s.tele.wanOut))

/-! ## The event recorder (chapter 15) -/

/-- Writing records (R524, R525, R527, R528, R530 to R532): the oldest buffered record goes to the store with its MAC chained to the
one before; a frozen store holds it; past LIMIT it is a dead letter; a record of a later window, and the passing of the window, end the old one. Clearing, freezing
and rates (R529, R532, R533): what two lanes together start, what ends it, and what an erased store begins with. -/
def Obligations.EventRecorder : Prop :=
  (∀ (s : State) (r : Rec) (rest : List Rec), s.Inv →
      let n := s.log.store.length
      let bs := recBytes r n
      let m := macOf bs s.log.head
      let ready : Prop := s.log.buffer = r :: rest ∧ s.dom 7 = 2 ∧ s.log.closed = false
      let counted := mapGet (fun _ => 0) s.log.window r.code
      let ordinary : Prop := codeFixed r.code = false ∧ bit r.flags 3 = false ∧ bit r.flags 2 = false
      let open' : Prop := s.rdM R.LOG_FREEZE_FROZEN = 0 ∧ s.log.erasing = false
      let inWin : Prop := winOf r.t ≤ s.log.winIdx
      let passed : Prop := s.dom 7 = 2 ∧ s.log.closed = false ∧ s.log.buffer = [] ∧ winOf s.time.now ≠ s.log.winIdx
      (ready → open' → inWin → codeFixed r.code = true ∨ counted < (s.rate r.code).1 → n + 1 < 471860 → Spared (exec .recordWrite s) s fun t =>
          t.log.store = s.log.store ++ [bs ++ bytesBE m 16] ∧ t.log.head = m ∧ t.rdM R.LOG_CTRL_COUNT = n + 1 ∧ t.log.buffer = rest)
      ∧ (ready → inWin → s.rdM R.LOG_FREEZE_FROZEN = 1 → codeFixed r.code = true → s.log.held.length < 1024 → Spared (exec .recordWrite s) s fun t =>
          t.log.store = s.log.store ∧ t.log.held = s.log.held ++ [r] ∧ t.rdM R.LOG_FREEZE_HELD = s.log.held.length + 1)
      ∧ (ready → inWin → ordinary → (s.rate r.code).1 ≤ counted → Spared (exec .recordWrite s) s fun t =>
          t.log.store = s.log.store ∧ t.log.held = s.log.held
            ∧ mapGet (fun _ => 0) t.log.dead r.code = satAdd (mapGet (fun _ => 0) s.log.dead r.code) 1 (2 ^ 32 - 1))
      ∧ (ready → ordinary → s.log.winIdx < winOf r.t → Spared (exec .recordWrite s) s fun t =>
          t.log.winIdx = winOf r.t ∧ t.log.deadWin.length ≤ 1)
      ∧ (passed → s.log.deadWin = [] → Spared (exec .rateWindowEnd s) s fun t =>
          t.log.window = [] ∧ t.log.store = s.log.store ∧ t.log.winIdx = winOf s.time.now)
      ∧ (∀ d, passed → s.log.deadWin = [d] → open' → n + 1 < 471860 → Spared (exec .rateWindowEnd s) s fun t =>
          t.log.window = [] ∧ t.log.deadWin = [] ∧ t.log.store.length = n + 1)
      ∧ (s.log.buffer.length + s.log.open_.length ≤ 4096 → Spared (exec .loneRecord s) s fun t =>
          t.log.open_ = (s.log.open_.filter fun o => decide (o.2 < 2))
            ∧ t.log.buffer = s.log.buffer ++ (s.log.open_.filter fun o => decide (2 ≤ o.2)).map fun o => s.recOf o.1 (o.1.lane + 16)))
  ∧ (∀ (s : State) (l m : Lane) (c : CoreId) (v : Word), s.Inv →
      let code := R.LOG_RATE_CODE.of v
      let both : Prop := l ≠ m ∧ l ∈ s.voters ∧ m ∈ s.voters
      (Allowed s l c R.LOG_FREEZE true → setsReserved R.LOG_FREEZE v = false →
        (R.LOG_FREEZE_FREEZE.of v = 1 → both → s.rd m R.LOG_FREEZE_FREEZE = 1 → Spared (exec (.logFreezeWrite l c v) s) s fun t =>
          t.rdM R.LOG_FREEZE_FROZEN = 1 ∧ t.rd l R.LOG_FREEZE_FREEZE = 1)
        ∧ (R.LOG_FREEZE_FREEZE.of v = 0 → s.freezers < 2 → Spared (exec (.logFreezeWrite l c v) s) s fun t =>
          t.rdM R.LOG_FREEZE_FROZEN = 0 ∧ t.rd l R.LOG_FREEZE_FREEZE = 0))
      ∧ (s.rdM R.LOG_FREEZE_FROZEN = 1 → s.freezeOver = true → Spared (exec .freezeTimeout s) s fun t =>
          t.rdM R.LOG_FREEZE_FROZEN = 0 ∧ t.rd l R.LOG_FREEZE_FREEZE = 0)
      ∧ (Allowed s l c R.LOG_CTRL true → s.mode = mCommissioning → both → (s.lane m).clearReq = true →
          Spared (exec (.logClear l c) s) s fun t => t.log.erasing = true)
      ∧ (Allowed s l c R.LOG_CTRL true → s.mode ≠ mCommissioning → Spared (exec (.logClear l c) s) s fun t => t.log = s.log)
      ∧ (s.log.erasing = true → s.log.held = [] → s.rdM R.LOG_FREEZE_FROZEN = 0 → Spared (exec .eraseComplete s) s fun t =>
          t.log.erasing = false ∧ t.rdM R.LOG_CTRL_FULL = 0 ∧ t.rdM R.LOG_CTRL_COUNT = 1
            ∧ t.log.store.map (fun b => b.take 2) = [[0xD0, 0x01]])
      ∧ (Allowed s l c R.LOG_RATE true → setsReserved R.LOG_RATE v = false →
        (Spared (exec (.logRateSelect l c v) s) s fun t => t.log = s.log
          ∧ t.rd l R.LOG_RATE_CODE = if codeKnown code then code else s.rd l R.LOG_RATE_CODE)
        ∧ (Spared (exec (.logRateApply l c v) s) s fun t =>
          (codeKnown code = true → codeFixed code = false → R.LOG_RATE_LIMIT.of v ≠ 0 →
            t.rate code = (R.LOG_RATE_LIMIT.of v, decide (R.LOG_RATE_ALARM.of v = 1)))
          ∧ (codeKnown code = false ∨ codeFixed code = true → t.log = s.log))))

/-! ## Power, self-test and shutdown (chapter 13) -/

/-- Stamps (R468 to R471): what a request records and a release takes back, and which request is granted: the one that comes first
in the order of R470, when its amount fits and no interruption is ridden through. -/
def Obligations.Stamps : Prop :=
  ∀ (s : State) (l : Lane) (c : CoreId) (v : Word) (tag : Nat), s.Inv →
    let kind := R.PWR_STAMP_REQ_KIND.of v
    let arg := R.PWR_STAMP_REQ_ARG.of v
    let n := R.PWR_STAMP_REQ_TAG.of v
    let ps := s.power.stamps
    let fits (x : Stamp) : Prop := stampAmount x.kind ≤ if x.kind = 4 then s.fieldHead else s.headroom
    let legal : Prop := ((kind = 1 ∨ kind = 2 ∨ kind = 5) ∧ arg = 0) ∨ (kind = 4 ∧ arg < 3)
    (Allowed s l c R.PWR_STAMP_REQ true → setsReserved R.PWR_STAMP_REQ v = false →
      (legal → (∀ x ∈ ps, ¬ (x.lane = l ∧ x.tag = n)) → Spared (exec (.stampRequest l c v) s) s fun t =>
        t.power.stamps = ps ++ [{ lane := l, tag := n, kind := kind, arg := arg, held := false, order := s.power.order }])
      ∧ (¬ legal ∨ (∃ x ∈ ps, x.lane = l ∧ x.tag = n) → Spared (exec (.stampRequest l c v) s) s fun t => t.power = s.power)
      ∧ (∀ x pre post, ps = pre ++ x :: post → x.lane = l → x.tag = n → (∀ y ∈ pre, ¬ (y.lane = l ∧ y.tag = n)) →
        Spared (exec (.stampRelease l c v) s) s fun t => t.power.stamps = pre ++ post
          ∧ (x.held = true → x.kind = 1 → t.rd l R.RTE_STAT_STAMP = 0 ∧ t.rd l R.RTE_CTRL_EN = 0)))
    ∧ (∀ x rest, s.stampQueue = x :: rest →
      (x ∈ ps ∧ x.held = false ∧ ∀ y ∈ ps, y.held = false → y.kind ≠ 4 → y.kind ≠ 5 →
        stampRank x.kind < stampRank y.kind ∨ (stampRank x.kind = stampRank y.kind ∧ x.order ≤ y.order))
      ∧ (s.rdM R.PWR_SUPPLY_HOLD = 0 → fits x → Spared (exec .stampGrant s) s fun t =>
        t.power.stamps = (ps.map fun y =>
          if y = x ∨ (votedStamp x.kind = true ∧ sameStamp x y = true) then { y with held := true } else y)
        ∧ (x.kind = 1 → t.rd x.lane R.RTE_STAT_STAMP = 1) ∧ ∀ d, bit (t.core x.lane d).ipend.toNat 6 = true)
      ∧ (s.rdM R.PWR_SUPPLY_HOLD = 1 ∨ (votedStamp x.kind = false ∧ ¬ fits x) → Spared (exec .stampGrant s) s fun t => t = s))
    ∧ Spared (exec (.groupOnStampTimeout tag) s) s (fun t =>
      t.power.stamps = ps.filter fun x => !(x.held && x.kind == 4 && x.tag == tag))

/-- The input supply and D0 (R456 to R460, R465, R471, R499, R600): interruptions of less and of more than 10 ms, power fail, the
hold-up store, VIN_APPEAR, the counters of D0, and lamps that are dark in OFF and under SAFE but for those of SAFE and the network.
That only a running module has a power fail is the model's reading (log entry 189). A voltage beyond the absolute maximum ratings (R581) is a fault. -/
def Obligations.InputSupply : Prop :=
  ∀ (s : State) (l : Lane) (vin : Int) (us charge : Nat) (a b c : Bool), s.Inv →
    let p := s.power.supply
    let hold := s.rdM R.PWR_SUPPLY_HOLD
    let shown (t : State) : Prop := t.rdM R.PWR_SUPPLY_VIN = vin.toNat ∧ t.rdM R.PWR_SUPPLY_INBAND = ofBool (vinInBand vin)
      ∧ t.rdM R.PWR_SUPPLY_LOW90 = ofBool (decide (vin < 9 * nominal (s.rdM R.PWR_BUDGET_NOM)))
    (vinBeyond vin = true →
      exec (.vinInterruptionBegin vin) s = .fault .absoluteMaximum ∧ exec (.vinInterruptionEnd vin us) s = .fault .absoluteMaximum
      ∧ exec (.low90Change vin) s = .fault .absoluteMaximum ∧ exec (.vinAppear vin) s = .fault .absoluteMaximum)
    ∧ (vinBeyond vin = false → vinInBand vin = false → p ≠ .off → hold = 0 → Spared (exec (.vinInterruptionBegin vin) s) s fun t =>
      t.rdM R.PWR_SUPPLY_HOLD = 1 ∧ shown t ∧ (∀ x ∈ t.power.stamps, x.held = true → x.kind ≠ 5)
        ∧ ((s.lane l).running = true → t.rd l R.PWR_SUPPLY_INT_CNT = satAdd (s.rd l R.PWR_SUPPLY_INT_CNT) 1 R.PWR_SUPPLY_INT_CNT.max
          ∧ ∀ d, bit (t.core l d).ipend.toNat 6 = true))
    ∧ (vinInBand vin = true → hold = 1 → us < 10000 → Spared (exec (.vinInterruptionEnd vin us) s) s fun t =>
      t.rdM R.PWR_SUPPLY_HOLD = 0 ∧ shown t ∧ (p ≠ .powerFail → t.power.supply = p)
        ∧ (p = .powerFail → t.power.supply = if s.power.rstLow = true then .resetHeld else .standby))
    ∧ (vinInBand vin = true → hold = 1 → 10000 ≤ us → p = .on → Kept (exec (.vinInterruptionEnd vin us) s) s fun t =>
      t.power.supply = (if s.power.rstLow = true then .resetHeld else .standby) ∧ t.safe = true ∧ t.power.cause = 2
        ∧ (∀ n, 2 ≤ n → n < 8 → t.dom n = 0) ∧ t.lane l = resetLane)
    ∧ (vinInBand vin = true → p ≠ .off → Spared (exec (.low90Change vin) s) s shown)
    ∧ (vinBeyond vin = false → p = .off → Spared (exec (.vinAppear vin) s) s fun t => t.power.supply = .standby ∧ shown t)
    ∧ (vinInBand vin = true → hold = 1 → 10000 ≤ us → p = .standby ∨ p = .resetHeld → Spared (exec (.vinInterruptionEnd vin us) s) s fun t =>
      t.rdM R.PWR_SUPPLY_HOLD = 0 ∧ shown t ∧ t.power.supply = p ∧ t.safe = s.safe)
    ∧ (p ≠ .on → Spared (exec .powerFail s) s fun t => t = s)
    ∧ (hold = 1 → p = .on → Kept (exec .powerFail s) s fun t =>
      t.power.supply = .powerFail ∧ t.safe = true ∧ t.mode = mSafe ∧ (∀ n, 2 ≤ n → n < 8 → t.dom n = 0) ∧ t.lane l = resetLane
        ∧ t.power.stamps = [] ∧ t.d0.pending.any (fun r => r.code == 0xB002) = true)
    ∧ (p = .powerFail ∨ ((p = .standby ∨ p = .resetHeld) ∧ hold = 1) → Kept (exec .storeExhausted s) s fun t => t.power.supply = .off ∧ t.d0 = s.d0 ∧ t.log = s.log ∧ t.sec = s.sec
        ∧ t.lamps = ⟨.dark, .dark, .dark, .dark, .dark, .dark, .dark⟩)
    ∧ (s.safe = true → s.power.lampTest = false → p ≠ .off →
      s.lamps.safe = .steady ∧ s.lamps.run = .dark ∧ s.lamps.lead = .dark ∧ s.lamps.degraded = .dark ∧ s.lamps.forced = .dark)
    ∧ (p ≠ .off → Spared (exec (.holdupCharged charge) s) s fun t =>
      t.rdM R.PWR_SUPPLY_CHARGE = min 100 charge ∧ t.rdM R.PWR_SUPPLY_HOLDUP_OK = ofBool (decide (95 ≤ charge)))
    ∧ (p ≠ .off → p ≠ .powerFail → Spared (exec .operatingMinute s) s fun t =>
      t.rdM R.PWR_D0_OPMIN = (s.rdM R.PWR_D0_OPMIN + 1) % 2 ^ 32)
    ∧ Spared (exec (.tamperSample a b c) s) s (fun t => t.d0.tamper = (s.d0.tamper || a || b || c))

/-- RST_N, regulator faults and DOMAIN_OFF_REQUEST (R2, R462, R464, R488 to R490): SAFE and the domains off, how a release waits after
three resets, and what the loss of each domain means; that of D6 is SAFE on a CB-TX3-F only. -/
def Obligations.ResetInputAndDomains : Prop :=
  ∀ (s : State) (l : Lane) (c : CoreId) (v : Word) (stable : Nat), s.Inv →
    let p := s.power.supply
    let reg : Lane → Regulator := fun l => match l with | .a => .d2 | .b => .d3 | .c => .d4
    let fault (t : State) (n : Nat) : Prop := t.dom n = 3 ∧ bit (t.rdM R.PWR_DOM_STAT_FAULT) n = true
    let voted (o : Host.Outcome State Fault Refusal) (w : Word) : Prop :=
      (s.cyc.active = true → Spared o s fun t => assoc (t.lane l).pend R.PWR_DOM_CTRL = some w ∧ t.modRegs = s.modRegs)
      ∧ (s.cyc.active = false → Spared o s fun t => (t.lane l).pend = (s.lane l).pend
        ∧ t.rdM R.PWR_VW_REFUSE_CNT = satAdd (s.rdM R.PWR_VW_REFUSE_CNT) 1 R.PWR_VW_REFUSE_CNT.max)
    (p ≠ .off → p ≠ .powerFail → s.power.rstLow = false → Kept (exec .rstNLow s) s fun t =>
      t.power.supply = .resetHeld ∧ t.power.rstLow = true ∧ t.safe = true ∧ t.mode = mSafe ∧ (∀ n, 2 ≤ n → n < 8 → t.dom n = 0)
        ∧ t.lane l = resetLane ∧ t.rdM R.PWR_RST_RST_CNT = (s.rdM R.PWR_RST_RST_CNT + 1) % 2 ^ 16 ∧ t.rdM R.PWR_RST_LEVEL = 0)
    ∧ (p = .powerFail → s.power.rstLow = false → Kept (exec .rstNLow s) s fun t =>
      t.power.supply = .powerFail ∧ t.power.rstLow = true ∧ t.rdM R.PWR_RST_LEVEL = 0)
    ∧ (s.power.rstLow = true → Spared (exec .rstNHeldLong s) s fun t => t.power.cause = 5)
    ∧ (s.power.rstLow = true → s.chattering = false ∨ 60 ≤ stable → Spared (exec (.rstNRelease stable) s) s fun t =>
      t.power.rstLow = false ∧ t.rdM R.PWR_RST_LEVEL = 1 ∧ t.power.supply = if p = .resetHeld then .standby else p)
    ∧ (s.power.rstLow = true → s.chattering = true → stable < 60 → Spared (exec (.rstNRelease stable) s) s fun t => t = s)
    ∧ (s.dom (laneDom l) ≠ 0 → Kept (exec (.regulatorFault (reg l)) s) s fun t =>
      fault t (laneDom l) ∧ t.lane l = resetLane ∧ t.st l = 0 ∧ bit (t.rdM R.XLE_STAT_ABS_MOD) l.bit = true)
    ∧ (s.dom 5 ≠ 0 → Kept (exec (.regulatorFault .d5x) s) s fun t => t.coreState .x = 0 ∧ t.rdM R.PWR_DOM_STAT_REG_X = 1
        ∧ (s.rdM R.PWR_DOM_STAT_REG_Y = 1 → fault t 5 ∧ t.safe = true))
    ∧ (s.dom 6 ≠ 0 → Kept (exec (.regulatorFault .d6) s) s fun t => fault t 6 ∧ (∀ m, t.field.down.get m = none)
        ∧ (s.fitted = true → t.safe = true) ∧ (s.fitted = false → t.safe = s.safe))
    ∧ (s.dom 7 ≠ 0 → Kept (exec (.regulatorFault .d7) s) s fun t => fault t 7 ∧ t.safe = true)
    ∧ (Allowed s l c R.PWR_DOM_CTRL true →
      (setsReserved R.PWR_DOM_CTRL v = false → voted (exec (.domainOffRequest l c v) s) v)
      ∧ voted (exec (.shutdownRestart l c) s) (R.PWR_DOM_CTRL_SHUTDOWN.put (s.modReg R.PWR_DOM_CTRL) 1)
      ∧ voted (exec (.shutdownStandby l c) s) (R.PWR_DOM_CTRL_SHUTDOWN.put (s.modReg R.PWR_DOM_CTRL) 2))

/-- Self-test, the fill and orderly shutdown (R280, R476, R481 to R486): a matching signature passes a block, a second failure makes
it unusable; a fill leaves a lane's memory at zero; a shutdown leaves the module in STANDBY with its store closed. The reference
of a block is not given by the spec (log entry 3), so the statement says what happens for either result of the comparison. -/
def Obligations.SelfTestFillAndShutdown : Prop :=
  ∀ (s : State) (l : Lane) (b conds us ms results : Nat) (sig : Word) (march : Bool), s.Inv →
    let good : Prop := sig = Config.bistReference b ∧ march = true
    let tested : Prop := s.testing b = true ∧ s.testSupply = true ∧ blockStamp b ≤ s.headroom
    (tested → Kept (exec (.selfTestBlock b sig march) s) s fun t =>
      (good → t.blockRes b = 1 ∧ b ∉ t.power.retry ∧ t.rdM R.BST_UNUSABLE_UNUSABLE = s.rdM R.BST_UNUSABLE_UNUSABLE)
      ∧ (¬ good → b ∉ s.power.retry → t.blockRes b = s.blockRes b ∧ t.power.retry = s.power.retry ++ [b])
      ∧ (¬ good → b ∈ s.power.retry → s.power.stopping = false → s.unusable b = false →
        t.blockRes b = 2 ∧ bit (t.rdM R.BST_UNUSABLE_UNUSABLE) b = true ∧ (b = 15 ∨ b = 16 → t.safe = true)
          ∧ (b / 4 = l.bit → t.st l = 0 ∧ t.dom (laneDom l) = 0)))
    ∧ (s.testing b = true → Spared (exec (.selfTestAbort b conds) s) s fun t =>
      t.blockRes b = 0 ∧ t.rdM R.BST_RESULT_VALID = 0 ∧ t.power.waiting = some b)
    ∧ (s.power.waiting = some b → s.testSupply = true → Spared (exec (.selfTestResume false) s) s fun t => t.power.waiting = none)
    ∧ (s.power.waiting = some b → Spared (exec (.selfTestResume true) s) s fun t => t.power = s.power)
    ∧ (s.mode = mStarting → s.dom (laneDom l) = 2 → (s.lane l).running = false → s.rd l R.MEM_FILL_DRAM_DONE = 0 →
      s.power.full = false ∨ (∀ i, i < 4 → s.blockRes (4 * l.bit + i) = 1) →
      (Kept (exec (.fillComplete l true us ms) s) s fun t =>
        (∀ a, (t.lane l).byte a = 0 ∧ (t.lane l).check (a / 8 * 8) = 0) ∧ t.rd l R.MEM_FILL_SRAM_DONE = 1
          ∧ t.rd l R.MEM_FILL_DRAM_DONE = 1 ∧ t.rd l R.MEM_FILL_SRAM_US = us % 2 ^ 16 ∧ t.rd l R.MEM_FILL_DRAM_MS = ms % 2 ^ 16)
      ∧ (Kept (exec (.fillComplete l false us ms) s) s fun t => bit (t.rdM R.BST_UNUSABLE_UNUSABLE) (4 * l.bit + 3) = true
        ∧ t.rd l R.MEM_FILL_FILL_ERR = 1 ∧ t.rd l R.MEM_ECC_STAT_BUS_DET = 2
        ∧ (s.unusable (4 * l.bit + 3) = false → (t.lane l).mem = [] ∧ (t.lane l).running = false ∧ t.st l = 0 ∧ t.dom (laneDom l) = 0)))
    ∧ (s.power.stopping = true → s.safe = false → Kept (exec (.orderlyShutdown results) s) s fun t =>
      t.power.supply = .standby ∧ t.power.stopping = false ∧ t.d0.orderly = true ∧ t.log.closed = true ∧ t.log.buffer = []
        ∧ (∀ n, 2 ≤ n → n < 8 → t.dom n = 0) ∧ t.lane l = resetLane
        ∧ t.sec.firmware = (if s.power.shutdown = 1 ∧ s.sec.fwDue = true then s.sec.firmwareIna else s.sec.firmware)
        ∧ (s.fitted = true → t.rdM R.BST_RESULT_RES = results % 2 ^ 34
          ∧ (t.rdM R.BST_RESULT_VALID = 1 ↔ ∀ i, i < 17 → bits results (2 * i + 1) (2 * i) ≠ 0))
        ∧ (s.fitted = false → t.blockRes 15 = 3
          ∧ (t.rdM R.BST_RESULT_VALID = 1 ↔ ∀ i, i < 17 → i ≠ 15 → bits results (2 * i + 1) (2 * i) ≠ 0)))

/-! ## Change-over of station data and firmware (chapter 14) -/

/-- The change-over (R506 to R511, R513, R521) and firmware (R501, R518): what starts a load and ends it, when a commit takes effect
and what postpones it, what an abort and the timeout leave. What an image check finds depends on cryptography that the spec does
not define (log entry 4), so the statement says what happens either way. -/
def Obligations.ChangeOver : Prop :=
  ∀ (s : State) (l : Lane) (c : CoreId) (bad : PerLane Nat) (second : PerLane Bool) (ch : Chan) (img : Image), s.Inv →
    let abandoned (t : State) : Prop := t.upd.active = s.upd.active ∧ t.upd.inactive = s.upd.inactive ∧ t.upd.agreed = false
      ∧ t.rdM R.UPD_STAT_CMP_OK = 0 ∧ t.stage = (if upConvert ≤ s.stage ∧ s.upd.isS = true ∧ s.cyc.kind ≠ .conversion then upReattach else upReady)
    let due : Prop := s.upd.since + s.rd s.mainLane R.UPD_CTRL_TIMEOUT ≤ s.opmin
    let other := match ch with | .x => Chan.y | .y => Chan.x
    let free : Prop := s.round % 64 = 0 ∧ s.coreState other = 2 ∧ s.rdM (pick other R.DNR_STAT_INT_X R.DNR_STAT_INT_Y) = 1 ∧ s.coreState ch ≠ 0
    (Allowed s l c R.UPD_CTRL true →
      (s.changing = false → s.upd.inactive ≠ none → Spared (exec (.updLoad l c) s) s fun t =>
        t.stage = upApply ∧ t.upd = { s.upd with valid := 0 })
      ∧ (s.changing = true ∨ s.upd.inactive = none → Spared (exec (.updLoad l c) s) s fun t => t = s)
      ∧ (s.upd.agreed = true → s.stage = upReady → s.guards = 0 → s.paired = false → Spared (exec (.updCommit l c) s) s fun t =>
        t.stage = upCommitted ∧ t.rdM R.UPD_CHG_KC = (s.k + 2) % 2 ^ 32 ∧ t.upd.alone = true ∧ t.upd.isS = true
          ∧ t.upd.agreed = false ∧ t.upd.since = s.opmin)
      ∧ (s.guards ≠ 0 → Spared (exec (.updCommit l c) s) s fun t => t.stage = s.stage ∧ t.upd = s.upd ∧ t.modRegs = s.modRegs)
      ∧ (s.upd.agreed = false ∨ s.stage ≠ upReady → Spared (exec (.updCommit l c) s) s fun t => t = s)
      ∧ (s.changing = true → Spared (exec (.updAbort l c) s) s abandoned)
      ∧ (s.changing = false → Spared (exec (.updAbort l c) s) s fun t => t = s))
    ∧ (s.changing = true → due → Spared (exec .changeOverTimeout s) s abandoned)
    ∧ (¬ due → Spared (exec .changeOverTimeout s) s fun t => t = s)
    ∧ (∀ i b, s.dom 7 = 2 → s.stage = upApply → s.upd.inactive = some i → i.station = some b → (∀ x, (s.lane x).running = true) →
      (∀ x, second.get x = false) → Kept (exec (.imageLoad bad second) s) s fun t => t.stage = upReady ∧ t.upd = { s.upd with valid := 7 }
        ∧ t.rd l R.UPD_STAT_PAGE_ERR = satAdd (s.rd l R.UPD_STAT_PAGE_ERR) (bad.get l) R.UPD_STAT_PAGE_ERR.max
        ∧ ∀ k, b.tasks = [k] → ∀ n, n < k.logic.length → (t.lane l).data (k.logicBase + 8 * n) = (k.logic.getD n 0).toNat)
    ∧ (s.dom 7 = 2 → s.stage ≠ upApply → (∀ x, second.get x = false) → Kept (exec (.imageLoad bad second) s) s fun t =>
        t.upd = s.upd ∧ t.modRegs = s.modRegs)
    ∧ (∀ i, s.sec.booted = some i → Spared (exec .firmwareMinimumRaise s) s fun t => t.sec.minSecver =
        if s.mode = mRunning ∨ s.mode = mDegraded then max s.sec.minSecver i.secver else s.sec.minSecver)
    ∧ (free → Spared (exec (.starFirmwareApply ch img) s) s fun t =>
        (img.kind = 3 → s.imageCheck img = 1 → t.coreState ch = 1 ∧ t.sec.starFw.get ch = img.bodyHash
          ∧ (t.star ch).tables = (s.star ch).tables ∧ t.coreState other = 2)
        ∧ (img.kind ≠ 3 ∨ s.imageCheck img ≠ 1 → t = s))
    ∧ (¬ free → Spared (exec (.starFirmwareApply ch img) s) s fun t => t = s)

/-! ## Ownership, keys and mailboxes (chapter 14) -/

/-- Owner commands and keys (R480, R496 to R499): a command that D7 does not verify has no effect. Which signatures verify is not
for the model to say (log entry 4), so the statement says what happens either way. -/
def Obligations.OwnerCommands : Prop :=
  ∀ (s : State) (a : OwnerAuth) (anchor : Nat) (p : KeyPackage), s.Inv →
    let ok (b : OwnerAuth) : Prop := s.dom 7 = 2 ∧ s.ownerOk b = true
    let owner (o : Host.Outcome State Fault Refusal) (P : State → Prop) : Prop := Spared o s fun t => (ok a → P t) ∧ (¬ ok a → t = s)
    (s.sec.anchor = none → s.mode = mCommissioning → s.dom 7 = 2 → Spared (exec (.takeOwnership anchor a) s) s fun t =>
      t.sec.anchor = some anchor ∧ t.rdM R.SEC_STAT_OWNED = 1
        ∧ (s.rdM R.SEC_STAT_OWNED = 0 → ∀ l, (s.lane l).running = true → ∀ d, bit (t.core l d).ipend.toNat 5 = true))
    ∧ (s.sec.anchor ≠ none ∨ s.mode ≠ mCommissioning → Spared (exec (.takeOwnership anchor a) s) s fun t => t = s)
    ∧ owner (exec (.releaseOwnership a) s) (fun t => t.sec.anchor = none ∧ t.rdM R.SEC_STAT_OWNED = 0)
    ∧ owner (exec (.setUpdateLock a) s) (fun t => t.rdM R.SEC_STAT_OWNER_LOCK = 1)
    ∧ owner (exec (.clearUpdateLock a) s) (fun t => t.rdM R.SEC_STAT_OWNER_LOCK = 0)
    ∧ owner (exec (.commitChangeOver a) s) (fun t => (s.stage ≠ upReady ∨ s.guards ≠ 0 → t.upd = { s.upd with agreed := true })
      ∧ (s.stage = upReady → s.guards = 0 → s.paired = false → t.stage = upCommitted))
    ∧ owner (exec (.enterCommissioning a) s) (fun t => t.cyc.commCmd = some true ∧ t.mode = s.mode)
    ∧ owner (exec (.leaveCommissioning a) s) (fun t => t.cyc.commCmd = some false ∧ t.mode = s.mode)
    ∧ (∀ e, s.cyc.commCmd = some e → Spared (exec .commissioningCommandDrop s) s fun t =>
      t.cyc.commCmd = if s.commFailed e = 0 then some e else none)
    ∧ (Spared (exec (.installConnectionKey p) s) s fun t =>
      (ok p.auth → p.keyRef < 64 → s.sec.gen < p.gen → p.gen ≤ 4095 → ∀ key, Config.ecdhUnwrap p.wrapped = some key →
        t.sec.gen = p.gen ∧ t.sec.starts = 0
        ∧ (∀ e, s.sec.epoch = some e → t.sec.epoch = some e) ∧ t.rdM R.SEC_STAT_TAMPER = 0 ∧ t.rdM R.SEC_STAT_KEYS_ZERO = 0
        ∧ (∃ old, (p.keyRef, key, old, p.act) ∈ t.sec.keys) ∧ ∀ k, k.1 ≠ p.keyRef → (k ∈ t.sec.keys ↔ k ∈ s.sec.keys))
      ∧ (Config.ecdhUnwrap p.wrapped = none → t = s)
      ∧ (¬ ok p.auth → t = s) ∧ (p.gen ≤ s.sec.gen → t.sec = s.sec))

/-- Mailbox commands (R286, R381, R498, R502, R504, R507, R522, R525): a lane's command is taken while no other of it is in progress
and D7 is on, and is busy until its response; a buffer that is not 64-byte aligned or leaves SRAM is a bad argument; then what each
command answers. A buffer with a damaged word is a fault, which is the model's choice (log entry 169). MAILBOX_RESPONSE writes the
response to the buffer in whole words and raises source 5. -/
def Obligations.MailboxCommands : Prop :=
  ∀ (s : State) (l : Lane) (addr len conn : Nat) (img : Image) (p : KeyPackage) (a : OwnerAuth) (req : LogReq), s.Inv →
    let free : Prop := (s.lane l).running = true ∧ s.dom 7 = 2 ∧ (s.lane l).mbox = none
    let good : Prop := addr % 64 = 0 ∧ addr + len ≤ 0x1000000
    let check := if s.changing = true then 0x30 else s.imageCheck img
    let answers (cmd : Nat) (P : Nat → List Nat → State → Prop) (t : State) : Prop := t.rd l R.SEC_STAT_BUSY = 1 ∧ t.rd l R.SEC_STAT_DONE = 0
      ∧ ∃ r bs, (t.lane l).mbox = some { cmd := cmd, addr := addr, result := r, response := bs }
        ∧ (¬ good → r = 1 ∧ bs = []) ∧ (good → P r bs t)
    let idle (i : Instr) : Prop := ¬ free → Spared (exec i s) s fun t => t = s
    let takes (cmd : Nat) (i : Instr) (P : Nat → List Nat → State → Prop) : Prop :=
      (free → Spared (exec i s) s (answers cmd P)) ∧ idle i
    let reads (cmd : Nat) (i : Instr) (n : Nat) (P : Nat → List Nat → Nat → List Nat → Prop) : Prop := (free → Kept (exec i s) s
      (answers cmd fun r bs _ => (len < n → r = 1 ∧ bs = []) ∧ (n ≤ len → ∀ buf, (s.readBuffer l addr n).1 = some buf → P n buf r bs)
        ∧ (n ≤ len → (s.readBuffer l addr n).1 = none → r ≠ 0 ∧ bs = []))) ∧ idle i
    takes 1 (.getCert l addr len) (fun r bs _ => Config.certChain.length ≤ len → r = 0 ∧ bs = Config.certChain)
    ∧ reads 2 (.attest l addr len) 32 (fun _ buf r bs => (s.statement buf).length ≤ len → r = 0 ∧ bs = s.statement buf)
    ∧ takes 3 (.imgCheck l addr len img) (fun r bs t => r = 0 ∧ bs = [check]
      ∧ (check = 1 → img.amend = false → img.kind = 1 → t.upd.inactive = some img ∧ t.stage = upIdle)
      ∧ (check ≠ 1 ∨ img.amend = true → t.upd = s.upd ∧ t.stage = s.stage))
    ∧ takes 4 (.imgApply l addr len img) (fun r bs t =>
      (s.holdsStamp 5 0 = false → r = 4 ∧ bs = [] ∧ t.upd = s.upd)
      ∧ (s.holdsStamp 5 0 = true → r = 0 ∧ bs = [check]
        ∧ (check = 1 → img.kind = 1 → t.upd.inactive = some img ∧ t.stage = upApply)
        ∧ (check = 1 → img.kind = 2 → t.sec.firmwareIna = some img) ∧ (check ≠ 1 → t.upd = s.upd)))
    ∧ reads 5 (.gcmSeal l addr len conn) 92 (fun _ buf r bs => (s.station = none → r = 1 ∧ bs = [])
      ∧ ∀ b o, s.station = some b → b.outbound.find? (fun o => o.conn == conn && o.cat == 3) = some o →
        ∀ data, s.wanBytes o s.nodeId buf = some data → data.length ≤ len → r = 0 ∧ bs = data)
    ∧ reads 6 (.gcmOpen l addr len) 128 (fun _ buf r bs => (s.rxKeys = [] → r = 3 ∧ bs = [])
      ∧ (s.rxKeys ≠ [] → match openWan s.rxKeys buf with
        | some inner => r = 0 ∧ bs = inner
        | none => r = 2 ∧ bs = []))
    ∧ takes 7 (.keyInstall l addr len p) (fun r bs t => bs = [] ∧ (s.ownerOk p.auth = false → r = 2 ∧ t.sec = s.sec)
      ∧ (s.ownerOk p.auth = true → p.keyRef < 64 → s.sec.gen < p.gen → p.gen ≤ 4095 →
        (Config.ecdhUnwrap p.wrapped ≠ none → r = 0 ∧ t.sec.gen = p.gen) ∧ (Config.ecdhUnwrap p.wrapped = none → r = 2 ∧ t.sec = s.sec)))
    ∧ takes 8 (.ownerCmd l addr len a) (fun r bs t => bs = [] ∧ r = (if s.ownerOk a = true then 0 else 2) ∧ t.sec = s.sec)
    ∧ takes 9 (.logMac l addr len req) (fun r bs t => t.log.store = s.log.store ∧ match req with
      | .submit => r = 0 ∧ bs = []
      | .application code _ _ _ => bs = [] ∧ r = (if 0xE000 ≤ code ∧ code ≤ 0xE0FF then 0 else 1)
      | .chain lo hi => match s.chainRange lo hi with
        | some n => r = 2 ∧ bs = bytesBE n 4
        | none => r = 0 ∧ bs = [])
    ∧ (∀ m, (s.lane l).mbox = some m → m.addr % 8 = 0 → Kept (exec (.mailboxResponse l) s) s fun t => (t.lane l).mbox = none
      ∧ t.rd l R.SEC_STAT_BUSY = 0 ∧ t.rd l R.SEC_STAT_DONE = 1 ∧ t.rd l R.SEC_STAT_LAST_CMD = m.cmd % 2 ^ 8
      ∧ t.rd l R.SEC_STAT_RESULT = m.result % 2 ^ 8 ∧ t.rd l R.SEC_STAT_RLEN = m.response.length % 2 ^ 16
      ∧ (∀ d, bit (t.core l d).ipend.toNat 5 = true)
      ∧ ∀ b, (t.lane l).byte b = if m.addr ≤ b ∧ b < m.addr + (m.response.length + 7) / 8 * 8 then BitVec.ofNat 8 (m.response.getD (b - m.addr) 0)
          else (s.lane l).byte b)

/-! ## Twin operation (chapter 11) -/

/-- HELLO, records and the decision (R45, R400 to R402, R404 to R409, R417, R422): what an accepted and a refused HELLO lead to, that a
record leaves as a copy on which two lanes agree and the odd lane is named by the source TXSEL, that the first good copy counts, how
inputs combine, a swap that the LEAD's record requests, and the outcome of R409 for each of its rows. That an outcome waits in the
state for the boundary, and that several damaged forms of a record are one operand, are the model's (log entry 12). -/
def Obligations.TwinRecords : Prop :=
  ∀ (s : State) (l : Lane) (h : Hello) (rec : InputRec) (o r : CompareRec) (pairB up frames : Bool) (absent differ : Nat), s.Inv →
    let link (t : State) (b : Bool) : Nat := t.rdM (if b then R.TWN_ROLE_LINK_B else R.TWN_ROLE_LINK_A)
    let outcome (P : State → Prop) : Prop := Kept (exec (.twinCompare frames) s) s P
    let good := s.voters.filter fun x => (s.lane x).running && !bit absent x.bit && !bit differ x.bit
    let named (t : State) (x : Lane) : Prop :=
      bit (t.laneReg l R.CMP_MISMATCH).toNat srcTxsel = true ∧ bit (t.laneReg l R.CMP_MISMATCH).toNat x.bit = true
    (s.twinOn = true → mStarting < s.mode → s.safe = false → s.mode ≠ mCommissioning → h.commissioning = false →
      (s.helloCause h = 0 → Spared (exec (.helloReceived h) s) s fun t =>
        t.twin.hello = some h ∧ t.rdM R.TWN_ROLE_PARTNER = h.node % 2 ^ 12 ∧ (s.tw = twHello ∨ s.tw = twAlone → t.tw = twTiming)
          ∧ (s.tw = twHello → s.rdM R.TWN_ROLE_POS = 0 → t.role = 1 ∧ t.rd l R.DNR_CTRL_CS_EN = 1)
          ∧ (s.tw = twAlone → t.role = s.role))
      ∧ (s.helloCause h ≠ 0 → Spared (exec (.helloReceived h) s) s fun t =>
        t.rdM R.TWN_CMP_LAST = 7 ∧ (s.tw ≠ twAlone → s.tw ≠ twLeft → t.tw = twAlone ∧ t.role = 1)
          ∧ (s.tw = twAlone ∨ s.tw = twLeft → t.tw = s.tw ∧ t.role = s.role)))
    ∧ (s.tw = twHello → s.twin.twinComm = false → s.safe = false → Spared (exec .helloTimeout s) s fun t =>
        t.tw = twAlone ∧ t.role = 1 ∧ t.rd l R.DNR_CTRL_CS_EN = 1)
    ∧ (Spared (exec (.twinLinkChange pairB up) s) s fun t => link t pairB = ofBool up ∧ link t (!pairB) = link s (!pairB)
        ∧ (link s pairB = 1 → up = false → link s (!pairB) = 0 → s.tw = twTransfer ∨ s.tw = twTrack →
          t.tw = twTransfer ∧ t.twin.transferred = []))
    ∧ (Turn s [phAgree] phTwinSend → Kept (exec (.twinInputRecordSend absent differ) s) s fun t =>
        (s.exchanges = true → 2 ≤ good.length → t.twin.sent = some s.inputRecord ∧ ∀ x ∈ s.voters, x ∉ good → named t x)
        ∧ (s.exchanges = false ∨ good.length < 2 → t.twin.sent = s.twin.sent))
    ∧ (s.exchanges = true → rec.chkOk = true → rec.rs = s.k → s.did phPair = false → Spared (exec (.twinInputRecord rec) s) s fun t =>
        t.twin.got = if s.twin.got = none then some rec else s.twin.got)
    ∧ (s.exchanges = false ∨ rec.chkOk = false ∨ rec.rs ≠ s.k ∨ s.did phPair = true →
        Spared (exec (.twinInputRecord rec) s) s fun t => t = s)
    ∧ (Turn s [phPost] phPair → s.exchanges = true → (s.twin.got = none → Kept (exec .pairCombination s) s fun t =>
          t.twin.paired = false ∧ t.cyc.inputs = s.cyc.inputs)
        ∧ (s.twin.got = some rec → rec.att = false → s.role ≠ 0 → Kept (exec .pairCombination s) s fun t => t.twin.paired = true
          ∧ t.cyc.inst = min s.cyc.inst rec.inst
          ∧ ∀ i, i < 48 → t.input i = (agreeTri [s.input i, rec.field.getD i .unknown] (s.cyc.prev.getD i .unknown)).1))
    ∧ (Turn s [phClose] phCompareSend → Kept (exec (.compareRecordSend absent differ) s) s fun t =>
        (s.exchanges = true → 2 ≤ good.length → t.twin.own = some s.compareRecord ∧ t.twin.ownUpd = some s.updateRecord
          ∧ ∀ x ∈ s.voters, x ∉ good → named t x)
        ∧ (s.exchanges = false ∨ good.length < 2 → t.twin.own = s.twin.own))
    ∧ (s.exchanges = true → r.chkOk = true → r.rs = s.k → s.did phTwin = false → Spared (exec (.compareRecord r) s) s fun t =>
        t.twin.theirs = if s.twin.theirs = none then some r else s.twin.theirs)
    ∧ (Turn s [phClose] phTwin → s.exchanges = true →
        (s.twin.own = some o → s.twin.theirs = some r →
          (r.safe = true → outcome fun t => t.twin.outcome = some 1)
          ∧ (s.role = 2 → s.paired = true → r.role = 1 → r.swapreq = true → outcome fun t =>
            t.rdM R.TWN_SWST_PEND = 1 ∧ t.rdM R.TWN_SWST_SWAPK = r.swapk % 2 ^ 32)
          ∧ (r.safe = false → o.step = false → r.step = false → o.conv = false → r.conv = false → s.stage ≠ upCompare →
            (equalRecords o r = true → outcome fun t =>
              t.twin.outcome = s.twin.outcome ∧ t.twin.equalRun = s.twin.equalRun + 1 ∧ t.rdM R.TWN_CMP_LAST = 0)
            ∧ (equalRecords o r = false → s.paired = true → outcome fun t => t.rdM R.TWN_CMP_DIFF = 1 ∧ t.twin.equalRun = 0
              ∧ (o.clean = true → r.clean = false → t.twin.outcome = some 4) ∧ (o.clean = false → r.clean = true → t.twin.outcome = some 5)
              ∧ (o.clean = true → r.clean = true → t.twin.outcome = some 6)
              ∧ (o.clean = false → r.clean = false → t.twin.outcome = some 7))))
        ∧ (s.twin.theirs = none →
          (frames = false → outcome fun t => t.twin.outcome = some 1)
          ∧ (frames = true → s.twin.missRun = 0 → outcome fun t => t.twin.missRun = 1 ∧ t.twin.outcome = s.twin.outcome
            ∧ t.rdM R.TWN_CMP_MISS_CNT = satAdd (s.rdM R.TWN_CMP_MISS_CNT) 1 R.TWN_CMP_MISS_CNT.max)
          ∧ (frames = true → s.twin.missRun = 1 → s.paired = true → outcome fun t => t.twin.outcome = some 2)))

/-- Transfers, swaps, proofs, update records and the handover (R410, R414, R415, R417 to R419, R510 to R512). -/
def Obligations.TwinRoles : Prop :=
  ∀ (s : State) (l : Lane) (c : CoreId) (tr : Transfer) (rest : List Nat) (fn : Nat) (u : UpdRec) (hand : HandoverRec), s.Inv →
    let img := s.taskImg tr.task
    let hours := s.rdM R.TWN_SWAP_HOURS
    let due : Prop := hours ≠ 0 ∧ s.twin.since + 60 * hours ≤ s.opmin ∧ s.swapOk = true ∧ s.twin.suspended = false
    let kc := s.nearRs u.kc
    (s.twinOn = true → s.role = 0 → s.tw = twTransfer → tr.exportsOnly = false → s.toTransfer = tr.task :: rest → Kept (exec (.taskTransfer tr) s) s fun t =>
        t.twin.transferred = s.twin.transferred ++ [tr.task] ∧ t.rdM R.TWN_ROLE_XFER_LEFT = rest.length
          ∧ (t.tw = if rest = [] then twTrack else twTransfer)
          ∧ ((s.lane l).running = true → t.rd l (R.RTE_DPREV_VALID tr.task) = 1 ∧ t.rd l (R.RTE_DPREV_DPREV tr.task) = tr.dprev % 2 ^ 29
            ∧ ∀ w n, tr.words = [(w, n)] → inFoot img w = true → (t.lane l).data (img.stateBase + refOffset w) = n % 2 ^ 32))
    ∧ (s.twinOn = true → s.role = 0 → s.tw = twTransfer → tr.exportsOnly = true → tr.task ∈ s.toTransfer →
        Kept (exec (.taskTransfer tr) s) s fun t => t.tw = twTransfer ∧ t.twin.transferred = s.twin.transferred
          ∧ (∀ w n, (w, n) ∈ tr.exports → (tr.task, w, n) ∈ t.cyc.exports) ∧ ∀ e, e.1 ≠ tr.task → (e ∈ t.cyc.exports ↔ e ∈ s.cyc.exports))
    ∧ (s.twinOn = false ∨ s.role ≠ 0 ∨ s.tw ≠ twTransfer → Kept (exec (.taskTransfer tr) s) s fun t => t = s)
    ∧ (due → s.role = 1 → s.rdM R.TWN_SWST_PEND = 0 → Spared (exec .roleSwapRequest s) s fun t =>
        t.rdM R.TWN_SWST_PEND = 1 ∧ t.rdM R.TWN_SWST_SWAPK = s.swapPlace.2 % 2 ^ 32 ∧ t.role = 1)
    ∧ (¬ due → Spared (exec .roleSwapRequest s) s fun t => t = s)
    ∧ (fn ∈ s.twin.proofs → fn < 4 →
        (Spared (exec (.twinFunctionProof fn true) s) s fun t => fn ∉ t.twin.proofs ∧ t.rdM R.TWN_ROLE_FN_FAIL = s.rdM R.TWN_ROLE_FN_FAIL)
        ∧ (Spared (exec (.twinFunctionProof fn false) s) s fun t =>
          fn ∉ t.twin.proofs ∧ t.twin.suspended = true ∧ bit (t.rdM R.TWN_ROLE_FN_FAIL) fn = true))
    ∧ (Allowed s l c R.TWN_CTRL true → s.cyc.active = true →
        (Spared (exec (.twinSwapRequest l c) s) s fun t =>
          assoc (t.lane l).pend R.TWN_CTRL = some (R.TWN_CTRL_SWAP.put (s.modReg R.TWN_CTRL) 1) ∧ t.modRegs = s.modRegs)
        ∧ (Spared (exec (.twinDetach l c) s) s fun t =>
          assoc (t.lane l).pend R.TWN_CTRL = some (R.TWN_CTRL_DETACH.put (s.modReg R.TWN_CTRL) 1) ∧ t.modRegs = s.modRegs))
    ∧ (s.twinOn = true → u.chkOk = true → u.rs = s.k → Spared (exec (.updateRecord u) s) s fun t =>
        t.twin.upd = (if s.twin.upd.any (fun y => y.rs == u.rs) = true then s.twin.upd else some u)
        ∧ (s.paired = false ∨ (s.role ≠ 2 ∧ s.disagrees u = false) → t.stage = s.stage ∧ t.upd = s.upd)
        ∧ (s.paired = true → s.disagrees u = true → t.upd.active = s.upd.active ∧ t.rdM R.UPD_STAT_CMP_OK = 0
          ∧ t.stage = if upConvert ≤ s.stage ∧ s.upd.isS = true ∧ s.cyc.kind ≠ .conversion then upReattach else upReady)
        ∧ (s.role = 2 → s.paired = true → s.stage = upReady → u.stage = upCommitted → s.upd.inactive ≠ none →
          u.ident = identOf s.upd.inactive → t.stage = upCommitted ∧ t.rdM R.UPD_CHG_KC = kc % 2 ^ 32 ∧ t.upd.isS = true
            ∧ t.upd.alone = false)
        ∧ (s.role = 2 → s.paired = true → s.stage = upCommitted → s.upd.isS = true → u.stage = upCommitted →
          t.rdM R.UPD_CHG_KC = kc % 2 ^ 32 ∧ t.upd = s.upd))
    ∧ (s.twinOn = false ∨ u.chkOk = false ∨ u.rs ≠ s.k → Spared (exec (.updateRecord u) s) s fun t => t = s)
    ∧ (∀ b, s.twinOn = true → s.upd.isS = true → s.upd.alone = false → s.stage = upConvert → s.station = some b →
        Kept (exec (.handover hand) s) s fun t => t.stage = upCompare ∧ t.rdM R.UPD_STAT_CMP_OK = 0 ∧ t.upd = s.upd
          ∧ t.cyc.exports.length = s.cyc.exports.length ∧ ∀ e ∈ t.cyc.exports, e ∈ s.cyc.exports ∨ e ∈ hand.exports)
    ∧ (s.stage ≠ upConvert → Kept (exec (.handover hand) s) s fun t => t = s)

/-! ## The write close and lanes that come back (chapters 01 and 06) -/

/-- WRITE_CLOSE of a voted register (R36, R37, R41, R42), TWN_SWAP standing for one: what every combination of values written and not
written does to the register, which lane is named by the source VW, what the block reports, and when SAFE is latched. A write that
arrives after the close has begun is held for the next one, and its lane's bit in LATE is set. -/
def Obligations.WriteClose : Prop :=
  ∀ (s : State) (f : Lane → Option Word) (l m : Lane) (v w : Word), s.Inv → Turn s [phDispatch] phClose → s.cyc.kind = .normal →
    s.cyc.cfgFail = [] → (∀ x, (s.lane x).stream = [] ∧ (s.lane x).inject = none ∧
      (s.lane x).pend = match f x with | some w => [(R.TWN_SWAP, w)] | none => []) → R.TWN_SWAP_HOURS.of v ≤ 168 →
    let closes (P : State → Prop) : Prop := Kept (exec (.writeClose []) s) s fun t =>
      t.did phClose = true ∧ t.rdM R.TWN_VW_LATE = 0 ∧ P t
    let agree (t : State) : Nat := t.rdM R.TWN_VW_AGREE
    let same (t : State) : Prop := t.modReg R.TWN_SWAP = s.modReg R.TWN_SWAP
    let named (t : State) : Prop := ∀ x, bit (t.laneReg x R.CMP_MISMATCH).toNat srcVw = true ∧ bit (t.laneReg x R.CMP_MISMATCH).toNat l.bit = true
    let calm (t : State) : Prop := t.safe = s.safe ∧ t.cyc.named = s.cyc.named ∧ ∀ x, (t.lane x).pend = []
    (s.vset = 7 →
      ((∀ x, f x = some v) → closes fun t => t.rdM R.TWN_SWAP_HOURS = R.TWN_SWAP_HOURS.of v ∧ agree t = 7 ∧ calm t)
      ∧ ((∀ x, f x = none) → closes fun t => same t ∧ agree t = 7 ∧ calm t)
      ∧ (f l ≠ some v → (∀ x, x ≠ l → f x = some v) →
        closes fun t => t.rdM R.TWN_SWAP_HOURS = R.TWN_SWAP_HOURS.of v ∧ agree t = 7 - l.mask ∧ named t)
      ∧ (f l ≠ none → (∀ x, x ≠ l → f x = none) → closes fun t => same t ∧ agree t = 7 - l.mask ∧ named t)
      ∧ (f .a ≠ f .b → f .b ≠ f .c → f .a ≠ f .c → closes fun t => same t ∧ t.safe = true ∧ agree t = 0 ∧ t.rdM R.TWN_VW_FAIL = 1)
      ∧ ((∀ x, f x = some v) → (s.lane l).running = true → setsReserved R.TWN_SWAP w = false →
        Kept (exec (.writeClose [(l, R.TWN_SWAP, w)]) s) s fun t => t.rdM R.TWN_SWAP_HOURS = R.TWN_SWAP_HOURS.of v
          ∧ (t.lane l).pend = [(R.TWN_SWAP, w)] ∧ t.rdM R.TWN_VW_LATE = l.mask ∧ agree t = 7))
    ∧ (s.voters = [l, m] → l ≠ m →
      (f l = some v → f m = some v → closes fun t => t.rdM R.TWN_SWAP_HOURS = R.TWN_SWAP_HOURS.of v ∧ agree t = s.vset ∧ calm t)
      ∧ (f l ≠ f m → closes fun t => same t ∧ t.safe = true ∧ agree t = 0 ∧ t.rdM R.TWN_VW_FAIL = 1))

/-- The copy of a lane, retraining and config records (R81, R253, R255, R256, R264, R265, R271): a good copy leads to PROBATION at the
boundary, another is repeated, and so is one whose source met a damaged word, from the other lane; links that train are up with
their latencies; a stopped lane is trained for it and is ISOLATED again, which is the model's reading (log entry 150); a lane whose
readback differs from its shadow is named by the source CFG. -/
def Obligations.LaneRecovery : Prop :=
  ∀ (s : State) (o v w l : Lane) (c : CoreId) (trained : Bool) (lat : PerLane Nat) (bad : Word), s.Inv →
    let copying : Prop := s.cyc.copy = some (o, v) ∧ s.did phClose = true ∧ s.did phState = false ∧ s.st o = 1
    let sound : Prop := (∀ x, (s.lane x).bus = []) ∧ ∀ b, s.station = some b → ∀ k ∈ b.tasks, ∀ f ∈ copyWords k, ∀ x,
      (s.lane x).good (k.stateBase + refOffset f) ≠ none
    let may : Prop := s.mode = mStarting ∨ s.st l = 1
    let only (x : Word) : PerLane Word := (PerLane.all 0).set l x
    let asks (b : Bool) (q : LaneState → Bool) : Prop := b = true ↔ s.voters ≠ [] ∧ ∀ x ∈ s.voters, q (s.lane x) = true
    let quiet : Prop := Turn s [phClose] phConfig ∧ s.probation = none ∧ s.blocksOff = [] ∧ (∀ x, (s.lane x).inject = none)
      ∧ (∀ x ∈ s.voters, ∀ y ∈ s.voters, s.laneReg x R.CMP_CFGCRC = s.laneReg y R.CMP_CFGCRC)
    (copying → (sound → Kept (exec (.stateCopyComplete .good) s) s fun t => t.cyc.copy = none ∧ t.cyc.prob = some o ∧ t.st o = 1
        ∧ (t.lane o).running = true ∧ ∀ b k, s.station = some b → b.tasks = [k] → k.task < 16 →
          t.rd o (R.RTE_DPREV_DPREV k.task) = s.rd v (R.RTE_DPREV_DPREV k.task) ∧ t.rd o (R.RTE_DPREV_VALID k.task) = 1)
      ∧ (sound → ∀ e, e = .digestDiffers ∨ e = .incomplete ∨ e = .digestDamaged → Kept (exec (.stateCopyComplete e) s) s fun t =>
        t.cyc.copy = some (o, v) ∧ t.cyc.prob = s.cyc.prob)
      ∧ (s.voters = [v, w] ∨ s.voters = [w, v] → v ≠ w →
        (sound → Kept (exec (.stateCopyComplete .sourceDamaged) s) s fun t => t.cyc.copy = some (o, w))
        ∧ ∀ b k f e, s.station = some b → k ∈ b.tasks → f ∈ copyWords k → (s.lane v).good (k.stateBase + refOffset f) = none →
          Kept (exec (.stateCopyComplete e) s) s fun t => t.cyc.copy = some (o, w) ∧ t.cyc.prob = s.cyc.prob))
    ∧ (s.cyc.copy = none → ∀ e, Kept (exec (.stateCopyComplete e) s) s fun t => t = s)
    ∧ (Allowed s l c R.XLE_CTRL true →
      (may → Kept (exec (.xleRetrain l c true lat) s) s fun t => bit (t.rdM R.XLE_STAT_ABS_MOD) l.bit = false
        ∧ ∀ x, x ≠ l → t.rd l (upField l x) = 1 ∧ t.rd x (upField x l) = 1 ∧ t.rd l (latField l x) = lat.get x % 256)
      ∧ (may → Kept (exec (.xleRetrain l c false lat) s) s fun t => (∀ x, x ≠ l → t.rd l (upField l x) = 0 ∧ t.rd x (upField x l) = 0)
        ∧ (s.mode ≠ mStarting → t.st l = 0 ∧ bit t.cyc.heldOut l.bit = true))
      ∧ (¬ may → Kept (exec (.xleRetrain l c trained lat) s) s fun t => t = s))
    ∧ (s.recoverable l = true → Kept (exec (.xleRetrain l c true lat) s) s fun t =>
        t.st l = 1 ∧ bit (t.rdM R.XLE_STAT_ABS_MOD) l.bit = false ∧ (t.lane l).running = false)
    ∧ (quiet → Kept (exec (.configRecordCompare (only 0)) s) s fun t => t.vset = s.vset ∧ t.cyc.named = s.cyc.named
        ∧ (∀ x, t.laneReg x R.CMP_MISMATCH = s.laneReg x R.CMP_MISMATCH)
        ∧ asks (t.cyc.haltAsk == some true) (fun x => x.haltReq))
    ∧ (quiet → s.vset = 7 → bad ≠ 0 → (s.lane l).running = true → Kept (exec (.configRecordCompare (only bad)) s) s fun t =>
        ∀ x, bit (t.laneReg x R.CMP_MISMATCH).toNat srcCfg = true ∧ bit (t.laneReg x R.CMP_MISMATCH).toNat l.bit = true)

/-! ## Boundaries and the start (chapters 05 and 13) -/

/-- The round-set boundary and halts (R12, R184 to R187, R265, R267, R414): k advances by one, the marks of the phases are gone and every
running lane takes source 2; a test round set advances its own number; a module about to attach takes k from the LEAD; under SAFE a
shutdown that waits is discarded; a halt is requested, begins and ends. -/
def Obligations.Boundaries : Prop :=
  ∀ (s : State) (l : Lane) (c : CoreId) (k round : Nat) (lead : Option (Nat × Nat)), s.Inv →
    let ended : Prop := s.cyc.active = true ∧ (if s.cyc.kind = .test then 1 else s.period) ≤ s.cyc.rounds
    let opened (t : State) : Prop := t.cyc.active = true ∧ t.cyc.rounds = 0 ∧ t.cyc.voted = 0
      ∧ ((t.lane l).running = true → ∀ d, bit (t.core l d).ipend.toNat 2 = true)
    let plain : Prop := s.safe = false ∧ s.power.shutdown = 0 ∧ s.stage = upIdle ∧ s.cyc.commCmd = none ∧ s.cyc.kind ≠ .test
    let busy : Prop := ∃ v, s.st v = 1 ∨ s.st v = 2
    let adopts : Prop := s.twinOn = true ∧ s.role = 0 ∧ s.tw = twTiming
    let boundary := exec (.roundSetBoundary lead) s
    (ended → s.cyc.kind ≠ .test → s.twinOn = false → Kept boundary s fun t =>
        t.k = (s.k + 1) % 2 ^ 64 ∧ t.cyc.phase = 0 ∧ opened t)
    ∧ (ended → s.cyc.kind = .test → Kept boundary s fun t =>
        t.k = s.k ∧ t.cyc.kt = s.cyc.kt + 1 ∧ t.cyc.kind = .test ∧ opened t)
    ∧ (¬ ended → (¬ adopts ∨ s.cyc.kind = .test ∨ lead = none) → Kept boundary s fun t => t = s)
    ∧ (s.cyc.active = true → adopts → lead = some (k, round) → plain → s.rdM R.TWN_SWST_PEND = 0 → s.twin.outcome = none →
        Kept boundary s fun t => t.k = k % 2 ^ 64 ∧ t.tw = twTransfer ∧ t.cyc.phase = 0 ∧ t.cyc.active = true)
    ∧ (ended → s.cyc.kind ≠ .test → s.safe = true → s.power.stopping = false → Kept boundary s fun t =>
        t.power.shutdown = 0 ∧ t.cyc.commCmd = none ∧ t.cyc.haltAsk = none)
    ∧ (ended → plain → s.mode = mCommissioning → s.cyc.haltAsk = some true → Kept boundary s fun t =>
        t.mode = mHalted ∧ t.cyc.kind = .halted ∧ t.rdM R.XLE_STAT_HALTED = 1 ∧ ∀ d, bit (t.core l d).ipend.toNat 7 = true)
    ∧ (ended → plain → s.mode = mHalted → s.cyc.haltAsk = some false → Kept boundary s fun t =>
        t.mode = mCommissioning ∧ t.cyc.kind = .normal ∧ t.rdM R.XLE_STAT_HALTED = 0 ∧ t.cyc.afterHalt = true)
    ∧ (Allowed s l c R.XLE_CTRL true →
        (s.mode ≠ mCommissioning ∨ s.paired = true ∨ busy → Kept (exec (.haltRequest l c) s) s fun t =>
          t.rd l R.XLE_STAT_HALT_REJ = 1 ∧ (t.lane l).haltReq = (s.lane l).haltReq)
        ∧ (s.mode = mCommissioning → s.paired = false → ¬ busy → Kept (exec (.haltRequest l c) s) s fun t =>
          t.rd l R.XLE_STAT_HALT_PEND = 1 ∧ (t.lane l).haltReq = true)
        ∧ (Kept (exec (.haltResume l c) s) s fun t =>
          (t.lane l).resumeReq = if s.mode = mHalted then true else (s.lane l).resumeReq))

/-- The start (R185, R261, R262, R397, R473 to R476, R478, R479, R500, R600): what entry to STARTING needs and sets, what each step of
R475 leaves, that a step up to 5 waits and a later one that fails latches SAFE, and when the lamp test begins and ends. One command is one step: the model's choice (log
entry 10). Whether an image passes rests on cryptography (log entry 4): the statement says what happens either way. -/
def Obligations.StartSequence : Prop :=
  ∀ (s : State) (l : Lane) (i : StartInput), s.Inv →
    let n := s.power.step
    let starts : Prop := s.power.supply = .standby ∧ s.power.rstLow = false ∧ s.rdM R.PWR_SUPPLY_INBAND = 1 ∧ s.power.shutdown ≠ 2
    let at' (k : Nat) : Prop := s.power.supply = .on ∧ s.mode = mStarting ∧ s.safe = false ∧ n = k
    let does (P : State → Prop) : Prop := Kept (exec (.startSequence i) s) s P
    let act := s.sec.firmware.orElse fun _ => i.firmware
    let ina := s.sec.firmwareIna.orElse fun _ => i.firmwareInactive
    let s1 : State := { s with sec := { s.sec with firmware := act, firmwareIna := ina } }
    let boots : Prop := s1.firmwareOk act = true ∨ s1.firmwareOk ina = true
    let pinsBad : Prop := i.twPa = i.twPb ∨ i.twPa = none ∨ i.twPb = none
    let base := i.entry &&& ~~~(0x3F : Word)
    (starts → Kept (exec .standbyToStarting s) s fun t => t.power.supply = .on ∧ t.mode = mStarting ∧ t.safe = false ∧ t.power.step = 1
        ∧ t.power.full = !s.shortStart ∧ t.rdM R.BST_UNUSABLE_UNUSABLE = 0
        ∧ t.lamps = ⟨.steady, .steady, .steady, .steady, .steady, .steady, .steady⟩)
    ∧ (¬ starts → Kept (exec .standbyToStarting s) s fun t => t = s)
    ∧ (∀ k, at' k → i.ok = false → (k ≤ 5 → does fun t => t = s) ∧ (6 ≤ k → k ≤ 11 → k ≠ 8 → does fun t => t.safe = true ∧ t.mode = mSafe))
    ∧ (at' 1 → i.ok = true → i.d0Ok = true → does fun t => t.power.step = 2 ∧ t.dom 7 = 2 ∧ t.d0.orderly = false
        ∧ t.rdM R.PWR_RST_ORDERLY = ofBool s.d0.orderly
        ∧ t.rdM R.PWR_D0_PCYC = (s.rdM R.PWR_D0_PCYC + 1) % 2 ^ 32 ∧ t.rdM R.SYS_CAUSE_CAUSE = s.power.cause % 2 ^ 16
        ∧ (pinsBad → t.rdM R.TWN_ROLE_POS_ERR = 1)
        ∧ (¬ pinsBad → t.rdM R.TWN_ROLE_POS_ERR = 0 ∧ t.rdM R.TWN_ROLE_POS = ofBool (i.twPb == some true)))
    ∧ (at' 2 → i.ok = true → does fun t => t.power.step = 3 ∧ (s.laneUsable l = true → t.dom (laneDom l) = 2))
    ∧ (at' 3 → i.ok = true → does fun t => t.power.step = 4 ∧ t.dom 5 = 2 ∧ t.power.d5 = (!s.unusable 12, !s.unusable 13))
    ∧ (at' 4 → i.ok = true → does fun t => t.power.step = 5 ∧ t.dom 6 = 2)
    ∧ (at' 5 → i.ok = true → i.lanesBad = 0 →
        let ready : Prop := (∀ x, s.laneUsable x = true → s.rd x R.MEM_FILL_DRAM_DONE = 1) ∧ (s.power.full = true → s.allTested = true)
        (ready → does fun t => t.power.step = 6 ∧ t.power.lampTest = (s.power.lampTest && !s.power.full)) ∧ (¬ ready → does fun t => t = s))
    ∧ (at' 6 → i.ok = true → does fun t => (boots → t.power.step = 7 ∧ (s.laneUsable l = true → (t.lane l).running = true
          ∧ ∀ d, (t.core l d).pc = base ∧ (t.core l d).kvec = base ∧ (t.core l d).level = .k))
        ∧ (¬ boots → t.safe = true ∧ t.mode = mSafe ∧ t.lane l = s.lane l))
    ∧ (at' 7 → i.ok = true → does fun t => t.power.step = 8 ∧ t.cyc.active = true ∧ t.cyc.kind = .test ∧ t.cyc.kt = 0
        ∧ t.power.lampTest = false ∧ ((s.lane l).running = true → t.st l = 3) ∧ ((∀ x, (s.lane x).running = true) → t.vset = 7))
    ∧ (at' 8 → does fun t => t.power.step = 9 ∧ (s.upd.active = none → i.station = none → t.power.bare = true ∧ t.upd.active = none)
        ∧ (∀ a, (s.upd.active.orElse fun _ => i.station) = some a → s.sec.anchor = none → t.power.bare = true ∧ t.upd.active = none))
    ∧ (at' 9 → i.ok = true → does fun t => t.power.step = 10 ∧ ((s.lane l).running = true → t.rd l R.RTE_STAT_STAMP = 1
        ∧ t.holdsStamp 1 0 = true ∧ t.holdsStamp 2 0 = true
        ∧ ∀ b, s.station = some b → (t.lane l).sched = tablesOf b ∧ t.rd l R.DNR_NODE_VALID = 1
          ∧ t.rd l R.DNR_NODE_NODE = (if s.rdM R.TWN_ROLE_POS = 1 then b.node1 else b.node0) % 2 ^ 12))
    ∧ (at' 10 → i.ok = true →
        (s.testsDone = true → does fun t => t.power.step = 11
          ∧ (s.testsFailed i = [] → t.safe = false ∧ t.rdM R.BST_UNUSABLE_UNUSABLE = s.rdM R.BST_UNUSABLE_UNUSABLE)
          ∧ ((∃ q ∈ s.testsFailed i, q.1 = 6) → t.safe = true) ∧ (∀ q, (7, l, false, q) ∈ s.testsFailed i → t.rdM R.STR_STAT_SELF_X = 1))
        ∧ (s.testsDone = false → does fun t => t = s))
    ∧ (at' 11 → i.ok = true →
        (s.rdM R.PWR_SUPPLY_HOLDUP_OK = 1 → s.rdM R.TWN_ROLE_POS_ERR = 0 → does fun t => t.power.step = 12
          ∧ t.k = s.rdM R.PWR_D0_PCYC * 2 ^ 32 ∧ t.mode = (if s.power.bare = true then mCommissioning else mIntegrating)
          ∧ t.cyc.kind = .normal ∧ t.cyc.firstRun = 0xFFFF)
        ∧ (s.rdM R.PWR_SUPPLY_HOLDUP_OK = 0 ∨ s.rdM R.TWN_ROLE_POS_ERR = 1 → does fun t => t = s))

/-! ## Scrubbing (chapter 07) -/

/-- The scrubbers (R288, R289, R291, R292, R298): a burst over good words leaves memory as it is and moves on by 64 KB; without its stamp
it does nothing, and a second one in a round, or one that is not urgent in the compute share, does not run; a word of SRAM is left,
corrected or poisoned. That a queued full-word write is the SD that waits next is the model's choice (log entry 167). -/
def Obligations.Scrubbing : Prop :=
  ∀ (s : State) (l : Lane) (w : Word) (syms : List Nat) (dram : Bool), s.Inv →
    let x := s.lane l
    let p := s.rd l R.MEM_SCRUB_POS_DPOS
    let a := s.rd l R.MEM_SCRUB_POS_SPOS
    let good (b : Nat) : Prop := ∃ u, rsDecode (x.data b) (x.check b) = .clean u
    let steps (P : State → Prop) : Prop := Kept (exec (.sramScrubStep l) s) s fun t =>
      t.rd l R.MEM_SCRUB_POS_SPOS = (if a + 8 < 0x1000000 then a + 8 else 0) ∧ (∀ b, b < a ∨ a + 8 ≤ b → (t.lane l).byte b = x.byte b) ∧ P t
    let round := s.time.now / 1000000
    let late := (s.judgePace l).rd l R.MEM_SCRUB_STAT_URGENT = 1
    (s.scrubStamp l = true → s.rd l R.MEM_FILL_DRAM_DONE = 1 → x.burstIn ≠ some round → late ∨ s.inComputeShare = false → p % 8 = 0 → 0x40000000 ≤ p → p + 0x10000 ≤ 0xC0000000 →
      (∀ k, k < 8192 → good (p + 8 * k)) → Kept (exec (.scrubBurst l) s) s fun t => (∀ b, (t.lane l).byte b = x.byte b)
        ∧ t.rd l R.MEM_SCRUB_POS_DPOS = if p + 0x10000 < 0xC0000000 then p + 0x10000 else 0x40000000)
    ∧ (x.burstIn = some round ∨ (¬ late ∧ s.inComputeShare = true) → Kept (exec (.scrubBurst l) s) s fun t =>
        (∀ b, (t.lane l).byte b = x.byte b) ∧ t.rd l R.MEM_SCRUB_POS_DPOS = p)
    ∧ (s.scrubStamp l = false ∨ s.rd l R.MEM_FILL_DRAM_DONE = 0 → Kept (exec (.scrubBurst l) s) s fun t => t = s)
    ∧ (s.rd l R.MEM_FILL_SRAM_DONE = 1 → a % 8 = 0 →
      (good a → steps fun t => ∀ b, (t.lane l).byte b = x.byte b)
      ∧ (rsDecode (x.data a) (x.check a) = .corrected w syms → steps fun t =>
        (t.lane l).data a = w.toNat ∧ (t.lane l).check a = rsCheck w ∧ t.rd l R.MEM_ECC_STAT_CORR = 1)
      ∧ (rsDecode (x.data a) (x.check a) = .uncorrectable → steps fun t =>
        (t.lane l).data a = x.data a ∧ t.rd l R.MEM_ECC_STAT_UNCORR = 1 ∧ (t.lane l).check a =
          if s.writeQueued l a = true then x.check a else rsCheck (BitVec.ofNat 64 (x.data a)) ^^^ poisonMask))
    ∧ (s.rd l R.MEM_FILL_DRAM_DONE = 1 → Spared (exec (.scrubPassLate l dram) s) s fun t => t.rd l R.MEM_ECC_STAT_SCRUB_LATE = 1)

/-! ## Register commands (chapters 01, 04, 05, 06, 15) -/

/-- Reads that change something, and writes of registers (R14 to R16, R34, R42, R425, R534): on a CB-TX3-N the FIO registers read zero; RC bits are cleared by the read that gives
them, LOG_WIN0 latches a record and LOG_WIN7 moves the cursor on; a write that sets a reserved bit is ignored, a voted write waits
for the write close, and one of a plain register takes its RW bits. -/
def Obligations.RegisterAccess : Prop :=
  ∀ (s : State) (l : Lane) (c : CoreId) (gd : GReg) (a : Nat) (v : Word) (r : RegRow), s.Inv →
    let gets (t : State) (w : Word) : Prop := t.core l c = (s.core l c).setG gd w
    let bytes (rec : List Nat) (n : Nat) : Word := BitVec.ofNat 64 (numAt (rec ++ List.replicate 64 0) n 8)
    let idx := s.rd l R.LOG_CUR_IDX
    (Allowed s l c (R.LOG_WIN 0) false → Kept (exec (.logWin0Read l c gd) s) s fun t =>
        (t.lane l).logWin = s.log.store.getD idx [] ∧ gets t (bytes (s.log.store.getD idx []) 0))
    ∧ (Allowed s l c (R.LOG_WIN 7) false → Kept (exec (.logWin7Read l c gd) s) s fun t => gets t (bytes (s.lane l).logWin 56)
        ∧ t.rd l R.LOG_CUR_IDX = if s.rd l R.LOG_CUR_AUTO = 1 then (idx + 1) % 2 ^ 20 else idx)
    ∧ (Allowed s l c a false → s.fioAbsent a = true → Kept (exec (.rcRead l c gd a) s) s fun t => gets t 0 ∧ t.regRaw l a = s.regRaw l a)
    ∧ (Allowed s l c a false → s.fioAbsent a = false → rowOf a = some r → busKey a = a → twoNamed a = false → a ≠ R.RTE_HELD_LVL →
        Kept (exec (.rcRead l c gd a) s) s fun t => gets t (s.readReg l c a).1
          ∧ t.regRaw l a = s.regRaw l a &&& ~~~(BitVec.ofNat 64 r.rc))
    ∧ (Allowed s l c a true →
        (setsReserved a v = true → Kept (exec (.registerWrite l c a v) s) s fun t =>
          t.modRegs = s.modRegs ∧ (∀ x, (t.lane x).regs = (s.lane x).regs ∧ (t.lane x).pend = (s.lane x).pend) ∧ t.eng l = s.eng l)
        ∧ (setsReserved a v = false → a ∈ [R.LOG_CUR, R.DNR_TBL_ADDR, R.BST_CTRL, R.PMC_FILT 0, R.PMC_FILT 31] → rowOf a = some r →
          Kept (exec (.registerWrite l c a v) s) s fun t => t.regRaw l a = codedWrite r false (s.regRaw l a) v
            ∧ ∀ b, b ≠ a → t.laneReg l b = s.laneReg l b ∧ t.modReg b = s.modReg b)
        ∧ (setsReserved a v = false → rowOf a = some r → r.voted = true → r.rw ≠ 0 → a ≠ R.STR_GT_DATA → a ≠ R.FIO_OUT_REQ →
          (s.cyc.active = true → s.fioAbsent a = false → Kept (exec (.votedWrite l c a v) s) s fun t =>
            assoc (t.lane l).pend a = some v ∧ t.modRegs = s.modRegs)
          ∧ (s.cyc.active = false ∨ s.fioAbsent a = true → Kept (exec (.votedWrite l c a v) s) s fun t =>
            t.rdM (vwRefuse a) = satAdd (s.rdM (vwRefuse a)) 1 (vwRefuse a).max ∧ (t.lane l).pend = (s.lane l).pend)))

/-- Registers of the engine and of the tasks (R177, R180 to R182, R217, R230, R234, R261, R573): the writes complete for every operand
that sets no reserved bit; what each takes, and the conditions under which it refuses or ignores a write. -/
def Obligations.EngineAndTaskRegisters : Prop :=
  ∀ (s : State) (l : Lane) (c : CoreId) (v : Word) (n : Nat), s.Inv → n < 16 →
    let may (a : Nat) (v : Word) : Prop := Allowed s l c a true ∧ setsReserved a v = false
    let same (t : State) (a : Nat) : Prop := t.laneReg l a = s.laneReg l a
    let takes (t : State) (f : RField) : Prop := t.rd l f = f.of v
    let stamp := s.rd l R.RTE_STAT_STAMP
    let lo := R.RTE_IMG_BASE_BASE.of v * 0x100000
    let size := R.RTE_IMG_BASE_SIZE.of v
    let slot : Prop := (s.eng l).queue = [] ∧ 0x40000000 ≤ lo ∧ lo + size * 0x100000 ≤ 0xC0000000 ∧ size ≤ 256
    let held : Prop := ∃ p ∈ (s.eng l).queue, p.desc.task = n ∧ (p.desc.kindRaw = 1 ∨ p.desc.kindRaw = 2)
    let locked := (s.lane l).locked.contains R.RTE_CTX_BASE
    let ctx := R.RTE_CTX_BASE_BASE.of v * 0x10000
    let count := R.TSK_FORCE_COUNT.of v
    let force := R.TSK_FORCE_BASE.of v * 64
    let trail := R.CMP_SCOPE_TRAIL_BASE.of v * 0x10000
    let inWay : Prop := s.allSpans.any (fun x => overlap x (trail, trail + 0x10000)) = true ∨ spanHits (s.ctxArea l) (trail, trail + 0x10000) = true
    let point := R.CMP_INJECT_POINT.of v
    let open' : Prop := s.mode = mStarting ∨ s.cyc.kind = .conversion
    let tsk (a : Nat) : Prop := may a v →
      (open' → s.taskWriteOk l a v = true → Kept (exec (.taskConfigWrite l c a v) s) s fun t => assoc (t.lane l).tskPend a = some v)
      ∧ (¬ open' ∨ s.taskWriteOk l a v = false → Kept (exec (.taskConfigWrite l c a v) s) s fun t =>
        t.rd l R.TSK_STAT_CFG_REJ = 1 ∧ (t.lane l).tskPend = (s.lane l).tskPend)
    let clear (feature first last : Nat) : Prop := (s.lane l).claims.length < 64 ∧ ∀ r ∈ (s.lane l).claims, r.resource = resBuffer →
      r.feature = feature ∨ r.last < first ∨ last < r.first
    let claimed (t : State) (feature first last : Nat) : Prop := t.rd l R.SEM_CLAIM_RESULT = 0
      ∧ (⟨feature, resBuffer, first, last, false⟩ : ClaimRow) ∈ (t.lane l).claims
    (may R.RTE_CTRL (R.RTE_CTRL_FLUSH.put v 1) → Kept (exec (.flush l c v) s) s fun t => (t.eng l).queue = [] ∧ (t.eng l).hints = []
        ∧ (∀ k, k < 16 → t.rd l (R.RTE_DPREV_VALID k) = 0) ∧ ∀ p ∈ (s.eng l).queue, (p.ticket, 4) ∈ (t.eng l).results)
    ∧ (may R.RTE_CTRL (R.RTE_CTRL_FLUSH.put v 0) → Kept (exec (.engineEnable l c v) s) s fun t => takes t R.RTE_CTRL_PREEMPT
        ∧ takes t R.RTE_CTRL_HINT ∧ takes t R.RTE_CTRL_PRED ∧ (t.eng l).queue = (s.eng l).queue
        ∧ (if R.RTE_CTRL_HINT.of v = 0 then (t.eng l).hints = [] else t.eng l = s.eng l)
        ∧ t.rd l R.RTE_CTRL_EN = if R.RTE_CTRL_EN.of v = 1 ∧ stamp = 0 then s.rd l R.RTE_CTRL_EN else R.RTE_CTRL_EN.of v)
    ∧ (may R.RTE_IMG_BASE v →
        (slot → Kept (exec (.imgBaseWrite l c v) s) s fun t => takes t R.RTE_IMG_BASE_BASE ∧ takes t R.RTE_IMG_BASE_SIZE
          ∧ (s.laneReg l R.RTE_IMG_BASE ≠ v → (t.eng l).hints = []))
        ∧ (¬ slot → Kept (exec (.imgBaseWrite l c v) s) s fun t => same t R.RTE_IMG_BASE ∧ t.rd l R.RTE_STAT_IMG_REJ = 1))
    ∧ (may (R.RTE_DPREV n) v →
        (¬ held → Kept (exec (.dprevWrite l c n v) s) s fun t => takes t (R.RTE_DPREV_VALID n) ∧ takes t (R.RTE_DPREV_DPREV n))
        ∧ (held → Kept (exec (.dprevWrite l c n v) s) s fun t => same t (R.RTE_DPREV n) ∧ t.rd l R.RTE_STAT_DPREV_REJ = 1))
    ∧ (may R.RTE_CTX_BASE v →
        (locked = true → Kept (exec (.ctxBaseWrite l c v) s) s fun t => same t R.RTE_CTX_BASE)
        ∧ (locked = false → R.RTE_CTX_BASE_VALID.of v = 0 → Kept (exec (.ctxBaseWrite l c v) s) s fun t =>
          takes t R.RTE_CTX_BASE_BASE ∧ t.rd l R.RTE_CTX_BASE_VALID = 0)
        ∧ (locked = false → R.RTE_CTX_BASE_VALID.of v = 1 → ctx + 0x24000 ≤ 0x1000000 → clear 7 (pageOf ctx) (pageOf (ctx + 0x23FFF)) →
          Kept (exec (.ctxBaseWrite l c v) s) s fun t => takes t R.RTE_CTX_BASE_BASE ∧ t.rd l R.RTE_CTX_BASE_VALID = 1
            ∧ claimed t 7 (pageOf ctx) (pageOf (ctx + 0x23FFF)))
        ∧ (locked = false → R.RTE_CTX_BASE_VALID.of v = 1 → 0x1000000 < ctx + 0x24000 → Kept (exec (.ctxBaseWrite l c v) s) s fun t =>
          same t R.RTE_CTX_BASE ∧ t.rd l R.SEM_CLAIM_RESULT = 4))
    ∧ (may R.TSK_FORCE v →
        (s.mode ≠ mCommissioning ∨ 256 < count → Kept (exec (.tskForceWrite l c v) s) s fun t => same t R.TSK_FORCE)
        ∧ (s.mode = mCommissioning → count = 0 → Kept (exec (.tskForceWrite l c v) s) s fun t =>
          t.rd l R.TSK_FORCE_COUNT = 0 ∧ takes t R.TSK_FORCE_BASE)
        ∧ (s.mode = mCommissioning → 0 < count → count ≤ 256 → force + 16 * count ≤ 0x1000000 →
          clear 9 (pageOf force) (pageOf (force + 16 * count - 1)) → Kept (exec (.tskForceWrite l c v) s) s fun t =>
            takes t R.TSK_FORCE_COUNT ∧ takes t R.TSK_FORCE_BASE ∧ claimed t 9 (pageOf force) (pageOf (force + 16 * count - 1)))
        ∧ (s.mode = mCommissioning → 0 < count → count ≤ 256 → 0x1000000 < force + 16 * count →
          Kept (exec (.tskForceWrite l c v) s) s fun t => same t R.TSK_FORCE ∧ t.rd l R.SEM_CLAIM_RESULT = 4))
    ∧ tsk R.TSK_RSET ∧ tsk (R.TSK_CFG n)
    ∧ (may R.CMP_INJECT v →
        (s.mode = mStarting → Kept (exec (.cmpInjectWrite l c v) s) s fun t => takes t R.CMP_INJECT_POINT ∧ takes t R.CMP_INJECT_LANE
          ∧ takes t R.CMP_INJECT_BIT ∧ takes t R.CMP_INJECT_CHAN ∧ t.rd l R.CMP_INJECT_NAMED = 0 ∧ t.rd l R.CMP_INJECT_DONE = 0
          ∧ (t.lane l).injectNext = if R.CMP_INJECT_LANE.of v = l.code ∧ 1 ≤ point ∧ point ≤ 9 then
              some (point, R.CMP_INJECT_BIT.of v, R.CMP_INJECT_CHAN.of v == 1) else none)
        ∧ (s.mode ≠ mStarting → Kept (exec (.cmpInjectWrite l c v) s) s fun t =>
          same t R.CMP_INJECT ∧ (t.lane l).injectNext = (s.lane l).injectNext))
    ∧ (may R.CMP_SCOPE v →
        (R.CMP_SCOPE_TRAIL_EN.of v = 0 → Kept (exec (.cmpScopeWrite l c v) s) s fun t =>
          t.rd l R.CMP_SCOPE_TRAIL_EN = 0 ∧ takes t R.CMP_SCOPE_TRAIL_TASK ∧ takes t R.CMP_SCOPE_TRAIL_BASE)
        ∧ (R.CMP_SCOPE_TRAIL_EN.of v = 1 → ¬ inWay → clear 8 (pageOf trail) (pageOf (trail + 0xFFFF)) →
          Kept (exec (.cmpScopeWrite l c v) s) s fun t => t.rd l R.CMP_SCOPE_TRAIL_EN = 1 ∧ takes t R.CMP_SCOPE_TRAIL_TASK
            ∧ takes t R.CMP_SCOPE_TRAIL_BASE ∧ claimed t 8 (pageOf trail) (pageOf (trail + 0xFFFF)))
        ∧ (R.CMP_SCOPE_TRAIL_EN.of v = 1 → inWay → Kept (exec (.cmpScopeWrite l c v) s) s fun t =>
          same t R.CMP_SCOPE ∧ t.rd l R.SEM_CLAIM_RESULT = 4))

/-- Counters, check-value units and test aids (R537, R541 to R549): which selection closes a counter, what INIT and EN do, and that
the test aids act only in COMMISSIONING while unlocked. Which token unlocks them rests on cryptography (log entry 4): the
statement says what happens either way. -/
def Obligations.CountersAndTestAids : Prop :=
  ∀ (s : State) (l : Lane) (c : CoreId) (v : Word) (n u : Nat), s.Inv → n < 32 → u < 8 →
    let w (i : Instr) (a : Nat) (v : Word) (P : State → Prop) : Prop :=
      Allowed s l c a true → setsReserved a v = false → Kept (exec i s) s P
    let same (t : State) (a : Nat) : Prop := t.laneReg l a = s.laneReg l a
    let takes (t : State) (f : RField) : Prop := t.rd l f = f.of v
    let e := (R.PMC_SEL_EVENT n).of v
    let old := s.rd l (R.PMC_SEL_EVENT n)
    let uac (t : State) (k : Nat) : Bool := bit (t.rd l R.PMC_UAC_OPEN) k
    let en := (R.CRC_CFG_EN u).of v
    let free : Prop := (s.lane l).claims.length < 64 ∧ ∀ r ∈ (s.lane l).claims, r.resource ≠ 0x100 + u
    let taken : Prop := ∃ r ∈ (s.lane l).claims, r.resource = 0x100 + u ∧ r.feature ≠ 4 ∧ r.dflt = false
    let aids : Prop := s.mode = mCommissioning ∧ s.rdM R.TST_STAT_UNLOCKED = 1
    let open' : Prop := s.mode = mCommissioning ∧ s.rdM R.TST_STAT_LOCKOUT = 0
    let kind := R.TST_INJ_KIND.of v
    let addr := R.TST_INJ_ADDR.of v * 8
    let hit := damageSyms (R.TST_INJ_SYMS.of v) (R.TST_INJ_PAT.of v) ((s.lane l).data addr) ((s.lane l).check addr)
    let point := R.TST_INJ_POINT3.of v
    w (.pmcSelWrite l c n v) (R.PMC_SEL n) v (fun t => takes t (R.PMC_SEL_EN n) ∧ takes t (R.PMC_SEL_CHAIN n)
        ∧ (t.rd l (R.PMC_SEL_EVENT n) = if e = 0x3F then old else e)
        ∧ ((if e = 0x3F then old else e) / 64 ≠ 3 → uac t n = false) ∧ ∀ k, k ≠ n → uac t k = uac s k)
    ∧ w (.pmcUacWrite l c v) R.PMC_UAC v (fun t => ∀ k, k < 32 → (bit v.toNat k = false → uac t k = false)
        ∧ (bit v.toNat k = true → uac s k = true → uac t k = true)
        ∧ (uac s k = false → s.rd l (R.PMC_SEL_EVENT k) / 64 ≠ 3 → uac t k = false))
    ∧ w (.crcInit l c u v) (R.CRC_CFG u) ((R.CRC_CFG_INIT u).put v 1) (fun t =>
        (en = 0 ∨ s.rd l (R.CRC_CFG_EN u) = 1 ∨ free → takes t (R.CRC_CFG_EN u) ∧ takes t (R.CRC_CFG_POLY u)
          ∧ t.rd l (R.CRC_VAL_VAL u) = (crcParam ((R.CRC_CFG_POLY u).of v)).2.2.2.1 % 2 ^ 64)
        ∧ (en = 1 → s.rd l (R.CRC_CFG_EN u) = 0 → taken → (∀ r ∈ (s.lane l).claims, r.resource = 0x100 + u → r.feature ≠ 4 ∧ r.dflt = false) →
          same t (R.CRC_CFG u) ∧ same t (R.CRC_VAL u)))
    ∧ w (.crcEnable l c u v) (R.CRC_CFG u) ((R.CRC_CFG_INIT u).put v 0) (fun t =>
        (en = 0 ∨ s.rd l (R.CRC_CFG_EN u) = 1 ∨ free → takes t (R.CRC_CFG_EN u) ∧ takes t (R.CRC_CFG_POLY u)) ∧ same t (R.CRC_VAL u))
    ∧ w (.crcValWrite l c u v) (R.CRC_VAL u) v (fun t =>
        t.rd l (R.CRC_VAL_VAL u) = v.toNat % 2 ^ (crcParam (s.rd l (R.CRC_CFG_POLY u))).1 % 2 ^ 64 ∧ same t (R.CRC_CFG u))
    ∧ w (.tstToken l c v) R.TST_KEY v (fun t => (¬ open' → t = s)
        ∧ (open' → (l, v) ∈ s.sec.judged → t = { s with sec := { s.sec with judged := s.sec.judged.filter (· != (l, v)) } })
        ∧ (open' → (l, v) ∉ s.sec.judged → (∀ m, m ≠ l → (m, v) ∈ t.sec.judged)
        ∧ (s.tokenWanted = some v → t.rdM R.TST_STAT_UNLOCKED = 1 ∧ t.rdM R.TST_STAT_FAILS = s.rdM R.TST_STAT_FAILS)
        ∧ (s.tokenWanted ≠ some v → t.rdM R.TST_STAT_FAILS = min 3 (s.rdM R.TST_STAT_FAILS + 1)
          ∧ t.rdM R.TST_STAT_UNLOCKED = s.rdM R.TST_STAT_UNLOCKED ∧ (2 ≤ s.rdM R.TST_STAT_FAILS → t.rdM R.TST_STAT_LOCKOUT = 1))))
    ∧ w (.tstDelayWrite l c v) R.TST_DELAY v (fun t => (aids → takes t R.TST_DELAY_XLE ∧ takes t R.TST_DELAY_DNR) ∧ (¬ aids → t = s))
    ∧ w (.tstBpWrite l c v) R.TST_BP v (fun t => (aids → takes t R.TST_BP_DRAM ∧ takes t R.TST_BP_ENG) ∧ (¬ aids → t = s))
    ∧ ((kind = 1 ∧ isSram addr = true) ∨ (kind = 2 ∧ isDram addr = true) → R.TST_INJ_PAT.of v ≠ 0 →
        w (.memoryInject l c v) R.TST_INJ v fun t => (¬ aids → t = s)
          ∧ (aids → (t.lane l).data addr = hit.1 ∧ (t.lane l).check addr = hit.2 ∧ t.rd l R.TST_STAT_INJ_DONE = 1
            ∧ ∀ b, b < addr ∨ addr + 8 ≤ b → (t.lane l).byte b = (s.lane l).byte b))
    ∧ (1 ≤ point → point ≤ 9 → w (.comparatorInject l c v) R.TST_INJ (R.TST_INJ_KIND.put v 3) fun t => (¬ aids → t = s)
        ∧ (aids → t.rd l R.TST_STAT_INJ_DONE = 0
          ∧ (t.lane l).injectNext = some (point, R.TST_INJ_BIT3.of v, R.TST_INJ_CHAN3.of v == 1)))

/-! ## The queue, the invariant and reset -/

/-- A step runs the command at the front of the queue on the machine with the rest of the queue, and answers its outcome; with
nothing waiting it leaves the machine as it is (the model's choice, log entry 7). -/
def Obligations.StepRunsFront : Prop :=
  ∀ (s : State), (∀ (i : Instr) (rest : List Instr), s.pending = i :: rest → step s = exec i { s with pending := rest })
    ∧ (s.pending = [] → step s = .next s)

/-- Every step keeps the invariant: every core's g0 is zero and its level legal, memories, check bytes and registers are in
canonical form, and no engine holds more than four descriptors. A step takes one command from the queue and adds none. -/
def Obligations.StepKeepsInvariant : Prop :=
  ∀ (s t : State), s.Inv → step s = .next t → t.Inv ∧ t.pending = s.pending.drop 1

/-- Reset (R33, R47, R48, R48a, R87 and the reset columns of the register tables): the invariant holds, the queue is empty, both
cores of every lane stand at level K with interrupts off, and every register whose reset value the spec gives has it. That reset
is the entry to STARTING is the model's reading (log entry 1); that memory nothing has written reads zero, and what a register reads
whose reset value the spec does not give, are its choices (log entry 2). -/
def Obligations.ResetState : Prop :=
  State.reset.Inv ∧ State.reset.pending = [] ∧ State.reset.mode = mStarting
  ∧ (∀ l c, (State.reset.core l c).level = .k ∧ (State.reset.core l c).ie = false ∧ (∀ g, (State.reset.core l c).g g = 0)
      ∧ (State.reset.core l c).resv = none)
  ∧ (∀ l a, State.reset.regRaw l a = resetOf a) ∧ (∀ l a, (State.reset.lane l).byte a = 0)
  ∧ (let holds (f : RField) (n : Nat) : Prop := ∀ l, f.of (State.reset.regRaw l f.addr) = n
    (∀ q ∈ [(R.RTE_CTRL_EN, 0), (R.RTE_CTRL_PREEMPT, 1), (R.RTE_CTRL_HINT, 1), (R.RTE_CTRL_PRED, 1), (R.TSK_RSET_PERIOD, 10),
        (R.CMP_MISMATCH_FIRST_WIN, 0xFFFF), (R.MEM_SCRUB_PERIOD, 300), (R.MEM_SCRUB_POS_DPOS, 0x40000000), (R.MEM_SCRUB_POS_SPOS, 0),
        (R.DNR_CTRL_LISTEN_BASE, 3), (R.STR_WINDOW_LATE, 400), (R.STR_WINDOW_EARLY, 400)], holds q.1 q.2)
    ∧ (∀ q ∈ [(R.TIM_STAT_DOM, 3), (R.TIM_PPS_WIDTH, 100), (R.TWN_SWAP_HOURS, 24), (R.FIO_IN_UNK_UNK, 0xFFFFFFFFFFFF), (R.FIO_PULSE_EN, 1),
        (R.FIO_PULSE_TP, 800), (R.FIO_PULSE_DARK, 200), (R.FIO_PULSE_LIGHT, 30), (R.FIO_FB_SETTLE, 100), (R.PWR_BUDGET_FIELD_LIMIT, 60000),
        (R.PWR_BUDGET_MOD_LIMIT, 61600), (R.UPD_CTRL_CMP_RS, 8), (R.UPD_CTRL_TIMEOUT, 60), (R.LOG_FREEZE_TMO, 10), (R.LOG_RATE_LIMIT, 10)],
        holds q.1 q.2)
    ∧ (∀ q ∈ [(R.ARB_PRIO_MAC, 7), (R.ARB_PRIO_XLE, 6), (R.ARB_PRIO_SCRUB_U, 5), (R.ARB_PRIO_CORE0, 4), (R.ARB_PRIO_ENGINE, 3),
        (R.ARB_PRIO_CORE1, 2), (R.ARB_PRIO_SCRUB_N, 1), (R.ARB_HOLDMAX_ENG, 4000), (R.ARB_HOLDMAX_DRAM, 10)], holds q.1 q.2)
    ∧ (∀ n, n < 48 → holds (R.FIO_DEB_TYPE n) 1 ∧ holds (R.FIO_DEB_DEB n) 5000)
    ∧ ∀ n, n < 32 → holds (R.PMC_FILT_LVL n) 7 ∧ holds (R.PMC_FILT_MASTER n) 0x7F)
end

