-- ==== Sys2Proof/Laws/Maps.lean ====
section
/-! SUPPORT. Laws/Maps.lean: the sorted maps. A read after a write gives the value written, a write leaves every other key
alone, and every operation keeps the canonical form. -/
namespace Sys2Proof.Machine

theorem mapWf_cons {β : Type} [DecidableEq β] (d : Nat → β) (k : Nat) (v : β) (m : List (Nat × β)) :
    mapWf d ((k, v) :: m) = true ↔ v ≠ d k ∧ (∀ p ∈ m, k < p.1) ∧ mapWf d m = true := by
  induction m generalizing k v with
  | nil => simp [mapWf]
  | cons q m ih =>
    obtain ⟨k', v'⟩ := q
    have hm := ih k' v'
    simp only [mapWf, Bool.and_eq_true, Bool.not_eq_true', decide_eq_false_iff_not, decide_eq_true_eq, List.mem_cons,
      forall_eq_or_imp]
    rw [hm]
    constructor
    · rintro ⟨⟨h1, h2⟩, h3, h4, h5⟩
      exact ⟨h1, ⟨h2, fun p hp => h2.trans (h4 p hp)⟩, h3, h4, h5⟩
    · rintro ⟨h1, ⟨h2, _⟩, h3⟩
      exact ⟨⟨h1, h2⟩, h3⟩

theorem mapWf_nil {β : Type} [DecidableEq β] (d : Nat → β) : mapWf d [] = true := rfl

theorem mem_mapErase {β : Type} {m : List (Nat × β)} {a : Nat} {p : Nat × β} (h : p ∈ mapErase m a) : p ∈ m := by
  induction m with
  | nil => simp [mapErase] at h
  | cons q m ih =>
    obtain ⟨k, v⟩ := q
    rw [mapErase] at h
    split at h
    · exact List.mem_cons_of_mem _ h
    · rcases List.mem_cons.1 h with h | h
      · exact h ▸ List.mem_cons_self
      · exact List.mem_cons_of_mem _ (ih h)

theorem mem_mapInsert {β : Type} {m : List (Nat × β)} {a : Nat} {v : β} {p : Nat × β} (h : p ∈ mapInsert m a v) :
    p = (a, v) ∨ p ∈ m := by
  induction m with
  | nil => simpa [mapInsert] using h
  | cons q m ih =>
    obtain ⟨k, w⟩ := q
    rw [mapInsert] at h
    split at h
    · simpa using h
    · split at h <;> rcases List.mem_cons.1 h with h | h
      · exact .inl h
      · exact .inr (List.mem_cons_of_mem _ h)
      · exact .inr (h ▸ List.mem_cons_self)
      · exact (ih h).imp id (List.mem_cons_of_mem _)

theorem mapErase_wf {β : Type} [DecidableEq β] {d : Nat → β} {m : List (Nat × β)} (a : Nat) (h : mapWf d m = true) :
    mapWf d (mapErase m a) = true := by
  induction m with
  | nil => exact h
  | cons q m ih =>
    obtain ⟨k, v⟩ := q
    obtain ⟨h1, h2, h3⟩ := (mapWf_cons ..).1 h
    rw [mapErase]
    split
    · exact h3
    · exact (mapWf_cons ..).2 ⟨h1, fun p hp => h2 p (mem_mapErase hp), ih h3⟩

theorem mapInsert_wf {β : Type} [DecidableEq β] {d : Nat → β} {m : List (Nat × β)} {a : Nat} {v : β} (hv : v ≠ d a)
    (h : mapWf d m = true) : mapWf d (mapInsert m a v) = true := by
  induction m with
  | nil => simpa [mapInsert, mapWf] using hv
  | cons q m ih =>
    obtain ⟨k, w⟩ := q
    obtain ⟨h1, h2, h3⟩ := (mapWf_cons ..).1 h
    rw [mapInsert]
    split
    · rename_i ha
      refine (mapWf_cons ..).2 ⟨hv, ?_, h⟩
      intro p hp
      rcases List.mem_cons.1 hp with rfl | hp
      · exact ha
      · exact ha.trans (h2 p hp)
    · split
      · rename_i _ ha
        subst ha
        exact (mapWf_cons ..).2 ⟨hv, h2, h3⟩
      · refine (mapWf_cons ..).2 ⟨h1, ?_, ih h3⟩
        intro p hp
        rcases mem_mapInsert hp with rfl | hp
        · simp only; omega
        · exact h2 p hp

/-- A write keeps the canonical form. -/
theorem mapSet_wf {β : Type} [DecidableEq β] {d : Nat → β} {m : List (Nat × β)} (a : Nat) (v : β) (h : mapWf d m = true) :
    mapWf d (mapSet d m a v) = true := by
  rw [mapSet]
  split
  · exact mapErase_wf a h
  · exact mapInsert_wf ‹_› h

theorem mapGet_of_lt {β : Type} {d : Nat → β} {m : List (Nat × β)} {a : Nat} (h : ∀ p ∈ m, a < p.1) : mapGet d m a = d a := by
  induction m with
  | nil => rfl
  | cons q m ih =>
    have := h q List.mem_cons_self
    rw [mapGet, if_neg (by omega)]
    exact ih fun p hp => h p (List.mem_cons_of_mem _ hp)

theorem mapGet_mapErase_other {β : Type} {d : Nat → β} {m : List (Nat × β)} {a b : Nat} (hab : b ≠ a) :
    mapGet d (mapErase m a) b = mapGet d m b := by
  induction m with
  | nil => rfl
  | cons q m ih =>
    obtain ⟨k, v⟩ := q
    rw [mapErase]
    split
    · rename_i hk
      rw [mapGet, if_neg (by omega)]
    · rw [mapGet, mapGet, ih]

theorem mapGet_mapErase_same {β : Type} [DecidableEq β] {d : Nat → β} {m : List (Nat × β)} {a : Nat} (h : mapWf d m = true) :
    mapGet d (mapErase m a) a = d a := by
  induction m with
  | nil => rfl
  | cons q m ih =>
    obtain ⟨k, v⟩ := q
    obtain ⟨_, h2, h3⟩ := (mapWf_cons ..).1 h
    rw [mapErase]
    split
    · rename_i hk
      exact mapGet_of_lt (hk ▸ h2)
    · rw [mapGet, if_neg ‹_›, ih h3]

theorem mapGet_mapInsert {β : Type} {d : Nat → β} (m : List (Nat × β)) (a b : Nat) (v : β) :
    mapGet d (mapInsert m a v) b = if b = a then v else mapGet d m b := by
  induction m with
  | nil => simp [mapInsert, mapGet]
  | cons q m ih =>
    obtain ⟨k, w⟩ := q
    rw [mapInsert]
    split
    · rw [mapGet]
    · split
      · rename_i _ hk
        subst hk
        simp only [mapGet]
        split <;> rfl
      · simp only [mapGet, ih]
        split
        · rename_i hb
          rw [if_neg (by omega)]
        · rfl

/-- A read after a write to the same key gives the value written. -/
theorem mapGet_mapSet_same {β : Type} [DecidableEq β] {d : Nat → β} {m : List (Nat × β)} {a : Nat} {v : β}
    (h : mapWf d m = true) : mapGet d (mapSet d m a v) a = v := by
  rw [mapSet]
  split
  · rw [mapGet_mapErase_same h]; exact Eq.symm ‹_›
  · simp [mapGet_mapInsert]

/-- A write leaves every other key alone. -/
theorem mapGet_mapSet_other {β : Type} [DecidableEq β] {d : Nat → β} {m : List (Nat × β)} {a b : Nat} {v : β} (hab : b ≠ a) :
    mapGet d (mapSet d m a v) b = mapGet d m b := by
  rw [mapSet]
  split
  · exact mapGet_mapErase_other hab
  · rw [mapGet_mapInsert, if_neg hab]

/-- Equal reads at every key make equal maps: the canonical form has one list for one memory. -/
theorem mapWf_ext {β : Type} [DecidableEq β] {d : Nat → β} {m n : List (Nat × β)} (hm : mapWf d m = true) (hn : mapWf d n = true)
    (h : ∀ a, mapGet d m a = mapGet d n a) : m = n := by
  induction m generalizing n with
  | nil =>
    cases n with
    | nil => rfl
    | cons q n =>
      obtain ⟨h1, _, _⟩ := (mapWf_cons ..).1 hn
      have := h q.1
      simp only [mapGet, if_true] at this
      exact absurd this.symm h1
  | cons p m ih =>
    obtain ⟨k, v⟩ := p
    obtain ⟨h1, h2, h3⟩ := (mapWf_cons ..).1 hm
    cases n with
    | nil =>
      have := h k
      simp only [mapGet, if_true] at this
      exact absurd this h1
    | cons q n =>
      obtain ⟨k', v'⟩ := q
      obtain ⟨h1', h2', h3'⟩ := (mapWf_cons ..).1 hn
      have hk : k = k' := by
        rcases Nat.lt_trichotomy k k' with hlt | heq | hlt
        · have := h k
          rw [mapGet, if_pos rfl, mapGet_of_lt (m := (k', v') :: n)] at this
          · exact absurd this h1
          · intro p hp
            rcases List.mem_cons.1 hp with rfl | hp
            · exact hlt
            · exact hlt.trans (h2' p hp)
        · exact heq
        · have := h k'
          rw [mapGet_of_lt (m := (k, v) :: m), mapGet, if_pos rfl] at this
          · exact absurd this.symm h1'
          · intro p hp
            rcases List.mem_cons.1 hp with rfl | hp
            · exact hlt
            · exact hlt.trans (h2 p hp)
      subst hk
      have hv := h k
      simp only [mapGet, if_true] at hv
      subst hv
      congr 1
      refine ih h3 h3' fun a => ?_
      by_cases ha : a = k
      · subst ha
        rw [mapGet_of_lt h2, mapGet_of_lt h2']
      · have := h a
        rwa [mapGet, mapGet, if_neg ha, if_neg ha] at this

/-- Bytes written keep the canonical form of a memory. -/
theorem putBytes_wf {m : List Host.Cell} (a v n : Nat) (h : mapWf memDefault m = true) :
    mapWf memDefault (putBytes m a v n) = true := by
  induction n with
  | zero => exact h
  | succ n ih => exact mapSet_wf _ _ ih

/-- Bytes written: the byte at each address afterwards. -/
theorem putBytes_get {m : List Host.Cell} (a v n b : Nat) (h : mapWf memDefault m = true) :
    mapGet memDefault (putBytes m a v n) b =
      if a ≤ b ∧ b < a + n then BitVec.ofNat 8 (v >>> (8 * (b - a))) else mapGet memDefault m b := by
  induction n with
  | zero => rw [putBytes, if_neg (by omega)]
  | succ n ih =>
    rw [putBytes]
    by_cases hb : b = a + n
    · subst hb
      rw [mapGet_mapSet_same (putBytes_wf _ _ _ h), if_pos (by omega)]
      congr 2
      omega
    · rw [mapGet_mapSet_other hb, ih]
      by_cases hc : a ≤ b ∧ b < a + n
      · rw [if_pos hc, if_pos (by omega)]
      · rw [if_neg hc, if_neg (by omega)]

end Sys2Proof.Machine
end

