-- ==== Sys2Proof/Laws/State.lean ====
section
/-! SUPPORT. Laws/State.lean: the fields of the state after each named update, one lemma per field and update, so that no
proof unfolds a record update. -/
namespace Sys2Proof.Machine


/-! ### one lane -/

@[simp] theorem State.onLane_modRegs (s : State) (l : Lane) (f : LaneState → LaneState) : (s.onLane l f).modRegs = s.modRegs := rfl
@[simp] theorem State.onLane_cyc (s : State) (l : Lane) (f : LaneState → LaneState) : (s.onLane l f).cyc = s.cyc := rfl
@[simp] theorem State.onLane_net (s : State) (l : Lane) (f : LaneState → LaneState) : (s.onLane l f).net = s.net := rfl
@[simp] theorem State.onLane_time (s : State) (l : Lane) (f : LaneState → LaneState) : (s.onLane l f).time = s.time := rfl
@[simp] theorem State.onLane_tele (s : State) (l : Lane) (f : LaneState → LaneState) : (s.onLane l f).tele = s.tele := rfl
@[simp] theorem State.onLane_twin (s : State) (l : Lane) (f : LaneState → LaneState) : (s.onLane l f).twin = s.twin := rfl
@[simp] theorem State.onLane_field (s : State) (l : Lane) (f : LaneState → LaneState) : (s.onLane l f).field = s.field := rfl
@[simp] theorem State.onLane_power (s : State) (l : Lane) (f : LaneState → LaneState) : (s.onLane l f).power = s.power := rfl
@[simp] theorem State.onLane_d0 (s : State) (l : Lane) (f : LaneState → LaneState) : (s.onLane l f).d0 = s.d0 := rfl
@[simp] theorem State.onLane_sec (s : State) (l : Lane) (f : LaneState → LaneState) : (s.onLane l f).sec = s.sec := rfl
@[simp] theorem State.onLane_upd (s : State) (l : Lane) (f : LaneState → LaneState) : (s.onLane l f).upd = s.upd := rfl
@[simp] theorem State.onLane_log (s : State) (l : Lane) (f : LaneState → LaneState) : (s.onLane l f).log = s.log := rfl
@[simp] theorem State.onLane_free (s : State) (l : Lane) (f : LaneState → LaneState) : (s.onLane l f).free = s.free := rfl
@[simp] theorem State.onLane_pending (s : State) (l : Lane) (f : LaneState → LaneState) : (s.onLane l f).pending = s.pending := rfl
@[simp] theorem State.onLane_lanes (s : State) (l : Lane) (f : LaneState → LaneState) : (s.onLane l f).lanes = s.lanes.set l (f (s.lanes.get l)) := rfl

/-! ### one core -/

@[simp] theorem State.onCore_modRegs (s : State) (l : Lane) (c : CoreId) (f : Core → Core) : (s.onCore l c f).modRegs = s.modRegs := rfl
@[simp] theorem State.onCore_cyc (s : State) (l : Lane) (c : CoreId) (f : Core → Core) : (s.onCore l c f).cyc = s.cyc := rfl
@[simp] theorem State.onCore_net (s : State) (l : Lane) (c : CoreId) (f : Core → Core) : (s.onCore l c f).net = s.net := rfl
@[simp] theorem State.onCore_time (s : State) (l : Lane) (c : CoreId) (f : Core → Core) : (s.onCore l c f).time = s.time := rfl
@[simp] theorem State.onCore_tele (s : State) (l : Lane) (c : CoreId) (f : Core → Core) : (s.onCore l c f).tele = s.tele := rfl
@[simp] theorem State.onCore_twin (s : State) (l : Lane) (c : CoreId) (f : Core → Core) : (s.onCore l c f).twin = s.twin := rfl
@[simp] theorem State.onCore_field (s : State) (l : Lane) (c : CoreId) (f : Core → Core) : (s.onCore l c f).field = s.field := rfl
@[simp] theorem State.onCore_power (s : State) (l : Lane) (c : CoreId) (f : Core → Core) : (s.onCore l c f).power = s.power := rfl
@[simp] theorem State.onCore_d0 (s : State) (l : Lane) (c : CoreId) (f : Core → Core) : (s.onCore l c f).d0 = s.d0 := rfl
@[simp] theorem State.onCore_sec (s : State) (l : Lane) (c : CoreId) (f : Core → Core) : (s.onCore l c f).sec = s.sec := rfl
@[simp] theorem State.onCore_upd (s : State) (l : Lane) (c : CoreId) (f : Core → Core) : (s.onCore l c f).upd = s.upd := rfl
@[simp] theorem State.onCore_log (s : State) (l : Lane) (c : CoreId) (f : Core → Core) : (s.onCore l c f).log = s.log := rfl
@[simp] theorem State.onCore_free (s : State) (l : Lane) (c : CoreId) (f : Core → Core) : (s.onCore l c f).free = s.free := rfl
@[simp] theorem State.onCore_pending (s : State) (l : Lane) (c : CoreId) (f : Core → Core) : (s.onCore l c f).pending = s.pending := rfl

/-! ### a register of the lane -/

@[simp] theorem State.setLaneReg_modRegs (s : State) (l : Lane) (a : Nat) (w : Word) : (s.setLaneReg l a w).modRegs = s.modRegs := rfl
@[simp] theorem State.setLaneReg_cyc (s : State) (l : Lane) (a : Nat) (w : Word) : (s.setLaneReg l a w).cyc = s.cyc := rfl
@[simp] theorem State.setLaneReg_net (s : State) (l : Lane) (a : Nat) (w : Word) : (s.setLaneReg l a w).net = s.net := rfl
@[simp] theorem State.setLaneReg_time (s : State) (l : Lane) (a : Nat) (w : Word) : (s.setLaneReg l a w).time = s.time := rfl
@[simp] theorem State.setLaneReg_tele (s : State) (l : Lane) (a : Nat) (w : Word) : (s.setLaneReg l a w).tele = s.tele := rfl
@[simp] theorem State.setLaneReg_twin (s : State) (l : Lane) (a : Nat) (w : Word) : (s.setLaneReg l a w).twin = s.twin := rfl
@[simp] theorem State.setLaneReg_field (s : State) (l : Lane) (a : Nat) (w : Word) : (s.setLaneReg l a w).field = s.field := rfl
@[simp] theorem State.setLaneReg_power (s : State) (l : Lane) (a : Nat) (w : Word) : (s.setLaneReg l a w).power = s.power := rfl
@[simp] theorem State.setLaneReg_d0 (s : State) (l : Lane) (a : Nat) (w : Word) : (s.setLaneReg l a w).d0 = s.d0 := rfl
@[simp] theorem State.setLaneReg_sec (s : State) (l : Lane) (a : Nat) (w : Word) : (s.setLaneReg l a w).sec = s.sec := rfl
@[simp] theorem State.setLaneReg_upd (s : State) (l : Lane) (a : Nat) (w : Word) : (s.setLaneReg l a w).upd = s.upd := rfl
@[simp] theorem State.setLaneReg_log (s : State) (l : Lane) (a : Nat) (w : Word) : (s.setLaneReg l a w).log = s.log := rfl
@[simp] theorem State.setLaneReg_free (s : State) (l : Lane) (a : Nat) (w : Word) : (s.setLaneReg l a w).free = s.free := rfl
@[simp] theorem State.setLaneReg_pending (s : State) (l : Lane) (a : Nat) (w : Word) : (s.setLaneReg l a w).pending = s.pending := rfl

/-! ### a register of the module -/

@[simp] theorem State.setModReg_lanes (s : State) (a : Nat) (w : Word) : (s.setModReg a w).lanes = s.lanes := rfl
@[simp] theorem State.setModReg_cyc (s : State) (a : Nat) (w : Word) : (s.setModReg a w).cyc = s.cyc := rfl
@[simp] theorem State.setModReg_net (s : State) (a : Nat) (w : Word) : (s.setModReg a w).net = s.net := rfl
@[simp] theorem State.setModReg_time (s : State) (a : Nat) (w : Word) : (s.setModReg a w).time = s.time := rfl
@[simp] theorem State.setModReg_tele (s : State) (a : Nat) (w : Word) : (s.setModReg a w).tele = s.tele := rfl
@[simp] theorem State.setModReg_twin (s : State) (a : Nat) (w : Word) : (s.setModReg a w).twin = s.twin := rfl
@[simp] theorem State.setModReg_field (s : State) (a : Nat) (w : Word) : (s.setModReg a w).field = s.field := rfl
@[simp] theorem State.setModReg_power (s : State) (a : Nat) (w : Word) : (s.setModReg a w).power = s.power := rfl
@[simp] theorem State.setModReg_d0 (s : State) (a : Nat) (w : Word) : (s.setModReg a w).d0 = s.d0 := rfl
@[simp] theorem State.setModReg_sec (s : State) (a : Nat) (w : Word) : (s.setModReg a w).sec = s.sec := rfl
@[simp] theorem State.setModReg_upd (s : State) (a : Nat) (w : Word) : (s.setModReg a w).upd = s.upd := rfl
@[simp] theorem State.setModReg_log (s : State) (a : Nat) (w : Word) : (s.setModReg a w).log = s.log := rfl
@[simp] theorem State.setModReg_free (s : State) (a : Nat) (w : Word) : (s.setModReg a w).free = s.free := rfl
@[simp] theorem State.setModReg_pending (s : State) (a : Nat) (w : Word) : (s.setModReg a w).pending = s.pending := rfl
@[simp] theorem State.setModReg_modRegs (s : State) (a : Nat) (w : Word) : (s.setModReg a w).modRegs = mapSet resetOf s.modRegs a w := rfl

/-! ### a field of a lane register -/

@[simp] theorem State.wr_modRegs (s : State) (l : Lane) (r : RField) (v : Nat) : (s.wr l r v).modRegs = s.modRegs := rfl
@[simp] theorem State.wr_cyc (s : State) (l : Lane) (r : RField) (v : Nat) : (s.wr l r v).cyc = s.cyc := rfl
@[simp] theorem State.wr_net (s : State) (l : Lane) (r : RField) (v : Nat) : (s.wr l r v).net = s.net := rfl
@[simp] theorem State.wr_time (s : State) (l : Lane) (r : RField) (v : Nat) : (s.wr l r v).time = s.time := rfl
@[simp] theorem State.wr_tele (s : State) (l : Lane) (r : RField) (v : Nat) : (s.wr l r v).tele = s.tele := rfl
@[simp] theorem State.wr_twin (s : State) (l : Lane) (r : RField) (v : Nat) : (s.wr l r v).twin = s.twin := rfl
@[simp] theorem State.wr_field (s : State) (l : Lane) (r : RField) (v : Nat) : (s.wr l r v).field = s.field := rfl
@[simp] theorem State.wr_power (s : State) (l : Lane) (r : RField) (v : Nat) : (s.wr l r v).power = s.power := rfl
@[simp] theorem State.wr_d0 (s : State) (l : Lane) (r : RField) (v : Nat) : (s.wr l r v).d0 = s.d0 := rfl
@[simp] theorem State.wr_sec (s : State) (l : Lane) (r : RField) (v : Nat) : (s.wr l r v).sec = s.sec := rfl
@[simp] theorem State.wr_upd (s : State) (l : Lane) (r : RField) (v : Nat) : (s.wr l r v).upd = s.upd := rfl
@[simp] theorem State.wr_log (s : State) (l : Lane) (r : RField) (v : Nat) : (s.wr l r v).log = s.log := rfl
@[simp] theorem State.wr_free (s : State) (l : Lane) (r : RField) (v : Nat) : (s.wr l r v).free = s.free := rfl
@[simp] theorem State.wr_pending (s : State) (l : Lane) (r : RField) (v : Nat) : (s.wr l r v).pending = s.pending := rfl

/-! ### a field of a module register -/

@[simp] theorem State.wrM_lanes (s : State) (r : RField) (v : Nat) : (s.wrM r v).lanes = s.lanes := rfl
@[simp] theorem State.wrM_cyc (s : State) (r : RField) (v : Nat) : (s.wrM r v).cyc = s.cyc := rfl
@[simp] theorem State.wrM_net (s : State) (r : RField) (v : Nat) : (s.wrM r v).net = s.net := rfl
@[simp] theorem State.wrM_time (s : State) (r : RField) (v : Nat) : (s.wrM r v).time = s.time := rfl
@[simp] theorem State.wrM_tele (s : State) (r : RField) (v : Nat) : (s.wrM r v).tele = s.tele := rfl
@[simp] theorem State.wrM_twin (s : State) (r : RField) (v : Nat) : (s.wrM r v).twin = s.twin := rfl
@[simp] theorem State.wrM_field (s : State) (r : RField) (v : Nat) : (s.wrM r v).field = s.field := rfl
@[simp] theorem State.wrM_power (s : State) (r : RField) (v : Nat) : (s.wrM r v).power = s.power := rfl
@[simp] theorem State.wrM_d0 (s : State) (r : RField) (v : Nat) : (s.wrM r v).d0 = s.d0 := rfl
@[simp] theorem State.wrM_sec (s : State) (r : RField) (v : Nat) : (s.wrM r v).sec = s.sec := rfl
@[simp] theorem State.wrM_upd (s : State) (r : RField) (v : Nat) : (s.wrM r v).upd = s.upd := rfl
@[simp] theorem State.wrM_log (s : State) (r : RField) (v : Nat) : (s.wrM r v).log = s.log := rfl
@[simp] theorem State.wrM_free (s : State) (r : RField) (v : Nat) : (s.wrM r v).free = s.free := rfl
@[simp] theorem State.wrM_pending (s : State) (r : RField) (v : Nat) : (s.wrM r v).pending = s.pending := rfl

/-! ### an event of one lane -/

@[simp] theorem State.eventL_lanes (s : State) (l : Lane) (code : Nat) (d : List Nat) : (s.eventL l code d).lanes = s.lanes := rfl
@[simp] theorem State.eventL_modRegs (s : State) (l : Lane) (code : Nat) (d : List Nat) : (s.eventL l code d).modRegs = s.modRegs := rfl
@[simp] theorem State.eventL_cyc (s : State) (l : Lane) (code : Nat) (d : List Nat) : (s.eventL l code d).cyc = s.cyc := rfl
@[simp] theorem State.eventL_net (s : State) (l : Lane) (code : Nat) (d : List Nat) : (s.eventL l code d).net = s.net := rfl
@[simp] theorem State.eventL_time (s : State) (l : Lane) (code : Nat) (d : List Nat) : (s.eventL l code d).time = s.time := rfl
@[simp] theorem State.eventL_tele (s : State) (l : Lane) (code : Nat) (d : List Nat) : (s.eventL l code d).tele = s.tele := rfl
@[simp] theorem State.eventL_twin (s : State) (l : Lane) (code : Nat) (d : List Nat) : (s.eventL l code d).twin = s.twin := rfl
@[simp] theorem State.eventL_field (s : State) (l : Lane) (code : Nat) (d : List Nat) : (s.eventL l code d).field = s.field := rfl
@[simp] theorem State.eventL_power (s : State) (l : Lane) (code : Nat) (d : List Nat) : (s.eventL l code d).power = s.power := rfl
@[simp] theorem State.eventL_d0 (s : State) (l : Lane) (code : Nat) (d : List Nat) : (s.eventL l code d).d0 = s.d0 := rfl
@[simp] theorem State.eventL_sec (s : State) (l : Lane) (code : Nat) (d : List Nat) : (s.eventL l code d).sec = s.sec := rfl
@[simp] theorem State.eventL_upd (s : State) (l : Lane) (code : Nat) (d : List Nat) : (s.eventL l code d).upd = s.upd := rfl
@[simp] theorem State.eventL_free (s : State) (l : Lane) (code : Nat) (d : List Nat) : (s.eventL l code d).free = s.free := rfl
@[simp] theorem State.eventL_pending (s : State) (l : Lane) (code : Nat) (d : List Nat) : (s.eventL l code d).pending = s.pending := rfl

/-! ### a record kept in D0 -/

@[simp] theorem State.pendRecord_lanes (s : State) (code : Nat) (d : List Nat) : (s.pendRecord code d).lanes = s.lanes := rfl
@[simp] theorem State.pendRecord_modRegs (s : State) (code : Nat) (d : List Nat) : (s.pendRecord code d).modRegs = s.modRegs := rfl
@[simp] theorem State.pendRecord_cyc (s : State) (code : Nat) (d : List Nat) : (s.pendRecord code d).cyc = s.cyc := rfl
@[simp] theorem State.pendRecord_net (s : State) (code : Nat) (d : List Nat) : (s.pendRecord code d).net = s.net := rfl
@[simp] theorem State.pendRecord_time (s : State) (code : Nat) (d : List Nat) : (s.pendRecord code d).time = s.time := rfl
@[simp] theorem State.pendRecord_tele (s : State) (code : Nat) (d : List Nat) : (s.pendRecord code d).tele = s.tele := rfl
@[simp] theorem State.pendRecord_twin (s : State) (code : Nat) (d : List Nat) : (s.pendRecord code d).twin = s.twin := rfl
@[simp] theorem State.pendRecord_field (s : State) (code : Nat) (d : List Nat) : (s.pendRecord code d).field = s.field := rfl
@[simp] theorem State.pendRecord_power (s : State) (code : Nat) (d : List Nat) : (s.pendRecord code d).power = s.power := rfl
@[simp] theorem State.pendRecord_sec (s : State) (code : Nat) (d : List Nat) : (s.pendRecord code d).sec = s.sec := rfl
@[simp] theorem State.pendRecord_upd (s : State) (code : Nat) (d : List Nat) : (s.pendRecord code d).upd = s.upd := rfl
@[simp] theorem State.pendRecord_log (s : State) (code : Nat) (d : List Nat) : (s.pendRecord code d).log = s.log := rfl
@[simp] theorem State.pendRecord_free (s : State) (code : Nat) (d : List Nat) : (s.pendRecord code d).free = s.free := rfl
@[simp] theorem State.pendRecord_pending (s : State) (code : Nat) (d : List Nat) : (s.pendRecord code d).pending = s.pending := rfl

/-! ### a free value drawn -/

@[simp] theorem State.drawn_lanes (s : State)  : (s.drawn).lanes = s.lanes := rfl
@[simp] theorem State.drawn_modRegs (s : State)  : (s.drawn).modRegs = s.modRegs := rfl
@[simp] theorem State.drawn_cyc (s : State)  : (s.drawn).cyc = s.cyc := rfl
@[simp] theorem State.drawn_net (s : State)  : (s.drawn).net = s.net := rfl
@[simp] theorem State.drawn_time (s : State)  : (s.drawn).time = s.time := rfl
@[simp] theorem State.drawn_tele (s : State)  : (s.drawn).tele = s.tele := rfl
@[simp] theorem State.drawn_twin (s : State)  : (s.drawn).twin = s.twin := rfl
@[simp] theorem State.drawn_field (s : State)  : (s.drawn).field = s.field := rfl
@[simp] theorem State.drawn_power (s : State)  : (s.drawn).power = s.power := rfl
@[simp] theorem State.drawn_d0 (s : State)  : (s.drawn).d0 = s.d0 := rfl
@[simp] theorem State.drawn_sec (s : State)  : (s.drawn).sec = s.sec := rfl
@[simp] theorem State.drawn_upd (s : State)  : (s.drawn).upd = s.upd := rfl
@[simp] theorem State.drawn_log (s : State)  : (s.drawn).log = s.log := rfl
@[simp] theorem State.drawn_pending (s : State)  : (s.drawn).pending = s.pending := rfl
@[simp] theorem State.drawn_free (s : State)  : (s.drawn).free = s.free + 1 := rfl

/-! ### the engine of a lane -/

@[simp] theorem State.onEng_modRegs (s : State) (l : Lane) (f : Engine → Engine) : (s.onEng l f).modRegs = s.modRegs := rfl
@[simp] theorem State.onEng_cyc (s : State) (l : Lane) (f : Engine → Engine) : (s.onEng l f).cyc = s.cyc := rfl
@[simp] theorem State.onEng_net (s : State) (l : Lane) (f : Engine → Engine) : (s.onEng l f).net = s.net := rfl
@[simp] theorem State.onEng_time (s : State) (l : Lane) (f : Engine → Engine) : (s.onEng l f).time = s.time := rfl
@[simp] theorem State.onEng_tele (s : State) (l : Lane) (f : Engine → Engine) : (s.onEng l f).tele = s.tele := rfl
@[simp] theorem State.onEng_twin (s : State) (l : Lane) (f : Engine → Engine) : (s.onEng l f).twin = s.twin := rfl
@[simp] theorem State.onEng_field (s : State) (l : Lane) (f : Engine → Engine) : (s.onEng l f).field = s.field := rfl
@[simp] theorem State.onEng_power (s : State) (l : Lane) (f : Engine → Engine) : (s.onEng l f).power = s.power := rfl
@[simp] theorem State.onEng_d0 (s : State) (l : Lane) (f : Engine → Engine) : (s.onEng l f).d0 = s.d0 := rfl
@[simp] theorem State.onEng_sec (s : State) (l : Lane) (f : Engine → Engine) : (s.onEng l f).sec = s.sec := rfl
@[simp] theorem State.onEng_upd (s : State) (l : Lane) (f : Engine → Engine) : (s.onEng l f).upd = s.upd := rfl
@[simp] theorem State.onEng_log (s : State) (l : Lane) (f : Engine → Engine) : (s.onEng l f).log = s.log := rfl
@[simp] theorem State.onEng_free (s : State) (l : Lane) (f : Engine → Engine) : (s.onEng l f).free = s.free := rfl
@[simp] theorem State.onEng_pending (s : State) (l : Lane) (f : Engine → Engine) : (s.onEng l f).pending = s.pending := rfl

/-! ### power -/

@[simp] theorem State.onPower_lanes (s : State) (f : Power → Power) : (s.onPower f).lanes = s.lanes := rfl
@[simp] theorem State.onPower_modRegs (s : State) (f : Power → Power) : (s.onPower f).modRegs = s.modRegs := rfl
@[simp] theorem State.onPower_cyc (s : State) (f : Power → Power) : (s.onPower f).cyc = s.cyc := rfl
@[simp] theorem State.onPower_net (s : State) (f : Power → Power) : (s.onPower f).net = s.net := rfl
@[simp] theorem State.onPower_time (s : State) (f : Power → Power) : (s.onPower f).time = s.time := rfl
@[simp] theorem State.onPower_tele (s : State) (f : Power → Power) : (s.onPower f).tele = s.tele := rfl
@[simp] theorem State.onPower_twin (s : State) (f : Power → Power) : (s.onPower f).twin = s.twin := rfl
@[simp] theorem State.onPower_field (s : State) (f : Power → Power) : (s.onPower f).field = s.field := rfl
@[simp] theorem State.onPower_d0 (s : State) (f : Power → Power) : (s.onPower f).d0 = s.d0 := rfl
@[simp] theorem State.onPower_sec (s : State) (f : Power → Power) : (s.onPower f).sec = s.sec := rfl
@[simp] theorem State.onPower_upd (s : State) (f : Power → Power) : (s.onPower f).upd = s.upd := rfl
@[simp] theorem State.onPower_log (s : State) (f : Power → Power) : (s.onPower f).log = s.log := rfl
@[simp] theorem State.onPower_free (s : State) (f : Power → Power) : (s.onPower f).free = s.free := rfl
@[simp] theorem State.onPower_pending (s : State) (f : Power → Power) : (s.onPower f).pending = s.pending := rfl
@[simp] theorem State.onPower_power (s : State) (f : Power → Power) : (s.onPower f).power = f s.power := rfl

/-! ### log -/

@[simp] theorem State.onLog_lanes (s : State) (f : Log → Log) : (s.onLog f).lanes = s.lanes := rfl
@[simp] theorem State.onLog_modRegs (s : State) (f : Log → Log) : (s.onLog f).modRegs = s.modRegs := rfl
@[simp] theorem State.onLog_cyc (s : State) (f : Log → Log) : (s.onLog f).cyc = s.cyc := rfl
@[simp] theorem State.onLog_net (s : State) (f : Log → Log) : (s.onLog f).net = s.net := rfl
@[simp] theorem State.onLog_time (s : State) (f : Log → Log) : (s.onLog f).time = s.time := rfl
@[simp] theorem State.onLog_tele (s : State) (f : Log → Log) : (s.onLog f).tele = s.tele := rfl
@[simp] theorem State.onLog_twin (s : State) (f : Log → Log) : (s.onLog f).twin = s.twin := rfl
@[simp] theorem State.onLog_field (s : State) (f : Log → Log) : (s.onLog f).field = s.field := rfl
@[simp] theorem State.onLog_power (s : State) (f : Log → Log) : (s.onLog f).power = s.power := rfl
@[simp] theorem State.onLog_d0 (s : State) (f : Log → Log) : (s.onLog f).d0 = s.d0 := rfl
@[simp] theorem State.onLog_sec (s : State) (f : Log → Log) : (s.onLog f).sec = s.sec := rfl
@[simp] theorem State.onLog_upd (s : State) (f : Log → Log) : (s.onLog f).upd = s.upd := rfl
@[simp] theorem State.onLog_free (s : State) (f : Log → Log) : (s.onLog f).free = s.free := rfl
@[simp] theorem State.onLog_pending (s : State) (f : Log → Log) : (s.onLog f).pending = s.pending := rfl
@[simp] theorem State.onLog_log (s : State) (f : Log → Log) : (s.onLog f).log = f s.log := rfl

/-! ### sec -/

@[simp] theorem State.onSec_lanes (s : State) (f : Sec → Sec) : (s.onSec f).lanes = s.lanes := rfl
@[simp] theorem State.onSec_modRegs (s : State) (f : Sec → Sec) : (s.onSec f).modRegs = s.modRegs := rfl
@[simp] theorem State.onSec_cyc (s : State) (f : Sec → Sec) : (s.onSec f).cyc = s.cyc := rfl
@[simp] theorem State.onSec_net (s : State) (f : Sec → Sec) : (s.onSec f).net = s.net := rfl
@[simp] theorem State.onSec_time (s : State) (f : Sec → Sec) : (s.onSec f).time = s.time := rfl
@[simp] theorem State.onSec_tele (s : State) (f : Sec → Sec) : (s.onSec f).tele = s.tele := rfl
@[simp] theorem State.onSec_twin (s : State) (f : Sec → Sec) : (s.onSec f).twin = s.twin := rfl
@[simp] theorem State.onSec_field (s : State) (f : Sec → Sec) : (s.onSec f).field = s.field := rfl
@[simp] theorem State.onSec_power (s : State) (f : Sec → Sec) : (s.onSec f).power = s.power := rfl
@[simp] theorem State.onSec_d0 (s : State) (f : Sec → Sec) : (s.onSec f).d0 = s.d0 := rfl
@[simp] theorem State.onSec_upd (s : State) (f : Sec → Sec) : (s.onSec f).upd = s.upd := rfl
@[simp] theorem State.onSec_log (s : State) (f : Sec → Sec) : (s.onSec f).log = s.log := rfl
@[simp] theorem State.onSec_free (s : State) (f : Sec → Sec) : (s.onSec f).free = s.free := rfl
@[simp] theorem State.onSec_pending (s : State) (f : Sec → Sec) : (s.onSec f).pending = s.pending := rfl
@[simp] theorem State.onSec_sec (s : State) (f : Sec → Sec) : (s.onSec f).sec = f s.sec := rfl

/-! ### upd -/

@[simp] theorem State.onUpd_lanes (s : State) (f : Upd → Upd) : (s.onUpd f).lanes = s.lanes := rfl
@[simp] theorem State.onUpd_modRegs (s : State) (f : Upd → Upd) : (s.onUpd f).modRegs = s.modRegs := rfl
@[simp] theorem State.onUpd_cyc (s : State) (f : Upd → Upd) : (s.onUpd f).cyc = s.cyc := rfl
@[simp] theorem State.onUpd_net (s : State) (f : Upd → Upd) : (s.onUpd f).net = s.net := rfl
@[simp] theorem State.onUpd_time (s : State) (f : Upd → Upd) : (s.onUpd f).time = s.time := rfl
@[simp] theorem State.onUpd_tele (s : State) (f : Upd → Upd) : (s.onUpd f).tele = s.tele := rfl
@[simp] theorem State.onUpd_twin (s : State) (f : Upd → Upd) : (s.onUpd f).twin = s.twin := rfl
@[simp] theorem State.onUpd_field (s : State) (f : Upd → Upd) : (s.onUpd f).field = s.field := rfl
@[simp] theorem State.onUpd_power (s : State) (f : Upd → Upd) : (s.onUpd f).power = s.power := rfl
@[simp] theorem State.onUpd_d0 (s : State) (f : Upd → Upd) : (s.onUpd f).d0 = s.d0 := rfl
@[simp] theorem State.onUpd_sec (s : State) (f : Upd → Upd) : (s.onUpd f).sec = s.sec := rfl
@[simp] theorem State.onUpd_log (s : State) (f : Upd → Upd) : (s.onUpd f).log = s.log := rfl
@[simp] theorem State.onUpd_free (s : State) (f : Upd → Upd) : (s.onUpd f).free = s.free := rfl
@[simp] theorem State.onUpd_pending (s : State) (f : Upd → Upd) : (s.onUpd f).pending = s.pending := rfl
@[simp] theorem State.onUpd_upd (s : State) (f : Upd → Upd) : (s.onUpd f).upd = f s.upd := rfl

/-! ### twin -/

@[simp] theorem State.onTwin_lanes (s : State) (f : Twin → Twin) : (s.onTwin f).lanes = s.lanes := rfl
@[simp] theorem State.onTwin_modRegs (s : State) (f : Twin → Twin) : (s.onTwin f).modRegs = s.modRegs := rfl
@[simp] theorem State.onTwin_cyc (s : State) (f : Twin → Twin) : (s.onTwin f).cyc = s.cyc := rfl
@[simp] theorem State.onTwin_net (s : State) (f : Twin → Twin) : (s.onTwin f).net = s.net := rfl
@[simp] theorem State.onTwin_time (s : State) (f : Twin → Twin) : (s.onTwin f).time = s.time := rfl
@[simp] theorem State.onTwin_tele (s : State) (f : Twin → Twin) : (s.onTwin f).tele = s.tele := rfl
@[simp] theorem State.onTwin_field (s : State) (f : Twin → Twin) : (s.onTwin f).field = s.field := rfl
@[simp] theorem State.onTwin_power (s : State) (f : Twin → Twin) : (s.onTwin f).power = s.power := rfl
@[simp] theorem State.onTwin_d0 (s : State) (f : Twin → Twin) : (s.onTwin f).d0 = s.d0 := rfl
@[simp] theorem State.onTwin_sec (s : State) (f : Twin → Twin) : (s.onTwin f).sec = s.sec := rfl
@[simp] theorem State.onTwin_upd (s : State) (f : Twin → Twin) : (s.onTwin f).upd = s.upd := rfl
@[simp] theorem State.onTwin_log (s : State) (f : Twin → Twin) : (s.onTwin f).log = s.log := rfl
@[simp] theorem State.onTwin_free (s : State) (f : Twin → Twin) : (s.onTwin f).free = s.free := rfl
@[simp] theorem State.onTwin_pending (s : State) (f : Twin → Twin) : (s.onTwin f).pending = s.pending := rfl
@[simp] theorem State.onTwin_twin (s : State) (f : Twin → Twin) : (s.onTwin f).twin = f s.twin := rfl

/-! ### a star core -/

@[simp] theorem State.onStar_lanes (s : State) (ch : Chan) (f : StarCore → StarCore) : (s.onStar ch f).lanes = s.lanes := rfl
@[simp] theorem State.onStar_modRegs (s : State) (ch : Chan) (f : StarCore → StarCore) : (s.onStar ch f).modRegs = s.modRegs := rfl
@[simp] theorem State.onStar_cyc (s : State) (ch : Chan) (f : StarCore → StarCore) : (s.onStar ch f).cyc = s.cyc := rfl
@[simp] theorem State.onStar_time (s : State) (ch : Chan) (f : StarCore → StarCore) : (s.onStar ch f).time = s.time := rfl
@[simp] theorem State.onStar_tele (s : State) (ch : Chan) (f : StarCore → StarCore) : (s.onStar ch f).tele = s.tele := rfl
@[simp] theorem State.onStar_twin (s : State) (ch : Chan) (f : StarCore → StarCore) : (s.onStar ch f).twin = s.twin := rfl
@[simp] theorem State.onStar_field (s : State) (ch : Chan) (f : StarCore → StarCore) : (s.onStar ch f).field = s.field := rfl
@[simp] theorem State.onStar_power (s : State) (ch : Chan) (f : StarCore → StarCore) : (s.onStar ch f).power = s.power := rfl
@[simp] theorem State.onStar_d0 (s : State) (ch : Chan) (f : StarCore → StarCore) : (s.onStar ch f).d0 = s.d0 := rfl
@[simp] theorem State.onStar_sec (s : State) (ch : Chan) (f : StarCore → StarCore) : (s.onStar ch f).sec = s.sec := rfl
@[simp] theorem State.onStar_upd (s : State) (ch : Chan) (f : StarCore → StarCore) : (s.onStar ch f).upd = s.upd := rfl
@[simp] theorem State.onStar_log (s : State) (ch : Chan) (f : StarCore → StarCore) : (s.onStar ch f).log = s.log := rfl
@[simp] theorem State.onStar_free (s : State) (ch : Chan) (f : StarCore → StarCore) : (s.onStar ch f).free = s.free := rfl
@[simp] theorem State.onStar_pending (s : State) (ch : Chan) (f : StarCore → StarCore) : (s.onStar ch f).pending = s.pending := rfl

/-! ### a field controller -/

@[simp] theorem State.onCtrl_lanes (s : State) (l : Lane) (f : Ctrl → Ctrl) : (s.onCtrl l f).lanes = s.lanes := rfl
@[simp] theorem State.onCtrl_modRegs (s : State) (l : Lane) (f : Ctrl → Ctrl) : (s.onCtrl l f).modRegs = s.modRegs := rfl
@[simp] theorem State.onCtrl_cyc (s : State) (l : Lane) (f : Ctrl → Ctrl) : (s.onCtrl l f).cyc = s.cyc := rfl
@[simp] theorem State.onCtrl_net (s : State) (l : Lane) (f : Ctrl → Ctrl) : (s.onCtrl l f).net = s.net := rfl
@[simp] theorem State.onCtrl_time (s : State) (l : Lane) (f : Ctrl → Ctrl) : (s.onCtrl l f).time = s.time := rfl
@[simp] theorem State.onCtrl_tele (s : State) (l : Lane) (f : Ctrl → Ctrl) : (s.onCtrl l f).tele = s.tele := rfl
@[simp] theorem State.onCtrl_twin (s : State) (l : Lane) (f : Ctrl → Ctrl) : (s.onCtrl l f).twin = s.twin := rfl
@[simp] theorem State.onCtrl_power (s : State) (l : Lane) (f : Ctrl → Ctrl) : (s.onCtrl l f).power = s.power := rfl
@[simp] theorem State.onCtrl_d0 (s : State) (l : Lane) (f : Ctrl → Ctrl) : (s.onCtrl l f).d0 = s.d0 := rfl
@[simp] theorem State.onCtrl_sec (s : State) (l : Lane) (f : Ctrl → Ctrl) : (s.onCtrl l f).sec = s.sec := rfl
@[simp] theorem State.onCtrl_upd (s : State) (l : Lane) (f : Ctrl → Ctrl) : (s.onCtrl l f).upd = s.upd := rfl
@[simp] theorem State.onCtrl_log (s : State) (l : Lane) (f : Ctrl → Ctrl) : (s.onCtrl l f).log = s.log := rfl
@[simp] theorem State.onCtrl_free (s : State) (l : Lane) (f : Ctrl → Ctrl) : (s.onCtrl l f).free = s.free := rfl
@[simp] theorem State.onCtrl_pending (s : State) (l : Lane) (f : Ctrl → Ctrl) : (s.onCtrl l f).pending = s.pending := rfl

/-! ### a general register -/

@[simp] theorem Core.setG_pc (x : Core) (r : GReg) (v : Word) : (x.setG r v).pc = x.pc := by
  unfold Core.setG; split <;> rfl
@[simp] theorem Core.setG_psw (x : Core) (r : GReg) (v : Word) : (x.setG r v).psw = x.psw := by
  unfold Core.setG; split <;> rfl
@[simp] theorem Core.setG_epc (x : Core) (r : GReg) (v : Word) : (x.setG r v).epc = x.epc := by
  unfold Core.setG; split <;> rfl
@[simp] theorem Core.setG_epsw (x : Core) (r : GReg) (v : Word) : (x.setG r v).epsw = x.epsw := by
  unfold Core.setG; split <;> rfl
@[simp] theorem Core.setG_ecause (x : Core) (r : GReg) (v : Word) : (x.setG r v).ecause = x.ecause := by
  unfold Core.setG; split <;> rfl
@[simp] theorem Core.setG_eaddr (x : Core) (r : GReg) (v : Word) : (x.setG r v).eaddr = x.eaddr := by
  unfold Core.setG; split <;> rfl
@[simp] theorem Core.setG_kvec (x : Core) (r : GReg) (v : Word) : (x.setG r v).kvec = x.kvec := by
  unfold Core.setG; split <;> rfl
@[simp] theorem Core.setG_imask (x : Core) (r : GReg) (v : Word) : (x.setG r v).imask = x.imask := by
  unfold Core.setG; split <;> rfl
@[simp] theorem Core.setG_ipend (x : Core) (r : GReg) (v : Word) : (x.setG r v).ipend = x.ipend := by
  unfold Core.setG; split <;> rfl
@[simp] theorem Core.setG_cyc (x : Core) (r : GReg) (v : Word) : (x.setG r v).cyc = x.cyc := by
  unfold Core.setG; split <;> rfl
@[simp] theorem Core.setG_kscr (x : Core) (r : GReg) (v : Word) : (x.setG r v).kscr = x.kscr := by
  unfold Core.setG; split <;> rfl
@[simp] theorem Core.setG_rgnB (x : Core) (r : GReg) (v : Word) : (x.setG r v).rgnB = x.rgnB := by
  unfold Core.setG; split <;> rfl
@[simp] theorem Core.setG_rgnL (x : Core) (r : GReg) (v : Word) : (x.setG r v).rgnL = x.rgnL := by
  unfold Core.setG; split <;> rfl
@[simp] theorem Core.setG_resv (x : Core) (r : GReg) (v : Word) : (x.setG r v).resv = x.resv := by
  unfold Core.setG; split <;> rfl
@[simp] theorem Core.setG_wait (x : Core) (r : GReg) (v : Word) : (x.setG r v).wait = x.wait := by
  unfold Core.setG; split <;> rfl

/-! ### lanes -/

@[simp] theorem PerLane_get_set_same {α : Type} (p : PerLane α) (l : Lane) (v : α) : (p.set l v).get l = v := by
  cases l <;> rfl

theorem PerLane_get_set_other {α : Type} (p : PerLane α) {l m : Lane} (v : α) (h : m ≠ l) : (p.set l v).get m = p.get m := by
  cases l <;> cases m <;> first | rfl | exact absurd rfl h

theorem PerLane_get_set {α : Type} (p : PerLane α) (l m : Lane) (v : α) :
    (p.set l v).get m = if m = l then v else p.get m := by
  cases l <;> cases m <;> rfl

@[simp] theorem State.lane_onLane_same (s : State) (l : Lane) (f : LaneState → LaneState) :
    (s.onLane l f).lane l = f (s.lane l) := by simp [State.lane]

theorem State.lane_onLane_other (s : State) {l m : Lane} (f : LaneState → LaneState) (h : m ≠ l) :
    (s.onLane l f).lane m = s.lane m := PerLane_get_set_other _ _ h

theorem State.lane_onLane (s : State) (l m : Lane) (f : LaneState → LaneState) :
    (s.onLane l f).lane m = if m = l then f (s.lane l) else s.lane m := by
  simp only [State.lane, State.onLane, PerLane_get_set]

@[simp] theorem LaneState.core_onCore_same (x : LaneState) (c : CoreId) (f : Core → Core) :
    (x.onCore c f).core c = f (x.core c) := by cases c <;> rfl

theorem LaneState.core_onCore_other (x : LaneState) {c d : CoreId} (f : Core → Core) (h : d ≠ c) :
    (x.onCore c f).core d = x.core d := by
  cases c <;> cases d <;> first | rfl | exact absurd rfl h

@[simp] theorem State.core_onCore_same (s : State) (l : Lane) (c : CoreId) (f : Core → Core) :
    (s.onCore l c f).core l c = f (s.core l c) := by simp [State.core, State.onCore]

/-- The other core of the lane and both cores of every other lane. -/
theorem State.core_onCore_other (s : State) {l m : Lane} {c d : CoreId} (f : Core → Core) (h : ¬(m = l ∧ d = c)) :
    (s.onCore l c f).core m d = s.core m d := by
  rw [State.core, State.onCore, State.lane_onLane]
  split
  · subst m
    exact LaneState.core_onCore_other _ _ fun e => h ⟨rfl, e⟩
  · rfl

/-! ### general registers (R47) -/

theorem Core.g_setG (x : Core) (r q : GReg) (v : Word) : (x.setG r v).g q = if q = r ∧ r ≠ 0 then v else x.g q := by
  unfold Core.setG
  split
  · simp_all
  · rename_i hr
    simp only [Core.g, Vector.getElem_set]
    by_cases h : r.toNat = q.toNat
    · have : q = r := BitVec.eq_of_toNat_eq h.symm
      subst this; simp; exact fun e => absurd e hr
    · have : q ≠ r := fun e => h (by rw [e])
      simp [h, this]

/-- A write to g0 is discarded. -/
@[simp] theorem Core.setG_zero (x : Core) (v : Word) : x.setG 0 v = x := rfl

end Sys2Proof.Machine
end

