-- ==== Sys2Proof/Laws/Frame.lean ====
section
/-! SUPPORT. Laws/Frame.lean: what the primitive updates keep. `Spares s t` says of an operation from s to t everything that
no block outside a lane's cores, engine and memory does to them; `Keeps s t` says that the invariant and the queue stay. -/
namespace Sys2Proof.Machine

theorem Keeps.refl (s : State) : Keeps s s := ⟨rfl, id⟩
theorem Keeps.trans {o s t : State} (h : Keeps o s) (k : Keeps s t) : Keeps o t :=
  ⟨k.pending.trans h.pending, fun i => k.inv (h.inv i)⟩
theorem Spares.refl (s : State) : Spares s s := ⟨Keeps.refl s, fun _ => rfl⟩
theorem Spares.trans {o s t : State} (h : Spares o s) (k : Spares s t) : Spares o t :=
  ⟨h.toKeeps.trans k.toKeeps, fun l => (k.own l).trans (h.own l)⟩
theorem Keeps.spares {o s t : State} (h : Keeps o s) (k : Spares s s → Spares s t) : Keeps o t :=
  h.trans (k (Spares.refl s)).toKeeps

/-- A lane after an operation that keeps it legal. -/
abbrev LaneKeeps (x y : LaneState) : Prop := x.Ok → y.Ok

/-- A lane after an operation that leaves its memory and its cores alone. -/
structure LaneSpares (x y : LaneState) : Prop where
  ok : x.Ok → y.Ok
  own : y.own = x.own

theorem LaneSpares.refl (x : LaneState) : LaneSpares x x := ⟨id, rfl⟩
theorem LaneSpares.trans {x y z : LaneState} (h : LaneSpares x y) (k : LaneSpares y z) : LaneSpares x z :=
  ⟨fun i => k.ok (h.ok i), k.own.trans h.own⟩


/-- An update of fields other than the lanes, the module's registers and the queue. -/
theorem Keeps.upd {o t : State} {cyc net time tele twin field power d0 sec upd log free} (h : Keeps o t) :
    Keeps o (State.mk t.lanes t.modRegs cyc net time tele twin field power d0 sec upd log free t.pending) :=
  ⟨h.pending, fun i => ⟨(h.inv i).lane, (h.inv i).modRegs⟩⟩


/-- An update of fields other than the lanes, the module's registers and the queue. -/
theorem Spares.upd {o t : State} {cyc net time tele twin field power d0 sec upd log free} (h : Spares o t) :
    Spares o (State.mk t.lanes t.modRegs cyc net time tele twin field power d0 sec upd log free t.pending) :=
  ⟨⟨h.pending, fun i => ⟨(h.inv i).lane, (h.inv i).modRegs⟩⟩, h.own⟩


/-- An update of fields of a lane other than its cores, memory, registers and engine. -/
theorem LaneSpares.upd {x y : LaneState} {running steer rx inbox gather samples used offsets stepRun diverge cfgBad tasks uApp closed pend stream mbox chkFails logWin grant revoked waiting scrubHits scrubFrom haltReq resumeReq shadow sched bus burstIn inject injectNext tskPend locked clearReq claims imageId records shadowTab} (h : LaneSpares x y) :
    LaneSpares x (LaneState.mk y.core0 y.core1 running y.mem y.chk y.regs y.eng steer rx inbox gather samples used offsets stepRun diverge cfgBad tasks uApp closed pend stream mbox chkFails logWin grant revoked waiting scrubHits scrubFrom haltReq resumeReq shadow sched bus burstIn inject injectNext tskPend locked clearReq claims imageId records shadowTab) :=
  ⟨fun i => let k := h.ok i; ⟨k.core0, k.core1, k.mem, k.chk, k.regs, k.queue⟩, h.own⟩

/-- A write to the lane's registers. -/
theorem LaneSpares.regs {x y : LaneState} {running steer rx inbox gather samples used offsets stepRun diverge cfgBad tasks uApp closed pend stream mbox chkFails logWin grant revoked waiting scrubHits scrubFrom haltReq resumeReq shadow sched bus burstIn inject injectNext tskPend locked clearReq claims imageId records shadowTab} (h : LaneSpares x y) (a : Nat) (w : Word) :
    LaneSpares x (LaneState.mk y.core0 y.core1 running y.mem y.chk (mapSet resetOf y.regs a w) y.eng steer rx inbox gather samples used offsets stepRun diverge cfgBad tasks uApp closed pend stream mbox chkFails logWin grant revoked waiting scrubHits scrubFrom haltReq resumeReq shadow sched bus burstIn inject injectNext tskPend locked clearReq claims imageId records shadowTab) :=
  ⟨fun i => let k := h.ok i; ⟨k.core0, k.core1, k.mem, k.chk, mapSet_wf _ _ k.regs, k.queue⟩, h.own⟩

theorem Keeps.upd_iff {o t : State} {cyc net time tele twin field power d0 sec upd log free} : Keeps o (State.mk t.lanes t.modRegs cyc net time tele twin field power d0 sec upd log free t.pending) ↔ Keeps o t :=
  ⟨fun h => ⟨h.pending, fun i => ⟨(h.inv i).lane, (h.inv i).modRegs⟩⟩, Keeps.upd⟩

theorem Spares.upd_iff {o t : State} {cyc net time tele twin field power d0 sec upd log free} : Spares o (State.mk t.lanes t.modRegs cyc net time tele twin field power d0 sec upd log free t.pending) ↔ Spares o t :=
  ⟨fun h => ⟨⟨h.pending, fun i => ⟨(h.inv i).lane, (h.inv i).modRegs⟩⟩, h.own⟩, Spares.upd⟩

/-- The same for legality alone. -/
theorem LaneKeeps.upd {y : LaneState} {running steer rx inbox gather samples used offsets stepRun diverge cfgBad tasks uApp closed pend stream mbox chkFails logWin grant revoked waiting scrubHits scrubFrom haltReq resumeReq shadow sched bus burstIn inject injectNext tskPend locked clearReq claims imageId records shadowTab} :
    y.Ok → (LaneState.mk y.core0 y.core1 running y.mem y.chk y.regs y.eng steer rx inbox gather samples used offsets stepRun diverge cfgBad tasks uApp closed pend stream mbox chkFails logWin grant revoked waiting scrubHits scrubFrom haltReq resumeReq shadow sched bus burstIn inject injectNext tskPend locked clearReq claims imageId records shadowTab).Ok :=
  fun k => ⟨k.core0, k.core1, k.mem, k.chk, k.regs, k.queue⟩

theorem mapWf_filter {β : Type} [DecidableEq β] {d : Nat → β} {m : List (Nat × β)} (q : Nat × β → Bool) (h : mapWf d m = true) :
    mapWf d (m.filter q) = true := by
  induction m with
  | nil => exact h
  | cons p m ih =>
    obtain ⟨h1, h2, h3⟩ := (mapWf_cons ..).1 h
    rw [List.filter_cons]
    split
    · exact (mapWf_cons ..).2 ⟨h1, fun r hr => h2 r (List.mem_of_mem_filter hr), ih h3⟩
    · exact ih h3

theorem Lane.cases_eq (l m : Lane) : m = l ∨ m ≠ l := by cases l <;> cases m <;> simp

theorem onLane_keeps {o s : State} (h : Keeps o s) (l : Lane) (f : LaneState → LaneState)
    (hf : (s.lane l).Ok → (f (s.lane l)).Ok) : Keeps o (s.onLane l f) := by
  refine ⟨h.pending, fun i => ⟨fun m => ?_, (h.inv i).modRegs⟩⟩
  rw [State.lane_onLane]
  split
  · exact hf ((h.inv i).lane l)
  · exact (h.inv i).lane m

theorem onLane_spares {o s : State} (h : Spares o s) (l : Lane) (f : LaneState → LaneState)
    (hf : LaneSpares (s.lane l) (f (s.lane l))) : Spares o (s.onLane l f) := by
  refine ⟨onLane_keeps h.toKeeps l f hf.ok, fun m => ?_⟩
  rw [State.lane_onLane]
  split
  · subst m; exact hf.own.trans (h.own l)
  · exact h.own m

theorem onLanes_eq (s : State) (f : LaneState → LaneState) :
    s.onLanes f = ((s.onLane .a f).onLane .b f).onLane .c f := rfl

theorem onLanes_spares {o s : State} (h : Spares o s) (f : LaneState → LaneState) (hf : ∀ x, LaneSpares x (f x)) :
    Spares o (s.onLanes f) := by
  rw [onLanes_eq]
  exact onLane_spares (onLane_spares (onLane_spares h _ _ (hf _)) _ _ (hf _)) _ _ (hf _)

theorem onLanes_keeps {o s : State} (h : Keeps o s) (f : LaneState → LaneState) (hf : ∀ x, x.Ok → (f x).Ok) :
    Keeps o (s.onLanes f) := by
  rw [onLanes_eq]
  exact onLane_keeps (onLane_keeps (onLane_keeps h _ _ (hf _)) _ _ (hf _)) _ _ (hf _)

theorem onCore_keeps {o s : State} (h : Keeps o s) (l : Lane) (c : CoreId) (f : Core → Core)
    (hf : (s.core l c).Ok → (f (s.core l c)).Ok) : Keeps o (s.onCore l c f) := by
  refine onLane_keeps h l _ fun i => ?_
  cases c
  · exact ⟨hf i.core0, i.core1, i.mem, i.chk, i.regs, i.queue⟩
  · exact ⟨i.core0, hf i.core1, i.mem, i.chk, i.regs, i.queue⟩

theorem setLaneReg_spares {o s : State} (h : Spares o s) (l : Lane) (a : Nat) (w : Word) : Spares o (s.setLaneReg l a w) :=
  onLane_spares h l _ (LaneSpares.regs (LaneSpares.refl _) a w)

theorem setModReg_spares {o s : State} (h : Spares o s) (a : Nat) (w : Word) : Spares o (s.setModReg a w) :=
  ⟨⟨h.pending, fun i => ⟨(h.inv i).lane, mapSet_wf _ _ (h.inv i).modRegs⟩⟩, h.own⟩

theorem raiseOn_spares {o s : State} (h : Spares o s) (l : Lane) (c : CoreId) (n : Nat) : Spares o (s.raiseOn l c n) := by
  rw [State.raiseOn, State.onCore]
  refine onLane_spares h l _ ?_
  cases c
  · exact ⟨fun i => ⟨⟨i.core0.zero, i.core0.level⟩, i.core1, i.mem, i.chk, i.regs, i.queue⟩, rfl⟩
  · exact ⟨fun i => ⟨i.core0, ⟨i.core1.zero, i.core1.level⟩, i.mem, i.chk, i.regs, i.queue⟩, rfl⟩

theorem foldl_spares {α : Type} {o : State} {f : State → α → State} {xs : List α} :
    ∀ {s : State}, Spares o s → (∀ t x, Spares o t → Spares o (f t x)) → Spares o (xs.foldl f s) := by
  induction xs with
  | nil => exact fun h _ => h
  | cons x xs ih => exact fun h k => ih (k _ x h) k

theorem foldl_keeps {α : Type} {o : State} {f : State → α → State} {xs : List α} :
    ∀ {s : State}, Keeps o s → (∀ t x, Keeps o t → Keeps o (f t x)) → Keeps o (xs.foldl f s) := by
  induction xs with
  | nil => exact fun h _ => h
  | cons x xs ih => exact fun h k => ih (k _ x h) k

theorem iter_spares {o : State} {f : State → State} {n : Nat} :
    ∀ {s : State}, Spares o s → (∀ t, Spares o t → Spares o (f t)) → Spares o (iter f n s) := by
  induction n with
  | zero => exact fun h _ => h
  | succ n ih => exact fun h k => ih (k _ h) k

theorem iter_keeps {o : State} {f : State → State} {n : Nat} :
    ∀ {s : State}, Keeps o s → (∀ t, Keeps o t → Keeps o (f t)) → Keeps o (iter f n s) := by
  induction n with
  | zero => exact fun h _ => h
  | succ n ih => exact fun h k => ih (k _ h) k

/-- What a read of memory leaves alone: every core, every engine and whether a lane runs; a repaired word may be stored. -/
structure Reads (s t : State) : Prop extends Keeps s t where
  core0 : ∀ l, (t.lane l).core0 = (s.lane l).core0
  core1 : ∀ l, (t.lane l).core1 = (s.lane l).core1
  eng : ∀ l, (t.lane l).eng = (s.lane l).eng
  running : ∀ l, (t.lane l).running = (s.lane l).running

theorem Reads.refl (s : State) : Reads s s := ⟨Keeps.refl s, fun _ => rfl, fun _ => rfl, fun _ => rfl, fun _ => rfl⟩
theorem Reads.trans {o s t : State} (h : Reads o s) (k : Reads s t) : Reads o t :=
  ⟨h.toKeeps.trans k.toKeeps, fun l => (k.core0 l).trans (h.core0 l), fun l => (k.core1 l).trans (h.core1 l),
   fun l => (k.eng l).trans (h.eng l), fun l => (k.running l).trans (h.running l)⟩
theorem Reads.core {s t : State} (h : Reads s t) (l : Lane) (c : CoreId) : t.core l c = s.core l c := by
  cases c
  · exact h.core0 l
  · exact h.core1 l

/-- One lane in such a read. -/
structure LaneReads (x y : LaneState) : Prop where
  ok : x.Ok → y.Ok
  core0 : y.core0 = x.core0
  core1 : y.core1 = x.core1
  eng : y.eng = x.eng
  running : y.running = x.running

theorem Reads.upd {o t : State} {cyc net time tele twin field power d0 sec upd log free} (h : Reads o t) : Reads o (State.mk t.lanes t.modRegs cyc net time tele twin field power d0 sec upd log free t.pending) :=
  ⟨⟨h.pending, fun i => ⟨(h.inv i).lane, (h.inv i).modRegs⟩⟩, h.core0, h.core1, h.eng, h.running⟩

theorem putStored_ok {x : LaneState} (a d c : Nat) (h : x.Ok) : (x.putStored a d c).Ok :=
  ⟨h.core0, h.core1, putBytes_wf _ _ _ h.mem, putBytes_wf _ _ _ h.chk, h.regs, h.queue⟩

theorem LaneReads.put {x : LaneState} (a d c : Nat) : LaneReads x (x.putStored a d c) :=
  ⟨putStored_ok a d c, rfl, rfl, rfl, rfl⟩

theorem onLane_reads {o s : State} (h : Reads o s) (l : Lane) (f : LaneState → LaneState)
    (hf : LaneReads (s.lane l) (f (s.lane l))) : Reads o (s.onLane l f) := by
  refine ⟨onLane_keeps h.toKeeps l f hf.ok, fun m => ?_, fun m => ?_, fun m => ?_, fun m => ?_⟩ <;> rw [State.lane_onLane] <;>
    split <;> first
      | (subst m; first | exact hf.core0.trans (h.core0 l) | exact hf.core1.trans (h.core1 l) | exact hf.eng.trans (h.eng l)
                        | exact hf.running.trans (h.running l))
      | exact h.core0 m | exact h.core1 m | exact h.eng m | exact h.running m

theorem setLaneReg_reads {o s : State} (h : Reads o s) (l : Lane) (a : Nat) (w : Word) : Reads o (s.setLaneReg l a w) :=
  onLane_reads h l _ ⟨fun i => ⟨i.core0, i.core1, i.mem, i.chk, mapSet_wf _ _ i.regs, i.queue⟩, rfl, rfl, rfl, rfl⟩

theorem setModReg_reads {o s : State} (h : Reads o s) (a : Nat) (w : Word) : Reads o (s.setModReg a w) :=
  ⟨⟨h.pending, fun i => ⟨(h.inv i).lane, mapSet_wf _ _ (h.inv i).modRegs⟩⟩, h.core0, h.core1, h.eng, h.running⟩

theorem foldl_reads {α : Type} {o : State} {f : State → α → State} {xs : List α} :
    ∀ {s : State}, Reads o s → (∀ t x, Reads o t → Reads o (f t x)) → Reads o (xs.foldl f s) := by
  induction xs with
  | nil => exact fun h _ => h
  | cons x xs ih => exact fun h k => ih (k _ x h) k

theorem setG_ok {x : Core} (r : GReg) (v : Word) (h : x.Ok) : (x.setG r v).Ok := by
  refine ⟨?_, by simpa using h.level⟩
  rw [Core.g_setG, if_neg (by rintro ⟨rfl, h⟩; exact h rfl)]
  exact h.zero

end Sys2Proof.Machine
end

