-- ==== Sys2Proof/Laws/FrameOps.lean ====
section
/-! SUPPORT. Laws/FrameOps.lean: what the operations of Machine/Ops.lean keep. -/
namespace Sys2Proof.Machine

theorem State.regSet_spares {o : State} {s : State} {l : Lane} {a : Nat} {w : Word} (h : Spares o s) :
    Spares o (State.regSet s l a w) := by
  unfold State.regSet
  try dsimp only
  repeat'
    first
    | with_reducible assumption | with_reducible apply setLaneReg_spares | with_reducible apply setModReg_spares

theorem State.wr_spares {o : State} {s : State} {l : Lane} {f : RField} {v : Nat} (h : Spares o s) :
    Spares o (State.wr s l f v) := by
  unfold State.wr
  try dsimp only
  repeat'
    first
    | with_reducible assumption | with_reducible apply setLaneReg_spares

theorem State.wr_reads {o : State} {s : State} {l : Lane} {f : RField} {v : Nat} (h : Reads o s) :
    Reads o (State.wr s l f v) := by
  unfold State.wr
  try dsimp only
  repeat'
    first
    | with_reducible assumption | with_reducible apply setLaneReg_reads

theorem State.wrM_spares {o : State} {s : State} {f : RField} {v : Nat} (h : Spares o s) :
    Spares o (State.wrM s f v) := by
  unfold State.wrM
  try dsimp only
  repeat'
    first
    | with_reducible assumption | with_reducible apply setModReg_spares

theorem State.wrAll_spares {o : State} {s : State} {f : RField} {v : Nat} (h : Spares o s) :
    Spares o (State.wrAll s f v) := by
  unfold State.wrAll
  try dsimp only
  repeat'
    first
    | with_reducible assumption | with_reducible apply foldl_spares | with_reducible apply State.wr_spares | split
    | intro _

theorem State.inc_spares {o : State} {s : State} {l : Lane} {f : RField} (h : Spares o s) :
    Spares o (State.inc s l f) := by
  unfold State.inc
  try dsimp only
  repeat'
    first
    | with_reducible assumption | with_reducible apply State.wr_spares

theorem State.inc_reads {o : State} {s : State} {l : Lane} {f : RField} (h : Reads o s) : Reads o (State.inc s l f) := by
  unfold State.inc
  try dsimp only
  repeat'
    first
    | with_reducible assumption | with_reducible apply State.wr_reads

theorem State.incM_spares {o : State} {s : State} {f : RField} (h : Spares o s) : Spares o (State.incM s f) := by
  unfold State.incM
  try dsimp only
  repeat'
    first
    | with_reducible assumption | with_reducible apply State.wrM_spares

theorem State.incWrapM_spares {o : State} {s : State} {f : RField} (h : Spares o s) : Spares o (State.incWrapM s f) := by
  unfold State.incWrapM
  try dsimp only
  repeat'
    first
    | with_reducible assumption | with_reducible apply State.wrM_spares

theorem State.drawn_spares {o : State} {s : State} (h : Spares o s) : Spares o (State.drawn s) := by
  unfold State.drawn
  try dsimp only
  repeat'
    first
    | with_reducible assumption | simp only [Spares.upd_iff]

theorem State.setMode_spares {o : State} {s : State} {m : Nat} (h : Spares o s) : Spares o (State.setMode s m) := by
  unfold State.setMode
  try dsimp only
  repeat'
    first
    | with_reducible assumption | with_reducible apply State.wrM_spares

theorem State.setSt_spares {o : State} {s : State} {l : Lane} {v : Nat} (h : Spares o s) :
    Spares o (State.setSt s l v) := by
  unfold State.setSt
  try dsimp only
  repeat'
    first
    | with_reducible assumption | with_reducible apply State.wrM_spares

theorem State.revote_spares {o : State} {s : State} (h : Spares o s) : Spares o (State.revote s) := by
  unfold State.revote
  try dsimp only
  repeat'
    first
    | with_reducible assumption | with_reducible apply State.wrM_spares

theorem State.eventAtL_spares {o : State} {s : State} {l : Lane} {t : Nat} {code : Nat} {data : List Nat} (h : Spares o s) :
    Spares o (State.eventAtL s l t code data) := Spares.upd h

theorem State.eventAtL_reads {o : State} {s : State} {l : Lane} {t : Nat} {code : Nat} {data : List Nat} (h : Reads o s) :
    Reads o (State.eventAtL s l t code data) := Reads.upd h

theorem State.eventL_spares {o : State} {s : State} {l : Lane} {code : Nat} {data : List Nat} (h : Spares o s) :
    Spares o (State.eventL s l code data) := State.eventAtL_spares h

theorem State.eventL_reads {o : State} {s : State} {l : Lane} {code : Nat} {data : List Nat} (h : Reads o s) :
    Reads o (State.eventL s l code data) := State.eventAtL_reads h

theorem State.pendRecord_spares {o : State} {s : State} {code : Nat} {data : List Nat} (h : Spares o s) :
    Spares o (State.pendRecord s code data) := by
  unfold State.pendRecord
  try dsimp only
  repeat'
    first
    | with_reducible assumption | simp only [Spares.upd_iff]

theorem State.event_spares {o : State} {s : State} {code : Nat} {data : List Nat} (h : Spares o s) :
    Spares o (State.event s code data) := by
  unfold State.event
  try dsimp only
  repeat'
    first
    | with_reducible assumption | with_reducible apply foldl_spares | with_reducible apply State.eventL_spares
    | with_reducible apply State.pendRecord_spares | split | intro _

theorem State.eventAt_spares {o : State} {s : State} {t : Nat} {code : Nat} {data : List Nat} (h : Spares o s) :
    Spares o (State.eventAt s t code data) := by
  unfold State.eventAt
  try dsimp only
  repeat'
    first
    | with_reducible assumption | with_reducible apply foldl_spares | with_reducible apply State.eventAtL_spares | split
    | intro _

theorem State.safeOn_spares {o : State} {s : State} (h : Spares o s) : Spares o (State.safeOn s) := by
  unfold State.safeOn
  try dsimp only
  repeat'
    first
    | with_reducible assumption | simp only [Spares.upd_iff] | with_reducible apply State.setMode_spares
    | with_reducible apply State.wrM_spares

theorem State.setSafe_spares {o : State} {s : State} {code : Nat} {data : List Nat} (h : Spares o s) :
    Spares o (State.setSafe s code data) := by
  unfold State.setSafe
  try dsimp only
  repeat'
    first
    | with_reducible assumption | with_reducible apply State.event_spares | with_reducible apply State.safeOn_spares
    | split

theorem State.latchSafe_spares {o : State} {s : State} (h : Spares o s) : Spares o (State.latchSafe s) := by
  unfold State.latchSafe
  try dsimp only
  repeat'
    first
    | with_reducible assumption | with_reducible apply State.setSafe_spares

theorem State.judgeVset_spares {o : State} {s : State} (h : Spares o s) : Spares o (State.judgeVset s) := by
  unfold State.judgeVset
  try dsimp only
  repeat'
    first
    | with_reducible assumption | with_reducible apply State.latchSafe_spares | split

theorem State.raise_spares {o : State} {s : State} {l : Lane} {n : Nat} (h : Spares o s) :
    Spares o (State.raise s l n) := by
  unfold State.raise
  try dsimp only
  repeat'
    first
    | with_reducible assumption | with_reducible apply raiseOn_spares

theorem State.raiseAll_spares {o : State} {s : State} {n : Nat} (h : Spares o s) : Spares o (State.raiseAll s n) := by
  unfold State.raiseAll
  try dsimp only
  repeat'
    first
    | with_reducible assumption | with_reducible apply foldl_spares | with_reducible apply State.raise_spares | split
    | intro _

theorem State.pmcBump_spares {o : State} {l : Lane} {fuel : Nat} :
    ∀ {s : State} {n k : Nat}, Spares o s → Spares o (State.pmcBump s l n k fuel) := by
  induction fuel with
  | zero => exact fun h => h
  | succ fuel ih =>
    intro s n k h
    have h1 := State.wr_spares (l := l) (f := R.PMC_CNT_COUNT n) (v := (s.rd l (R.PMC_CNT_COUNT n) + k) % 2 ^ 48) h
    rw [State.pmcBump]
    repeat'
      first
      | with_reducible assumption | with_reducible apply ih | with_reducible apply State.wr_spares | split

theorem State.pmcBump_reads {o : State} {l : Lane} {fuel : Nat} :
    ∀ {s : State} {n k : Nat}, Reads o s → Reads o (State.pmcBump s l n k fuel) := by
  induction fuel with
  | zero => exact fun h => h
  | succ fuel ih =>
    intro s n k h
    have h1 := State.wr_reads (l := l) (f := R.PMC_CNT_COUNT n) (v := (s.rd l (R.PMC_CNT_COUNT n) + k) % 2 ^ 48) h
    rw [State.pmcBump]
    repeat'
      first
      | with_reducible assumption | with_reducible apply ih | with_reducible apply State.wr_reads | split

theorem State.pmcMany_spares {o : State} {s : State} {l : Lane} {cls : Nat} {num : Nat} {attr : PmcAttr} {k : Nat}
    (h : Spares o s) :
    Spares o (State.pmcMany s l cls num attr k) := by
  unfold State.pmcMany
  try dsimp only
  repeat'
    first
    | with_reducible assumption | with_reducible apply foldl_spares | with_reducible apply State.pmcBump_spares | split
    | intro _

theorem State.pmcMany_reads {o : State} {s : State} {l : Lane} {cls : Nat} {num : Nat} {attr : PmcAttr} {k : Nat}
    (h : Reads o s) :
    Reads o (State.pmcMany s l cls num attr k) := by
  unfold State.pmcMany
  try dsimp only
  repeat'
    first
    | with_reducible assumption | with_reducible apply foldl_reads | with_reducible apply State.pmcBump_reads | split
    | intro _

theorem State.pmc_spares {o : State} {s : State} {l : Lane} {cls : Nat} {num : Nat} {attr : PmcAttr} (h : Spares o s) :
    Spares o (State.pmc s l cls num attr) := by
  unfold State.pmc
  try dsimp only
  repeat'
    first
    | with_reducible assumption | with_reducible apply State.pmcMany_spares

theorem State.pmc_reads {o : State} {s : State} {l : Lane} {cls : Nat} {num : Nat} {attr : PmcAttr} (h : Reads o s) :
    Reads o (State.pmc s l cls num attr) := by
  unfold State.pmc
  try dsimp only
  repeat'
    first
    | with_reducible assumption | with_reducible apply State.pmcMany_reads

theorem State.snoop_spares {o : State} {s : State} {l : Lane} {sel : Nat} {addr : Option Nat} {bs : List Nat}
    (h : Spares o s) :
    Spares o (State.snoop s l sel addr bs) := by
  unfold State.snoop
  try dsimp only
  repeat'
    first
    | with_reducible assumption | with_reducible apply foldl_spares | with_reducible apply State.wr_spares | split
    | intro _

theorem State.snoop_reads {o : State} {s : State} {l : Lane} {sel : Nat} {addr : Option Nat} {bs : List Nat}
    (h : Reads o s) :
    Reads o (State.snoop s l sel addr bs) := by
  unfold State.snoop
  try dsimp only
  repeat'
    first
    | with_reducible assumption | with_reducible apply foldl_reads | with_reducible apply State.wr_reads | split
    | intro _

theorem State.snoopErr_spares {o : State} {s : State} {l : Lane} {sel : Nat} {addr : Option Nat} (h : Spares o s) :
    Spares o (State.snoopErr s l sel addr) := by
  unfold State.snoopErr
  try dsimp only
  repeat'
    first
    | with_reducible assumption | with_reducible apply foldl_spares | with_reducible apply State.wr_spares | split
    | intro _

theorem State.snoopErr_reads {o : State} {s : State} {l : Lane} {sel : Nat} {addr : Option Nat} (h : Reads o s) :
    Reads o (State.snoopErr s l sel addr) := by
  unfold State.snoopErr
  try dsimp only
  repeat'
    first
    | with_reducible assumption | with_reducible apply foldl_reads | with_reducible apply State.wr_reads | split
    | intro _

theorem LaneState.wait_spares {o : LaneState} {x : LaneState} {r : Requester} {urgent : Bool} (h : LaneSpares o x) :
    LaneSpares o (LaneState.wait x r urgent) := by
  unfold LaneState.wait
  try dsimp only
  repeat'
    first
    | with_reducible assumption | with_reducible exact LaneSpares.refl _ | split | intro _
    | with_reducible apply LaneSpares.upd

theorem State.passGrant_spares {o : State} {s : State} {l : Lane} (h : Spares o s) : Spares o (State.passGrant s l) := by
  unfold State.passGrant
  dsimp only
  split
  · exact State.pmc_spares (onLane_spares h _ _ (LaneSpares.upd (LaneSpares.refl _)))
  · exact onLane_spares h _ _ (LaneSpares.upd (LaneSpares.refl _))

theorem State.passGrant_reads {o : State} {s : State} {l : Lane} (h : Reads o s) : Reads o (State.passGrant s l) := by
  unfold State.passGrant
  dsimp only
  split
  · exact State.pmc_reads (onLane_reads h _ _ ⟨LaneKeeps.upd, rfl, rfl, rfl, rfl⟩)
  · exact onLane_reads h _ _ ⟨LaneKeeps.upd, rfl, rfl, rfl, rfl⟩

theorem State.transferEnds_spares {o : State} {s : State} {l : Lane} {r : Requester} (h : Spares o s) :
    Spares o (State.transferEnds s l r) := by
  unfold State.transferEnds
  try dsimp only
  repeat'
    first
    | with_reducible assumption | with_reducible apply State.passGrant_spares | split

theorem State.transferEnds_reads {o : State} {s : State} {l : Lane} {r : Requester} (h : Reads o s) :
    Reads o (State.transferEnds s l r) := by
  unfold State.transferEnds
  try dsimp only
  repeat'
    first
    | with_reducible assumption | with_reducible apply State.passGrant_reads | split

theorem LaneState.putWord_keeps {x : LaneState} {a : Nat} {w : Word} (h : x.Ok) : (x.putWord a w).Ok := putStored_ok _ _ _ h

theorem State.candidate_spares {o : State} {s : State} {l : Lane} {a cause : Nat} (h : Spares o s) :
    Spares o (State.candidate s l a cause) := by
  unfold State.candidate
  dsimp only
  split
  · exact h
  · split
    · exact State.inc_spares h
    · exact State.eventL_spares (Spares.upd h)

theorem State.candidate_reads {o : State} {s : State} {l : Lane} {a cause : Nat} (h : Reads o s) :
    Reads o (State.candidate s l a cause) := by
  unfold State.candidate
  dsimp only
  split
  · exact h
  · split
    · exact State.inc_reads h
    · exact State.eventL_reads (Reads.upd h)

theorem State.eccAddr_spares {o : State} {s : State} {l : Lane} {memory : Nat} {src : Nat} {kind : Nat} {sym1 : Nat} {sym2 : Nat} {a : Nat} (h : Spares o s)
   :
    Spares o (State.eccAddr s l memory src kind sym1 sym2 a) := by
  unfold State.eccAddr
  try dsimp only
  repeat'
    first
    | with_reducible assumption | with_reducible apply State.wr_spares | split

theorem State.eccAddr_reads {o : State} {s : State} {l : Lane} {memory : Nat} {src : Nat} {kind : Nat} {sym1 : Nat} {sym2 : Nat} {a : Nat} (h : Reads o s)
   :
    Reads o (State.eccAddr s l memory src kind sym1 sym2 a) := by
  unfold State.eccAddr
  try dsimp only
  repeat'
    first
    | with_reducible assumption | with_reducible apply State.wr_reads | split

theorem State.corrected_spares {o : State} {s : State} {l : Lane} {src : Nat} {a : Nat} {syms : List Nat} {counter : RField} (h : Spares o s)
   :
    Spares o (State.corrected s l src a syms counter) := by
  unfold State.corrected
  try dsimp only
  repeat'
    first
    | with_reducible assumption | with_reducible apply State.eccAddr_spares | with_reducible apply State.eventL_spares
    | with_reducible apply State.inc_spares | with_reducible apply State.pmc_spares
    | with_reducible apply State.wr_spares

theorem State.corrected_reads {o : State} {s : State} {l : Lane} {src : Nat} {a : Nat} {syms : List Nat} {counter : RField} (h : Reads o s)
   :
    Reads o (State.corrected s l src a syms counter) := by
  unfold State.corrected
  try dsimp only
  repeat'
    first
    | with_reducible assumption | with_reducible apply State.eccAddr_reads | with_reducible apply State.eventL_reads
    | with_reducible apply State.inc_reads | with_reducible apply State.pmc_reads | with_reducible apply State.wr_reads

theorem State.poison_reads {o : State} {s : State} {l : Lane} {src a : Nat} (h : Reads o s) :
    Reads o (State.poison s l src a) := by
  have h1 := State.eccAddr_reads (l := l) (memory := ofBool (isDram a)) (src := src) (kind := 3) (sym1 := 0) (sym2 := 0) (a := a)
    (State.wr_reads (l := l) (f := R.MEM_ECC_STAT_UNCORR) (v := 1) (State.inc_reads (l := l) (f := R.MEM_ECC_STAT_UNCORR_CNT) h))
  unfold State.poison
  dsimp only
  refine State.candidate_reads (State.eventL_reads ?_)
  split
  · exact h1
  · exact onLane_reads (State.wr_reads h1) _ _ (LaneReads.put _ _ _)

theorem State.poison_keeps {o : State} {s : State} {l : Lane} {src a : Nat} (h : Keeps o s) :
    Keeps o (State.poison s l src a) := h.trans (State.poison_reads (Reads.refl s)).toKeeps

theorem State.poisonMet_spares {o : State} {s : State} {l : Lane} {src : Nat} {a : Nat} (h : Spares o s) :
    Spares o (State.poisonMet s l src a) := by
  unfold State.poisonMet
  try dsimp only
  repeat'
    first
    | with_reducible assumption | with_reducible apply State.eccAddr_spares | with_reducible apply State.eventL_spares
    | with_reducible apply State.inc_spares

theorem State.poisonMet_reads {o : State} {s : State} {l : Lane} {src : Nat} {a : Nat} (h : Reads o s) :
    Reads o (State.poisonMet s l src a) := by
  unfold State.poisonMet
  try dsimp only
  repeat'
    first
    | with_reducible assumption | with_reducible apply State.eccAddr_reads | with_reducible apply State.eventL_reads
    | with_reducible apply State.inc_reads

theorem State.readStored_reads {o : State} {s : State} {l : Lane} {src a : Nat} (h : Reads o s) :
    Reads o (State.readStored s l src a).2 := by
  unfold State.readStored
  split
  · exact h
  · dsimp only
    exact onLane_reads (State.corrected_reads h) _ _ (LaneReads.put _ _ _)
  · exact State.poisonMet_reads h
  · exact State.poison_reads h

theorem State.readStored_keeps {o : State} {s : State} {l : Lane} {src a : Nat} (h : Keeps o s) :
    Keeps o (State.readStored s l src a).2 := h.trans (State.readStored_reads (Reads.refl s)).toKeeps

theorem State.busDetected_spares {o : State} {s : State} {l : Lane} {src : Nat} {a : Nat} (h : Spares o s) :
    Spares o (State.busDetected s l src a) := by
  unfold State.busDetected
  try dsimp only
  repeat'
    first
    | with_reducible assumption | with_reducible apply State.eccAddr_spares | with_reducible apply State.eventL_spares
    | with_reducible apply State.inc_spares

theorem State.busDetected_reads {o : State} {s : State} {l : Lane} {src : Nat} {a : Nat} (h : Reads o s) :
    Reads o (State.busDetected s l src a) := by
  unfold State.busDetected
  try dsimp only
  repeat'
    first
    | with_reducible assumption | with_reducible apply State.eccAddr_reads | with_reducible apply State.eventL_reads
    | with_reducible apply State.inc_reads

theorem State.busEnd_spares {o : State} {s : State} {l : Lane} {src a : Nat} {x : Arrival} (h : Spares o s) :
    Spares o (State.busEnd s l src a x).2 := by
  unfold State.busEnd
  split
  · exact h
  · exact State.pmc_spares (State.inc_spares h)
  · exact State.busDetected_spares h

theorem State.busEnd_reads {o : State} {s : State} {l : Lane} {src a : Nat} {x : Arrival} (h : Reads o s) :
    Reads o (State.busEnd s l src a x).2 := by
  unfold State.busEnd
  split
  · exact h
  · exact State.pmc_reads (State.inc_reads h)
  · exact State.busDetected_reads h

theorem State.cross_spares {o : State} {s : State} {l : Lane} {p : BusPath} {src a : Nat} {w : Word} (h : Spares o s) :
    Spares o (State.cross s l p src a w).2 := by
  unfold State.cross
  split
  · exact h
  · exact State.busEnd_spares (onLane_spares h _ _ (LaneSpares.upd (LaneSpares.refl _)))

theorem State.cross_reads {o : State} {s : State} {l : Lane} {p : BusPath} {src a : Nat} {w : Word} (h : Reads o s) :
    Reads o (State.cross s l p src a w).2 := by
  unfold State.cross
  split
  · exact h
  · exact State.busEnd_reads (onLane_reads h _ _ ⟨LaneKeeps.upd, rfl, rfl, rfl, rfl⟩)

theorem State.countAccess_spares {o : State} {s : State} {l : Lane} {master : Nat} {lvl : Option Nat} {a : Nat} {write : Bool} (h : Spares o s)
   :
    Spares o (State.countAccess s l master lvl a write) := by
  unfold State.countAccess
  try dsimp only
  repeat'
    first
    | with_reducible assumption | with_reducible apply State.pmc_spares | with_reducible apply State.transferEnds_spares
    | split

theorem State.countAccess_reads {o : State} {s : State} {l : Lane} {master : Nat} {lvl : Option Nat} {a : Nat} {write : Bool} (h : Reads o s)
   :
    Reads o (State.countAccess s l master lvl a write) := by
  unfold State.countAccess
  try dsimp only
  repeat'
    first
    | with_reducible assumption | with_reducible apply State.pmc_reads | with_reducible apply State.transferEnds_reads
    | split

theorem State.readBus_reads {o : State} {l : Lane} {master : Nat} {lvl : Option Nat} {src a : Nat} {r : Option Word × State}
    (h : Reads o r.2) : Reads o (readBus l master lvl src a r).2 := by
  unfold readBus
  split
  · exact State.cross_reads h
  · exact h

theorem State.readMem_reads {o : State} {s : State} {l : Lane} {master : Nat} {lvl : Option Nat} {src a n : Nat}
    (h : Reads o s) : Reads o (State.readMem s l master lvl src a n).2 := by
  have h1 : Reads o (s.readStored l src (a / 8 * 8)).2 := State.readStored_reads h
  have h2 := State.readBus_reads (l := l) (master := master) (lvl := lvl) (src := src) (a := a / 8 * 8) h1
  have h3 := State.countAccess_reads (l := l) (master := master) (lvl := lvl) (a := a) (write := false) h2
  unfold State.readMem
  dsimp only
  split
  · split
    · exact h3
    · exact State.pmc_reads h3
  · split
    · exact State.snoop_reads h3
    · refine State.snoopErr_reads ?_
      split
      · exact h3
      · exact State.pmc_reads h3

theorem State.readMem_keeps {o : State} {s : State} {l : Lane} {master : Nat} {lvl : Option Nat} {src a n : Nat}
    (h : Keeps o s) : Keeps o (State.readMem s l master lvl src a n).2 := h.trans (State.readMem_reads (Reads.refl s)).toKeeps

theorem State.visit_reads {o : State} {s : State} {l : Lane} {as : List Nat} (h : Reads o s) : Reads o (State.visit s l as) :=
  foldl_reads h fun _ _ k => State.readMem_reads k

theorem State.visit_keeps {o : State} {s : State} {l : Lane} {as : List Nat} (h : Keeps o s) : Keeps o (State.visit s l as) :=
  h.trans (State.visit_reads (Reads.refl s)).toKeeps

theorem State.breakResv_keeps {o : State} {s : State} {l : Lane} {except : Option CoreId} {a : Nat} (h : Keeps o s) :
    Keeps o (State.breakResv s l except a) := by
  have aux : ∀ (p : Prop) [Decidable p] (x : Core), x.Ok → (if p then { x with resv := none } else x).Ok := by
    intro p _ x i
    split
    · exact ⟨i.zero, i.level⟩
    · exact i
  unfold State.breakResv
  refine onLane_keeps h _ _ ?_
  exact fun i => ⟨aux _ _ i.core0, aux _ _ i.core1, i.mem, i.chk, i.regs, i.queue⟩

theorem State.writeWord_keeps {o : State} {s : State} {l : Lane} {who : Option CoreId} {master : Nat} {lvl : Option Nat}
    {a : Nat} {w : Word} (h : Keeps o s) : Keeps o (State.writeWord s l who master lvl a w) := by
  unfold State.writeWord
  refine Keeps.spares (s := (s.onLane l fun x => x.putWord a w).breakResv l who a) ?_
    fun k => State.snoop_spares (State.countAccess_spares k)
  exact State.breakResv_keeps (onLane_keeps h _ _ fun i => putStored_ok _ _ _ i)

theorem State.writeNarrow_keeps {o : State} {s : State} {l : Lane} {who : CoreId} {lvl a n : Nat} {v : Word} (h : Keeps o s) :
    Keeps o (State.writeNarrow s l who lvl a n v).2 := by
  have fin : ∀ {t : State} {wa : Nat} {u : Word} {sel : Nat}, Keeps o t → Keeps o
      (((t.onLane l fun x => x.putWord wa u).breakResv l (some who) wa).snoop l sel (some a) (bytesLE v.toNat n)) := by
    intro t wa u sel k
    exact (State.breakResv_keeps (onLane_keeps k _ _ fun i => putStored_ok _ _ _ i)).spares fun k => State.snoop_spares k
  unfold State.writeNarrow
  dsimp only
  split
  · exact fin (h.spares fun k => State.pmc_spares k)
  · exact fin (h.spares fun k => State.corrected_spares (State.pmc_spares k))
  · exact h.spares fun k => State.eventL_spares (State.poisonMet_spares (State.pmc_spares k))
  · exact (State.poison_keeps (h.spares fun k => State.pmc_spares k)).spares fun k => State.eventL_spares k

theorem LaneState.close_spares {o : LaneState} {x : LaneState} (h : LaneSpares o x) :
    LaneSpares o (LaneState.close x) := by
  unfold LaneState.close
  try dsimp only
  repeat'
    first
    | with_reducible assumption | with_reducible exact LaneSpares.refl _ | split | intro _
    | with_reducible apply LaneSpares.upd

theorem LaneState.sendSeals_spares {o : LaneState} {x : LaneState} {old : Vector LaneTask 16} {due : Nat} {rs : Nat} {prob : Bool} (h : LaneSpares o x)
   :
    LaneSpares o (LaneState.sendSeals x old due rs prob) := by
  unfold LaneState.sendSeals
  try dsimp only
  repeat'
    first
    | with_reducible assumption | with_reducible exact LaneSpares.refl _ | with_reducible apply LaneState.close_spares
    | split | intro _ | with_reducible apply LaneSpares.upd

theorem LaneState.failCycle_spares {o : LaneState} {x : LaneState} {due : Nat} {rs : Nat} {prob : Bool}
    (h : LaneSpares o x) :
    LaneSpares o (LaneState.failCycle x due rs prob) := by
  unfold LaneState.failCycle
  try dsimp only
  repeat'
    first
    | with_reducible assumption | with_reducible exact LaneSpares.refl _
    | with_reducible apply LaneState.sendSeals_spares | split | intro _ | with_reducible apply LaneSpares.upd

theorem State.stopLane_spares {o : State} {s : State} {l : Lane} (h : Spares o s) : Spares o (State.stopLane s l) := by
  unfold State.stopLane
  try dsimp only
  repeat'
    first
    | with_reducible assumption | with_reducible exact LaneSpares.refl _ | simp only [Spares.upd_iff]
    | with_reducible apply onLane_spares | with_reducible apply setLaneReg_spares
    | with_reducible apply State.judgeVset_spares | with_reducible apply State.revote_spares
    | with_reducible apply State.wr_spares | split | intro _ | with_reducible apply LaneSpares.upd

theorem bits_low (w : Word) : bits w.toNat 1 0 = (w &&& 3).toNat := by
  have h3 : (3 : Word).toNat = 2 ^ 2 - 1 := by decide
  rw [BitVec.toNat_and, h3, Nat.and_two_pow_sub_one_eq_mod]
  simp [bits]

theorem Core.enter_ok {x : Core} (cause eaddr : Word) (h : x.Ok) : (x.enter cause eaddr).Ok := by
  refine ⟨h.zero, ?_⟩
  have h1 : ((0xA : Word) &&& 3) = 2 := by decide
  have h2 : (~~~(0xF : Word) &&& 3) = 0 := by decide
  show bits ((x.psw &&& ~~~(0xF : Word)) ||| 0xA).toNat 1 0 ≠ 3
  rw [bits_low, BitVec.and_or_distrib_right, BitVec.and_assoc, h2, h1]
  simp

theorem State.exception_keeps {o : State} {s : State} {l : Lane} {c : CoreId} {code : Nat} {eaddr : Word} (h : Keeps o s) :
    Keeps o (State.exception s l c code eaddr) := by
  have h1 : Keeps o ((s.onCore l c fun y => y.enter (BitVec.ofNat 64 code) eaddr).pmc l 1 1 (.level (s.core l c).level.code)) :=
    (onCore_keeps h l c _ fun i => Core.enter_ok _ _ i).spares fun k => State.pmc_spares k
  unfold State.exception
  dsimp only
  split
  · exact h.spares fun k => State.stopLane_spares k
  · split
    · exact h1
    · split
      · exact h1
      · exact h1.spares fun k => State.eventL_spares (onLane_spares k _ _ (LaneState.failCycle_spares (LaneSpares.refl _)))
    · split
      · exact h1
      · exact h1.spares fun k => State.eventL_spares (onLane_spares k _ _ (LaneSpares.upd (LaneSpares.refl _)))

theorem State.interrupt_keeps {o : State} {s : State} {l : Lane} {c : CoreId} (h : Keeps o s) :
    Keeps o (State.interrupt s l c) := by
  unfold State.interrupt
  split
  · exact (onCore_keeps h l c _ fun i => Core.enter_ok _ _ i).spares fun k => State.pmc_spares k
  · exact h

theorem LaneState.release_keeps {x : LaneState} {entry : Word} (h : LaneState.Ok x) : LaneState.Ok (LaneState.release x entry) :=
  have k : bits resetCore.psw.toNat 1 0 ≠ 3 := by decide
  ⟨⟨by simp [LaneState.release, resetCore, Core.g], k⟩,
   ⟨by simp [LaneState.release, resetCore, Core.g], k⟩, h.mem, h.chk, h.regs, h.queue⟩

theorem State.fetch_reads {o : State} {s : State} {l : Lane} {c : CoreId} (h : Reads o s) : Reads o (State.fetch s l c).2 := by
  have h1 : Reads o (s.readStored l 0 ((s.core l c).pc.toNat / 8 * 8)).2 := State.readStored_reads h
  unfold State.fetch
  dsimp only
  split
  · exact h
  · split
    · generalize s.readStored l 0 ((s.core l c).pc.toNat / 8 * 8) = r at h1 ⊢
      obtain ⟨_ | v, t⟩ := r
      · exact h1
      · have h2 := State.cross_reads (l := l) (p := .fetch c) (src := 0) (a := (s.core l c).pc.toNat / 8 * 8) (w := v) h1
        dsimp only at h2 ⊢
        split <;> exact h2
    · exact h

theorem State.fetch_keeps {o : State} {s : State} {l : Lane} {c : CoreId} (h : Keeps o s) : Keeps o (State.fetch s l c).2 :=
  h.trans (State.fetch_reads (Reads.refl s)).toKeeps

theorem State.issue_keeps {o : State} {s : State} {l : Lane} {c : CoreId} {lowest : Level} {body : State → State} (h : Keeps o s)
    (hb : ∀ t, Keeps o t → Keeps o (body t)) : Keeps o (State.issue s l c lowest body) := by
  have h1 : Keeps o (s.fetch l c).2 := State.fetch_keeps h
  unfold State.issue
  split
  · exact h
  · split
    · exact State.interrupt_keeps h
    · split
      · rename_i e; rw [e] at h1; exact State.exception_keeps h1
      · rename_i e; rw [e] at h1
        split
        · exact hb _ h1
        · exact State.exception_keeps h1

theorem State.retire_keeps {o : State} {s : State} {l : Lane} {c : CoreId} (h : Keeps o s) : Keeps o (State.retire s l c) :=
  (onCore_keeps h l c _ fun i => ⟨i.zero, i.level⟩).spares fun k => State.pmc_spares k

theorem State.coreOp_keeps {o : State} {s : State} {l : Lane} {c : CoreId} {lowest : Level} {f : Core → Core} (h : Keeps o s)
    (hf : ∀ x : Core, x.Ok → (f x).Ok) : Keeps o (State.coreOp s l c lowest f) :=
  State.issue_keeps h fun _ k => State.retire_keeps (onCore_keeps k l c _ (hf _))

theorem State.onSettings_spares {o : State} {s : State} {f : Settings → Settings} (h : Spares o s) :
    Spares o (State.onSettings s f) := by
  unfold State.onSettings
  try dsimp only
  repeat'
    first
    | with_reducible assumption | simp only [Spares.upd_iff]

theorem State.keepSetting_spares {o : State} {s : State} {l : Lane} {a : Nat} (h : Spares o s) :
    Spares o (State.keepSetting s l a) := by
  unfold State.keepSetting
  try dsimp only
  repeat'
    first
    | with_reducible assumption | simp only [Spares.upd_iff] | with_reducible apply State.onSettings_spares

end Sys2Proof.Machine
end

