-- ==== Sys2Proof/Laws/Fields.lean ====
section
/-! SUPPORT. Laws/Fields.lean: what a field of a register reads as after a write to the same or to another field. -/
namespace Sys2Proof.Machine

/-- A field that lies in a 64-bit register. -/
abbrev RField.Fits (f : RField) : Prop := f.lo ≤ f.hi ∧ f.hi < 64

theorem RField.mask_bit {f : RField} (hf : f.Fits) (i : Nat) : f.mask.testBit i = (decide (f.lo ≤ i) && decide (i ≤ f.hi)) := by
  obtain ⟨h1, h2⟩ := hf
  simp only [RField.mask, Nat.testBit_shiftLeft, Nat.testBit_two_pow_sub_one, ge_iff_le]
  by_cases h : f.lo ≤ i <;> simp [h]
  omega

theorem RField.put_toNat_bit {f : RField} (hf : f.Fits) (w : Word) (v i : Nat) :
    (f.put w v).toNat.testBit i =
      if f.lo ≤ i ∧ i ≤ f.hi then v.testBit (i - f.lo) else w.toNat.testBit i := by
  obtain ⟨h1, h2⟩ := hf
  have hw : (f.put w v).toNat.testBit i = (f.put w v).getLsbD i := rfl
  have hw' : w.toNat.testBit i = w.getLsbD i := rfl
  rw [hw, hw']
  simp only [RField.put, BitVec.getLsbD_or, BitVec.getLsbD_and, BitVec.getLsbD_not, BitVec.getLsbD_ofNat, Nat.testBit_shiftLeft,
    Nat.testBit_mod_two_pow, RField.mask_bit ⟨h1, h2⟩]
  by_cases h3 : f.lo ≤ i
  · by_cases h4 : i ≤ f.hi
    · have h5 : i < 64 := by omega
      have h6 : i - f.lo < f.hi + 1 - f.lo := by omega
      simp [h3, h4, h5, h6]
    · have h6 : ¬ i - f.lo < f.hi + 1 - f.lo := by omega
      simp only [h3, h4, h6]
      by_cases h5 : i < 64
      · simp [h5]
      · simp [h5, BitVec.getLsbD_of_ge w i (by omega)]
  · simp only [h3]
    by_cases h5 : i < 64
    · simp [h5]
    · simp [h5, BitVec.getLsbD_of_ge w i (by omega)]

theorem RField.of_bit (f : RField) (w : Word) (i : Nat) :
    (f.of w).testBit i = (decide (i < f.hi + 1 - f.lo) && w.toNat.testBit (f.lo + i)) := by
  rw [RField.of, Nat.testBit_mod_two_pow, Nat.testBit_shiftRight]

/-- A field reads as what was written to it, modulo its width. -/
theorem RField.of_put {f : RField} (hf : f.Fits) (w : Word) (v : Nat) : f.of (f.put w v) = v % 2 ^ (f.hi + 1 - f.lo) := by
  refine Nat.eq_of_testBit_eq fun i => ?_
  rw [RField.of_bit, RField.put_toNat_bit hf, Nat.testBit_mod_two_pow]
  by_cases h : i < f.hi + 1 - f.lo
  · rw [if_pos ⟨by omega, by omega⟩]
    simp [h]
  · simp [h]

/-- A write to a field leaves the fields that share no bit with it. -/
theorem RField.of_put_other {f g : RField} (hf : f.Fits) (w : Word) (v : Nat) (h : g.hi < f.lo ∨ f.hi < g.lo) :
    g.of (f.put w v) = g.of w := by
  refine Nat.eq_of_testBit_eq fun i => ?_
  rw [RField.of_bit, RField.of_bit, RField.put_toNat_bit hf]
  by_cases h2 : i < g.hi + 1 - g.lo
  · rw [if_neg (by omega)]
  · simp [h2]

theorem RField.of_lt (f : RField) (w : Word) : f.of w < 2 ^ (f.hi + 1 - f.lo) := Nat.mod_lt _ (Nat.two_pow_pos _)

/-- Two fields that share no bit. -/
abbrev RField.Apart (f g : RField) : Prop := g.addr ≠ f.addr ∨ g.hi < f.lo ∨ f.hi < g.lo

theorem State.modReg_setModReg_same {s : State} {a : Nat} {w : Word} (h : mapWf resetOf s.modRegs = true) :
    (s.setModReg a w).modReg a = w := mapGet_mapSet_same h

theorem State.modReg_setModReg_other {s : State} {a b : Nat} {w : Word} (h : b ≠ a) :
    (s.setModReg a w).modReg b = s.modReg b := mapGet_mapSet_other h

theorem State.rdM_wrM_same {s : State} {f : RField} {v : Nat} (hf : f.Fits) (h : s.Inv) :
    (s.wrM f v).rdM f = v % 2 ^ (f.hi + 1 - f.lo) := by
  rw [State.rdM, State.wrM, State.modReg_setModReg_same h.modRegs, RField.of_put hf]

theorem State.rdM_wrM_other {s : State} {f g : RField} {v : Nat} (hf : f.Fits) (h : s.Inv) (d : f.Apart g) :
    (s.wrM f v).rdM g = s.rdM g := by
  rw [State.rdM, State.rdM, State.wrM]
  by_cases e : g.addr = f.addr
  · rw [e, State.modReg_setModReg_same h.modRegs, RField.of_put_other hf]
    exact d.resolve_left (fun k => k e)
  · rw [State.modReg_setModReg_other e]

theorem State.laneReg_setLaneReg_same {s : State} {l : Lane} {a : Nat} {w : Word} (h : s.Inv) :
    (s.setLaneReg l a w).laneReg l a = w := by
  rw [State.laneReg, State.setLaneReg, State.lane_onLane, if_pos rfl]
  exact mapGet_mapSet_same (h.lane l).regs

theorem State.laneReg_setLaneReg_other {s : State} {l m : Lane} {a b : Nat} {w : Word} (h : m ≠ l ∨ b ≠ a) :
    (s.setLaneReg l a w).laneReg m b = s.laneReg m b := by
  rw [State.laneReg, State.setLaneReg, State.lane_onLane, State.laneReg]
  split
  · subst m
    exact mapGet_mapSet_other (h.resolve_left (fun k => k rfl))
  · rfl

theorem State.rd_wr_same {s : State} {l : Lane} {f : RField} {v : Nat} (hf : f.Fits) (h : s.Inv) :
    (s.wr l f v).rd l f = v % 2 ^ (f.hi + 1 - f.lo) := by
  rw [State.rd, State.wr, State.laneReg_setLaneReg_same h, RField.of_put hf]

theorem State.rd_wr_other {s : State} {l m : Lane} {f g : RField} {v : Nat} (hf : f.Fits) (h : s.Inv) (d : m ≠ l ∨ f.Apart g) :
    (s.wr l f v).rd m g = s.rd m g := by
  rw [State.rd, State.rd, State.wr]
  by_cases e : m = l ∧ g.addr = f.addr
  · obtain ⟨rfl, e⟩ := e
    rw [e, State.laneReg_setLaneReg_same h, RField.of_put_other hf]
    rcases d with d | d | d
    · exact absurd rfl d
    · exact absurd e d
    · exact d
  · rw [State.laneReg_setLaneReg_other (by tauto)]

/-! ## The module's registers pass through what writes a lane or an event -/

@[simp] theorem State.modReg_onLane (s : State) (l : Lane) (f : LaneState → LaneState) (a : Nat) :
    (s.onLane l f).modReg a = s.modReg a := rfl
@[simp] theorem State.modReg_setLaneReg (s : State) (l : Lane) (a b : Nat) (w : Word) :
    (s.setLaneReg l a w).modReg b = s.modReg b := rfl
@[simp] theorem State.modReg_wr (s : State) (l : Lane) (f : RField) (v a : Nat) : (s.wr l f v).modReg a = s.modReg a := rfl
@[simp] theorem State.modReg_inc (s : State) (l : Lane) (f : RField) (a : Nat) : (s.inc l f).modReg a = s.modReg a := rfl
@[simp] theorem State.modReg_eventL (s : State) (l : Lane) (c : Nat) (d : List Nat) (a : Nat) :
    (s.eventL l c d).modReg a = s.modReg a := rfl
@[simp] theorem State.modReg_drawn (s : State) (a : Nat) : s.drawn.modReg a = s.modReg a := rfl
@[simp] theorem State.modReg_pendRecord (s : State) (c : Nat) (d : List Nat) (a : Nat) :
    (s.pendRecord c d).modReg a = s.modReg a := rfl
@[simp] theorem State.modReg_raise (s : State) (l : Lane) (n a : Nat) : (s.raise l n).modReg a = s.modReg a := rfl

@[simp] theorem State.modRegs_onLane (s : State) (l : Lane) (f : LaneState → LaneState) : (s.onLane l f).modRegs = s.modRegs := by cases s; rfl
@[simp] theorem State.modRegs_setLaneReg (s : State) (l : Lane) (a : Nat) (w : Word) : (s.setLaneReg l a w).modRegs = s.modRegs := by cases s; rfl
@[simp] theorem State.modRegs_wr (s : State) (l : Lane) (f : RField) (v : Nat) : (s.wr l f v).modRegs = s.modRegs := by cases s; rfl
@[simp] theorem State.modRegs_inc (s : State) (l : Lane) (f : RField) : (s.inc l f).modRegs = s.modRegs := by cases s; rfl
@[simp] theorem State.modRegs_eventL (s : State) (l : Lane) (c : Nat) (d : List Nat) : (s.eventL l c d).modRegs = s.modRegs := by cases s; rfl
@[simp] theorem State.modRegs_drawn (s : State) : s.drawn.modRegs = s.modRegs := by cases s; rfl
@[simp] theorem State.modRegs_pendRecord (s : State) (c : Nat) (d : List Nat) : (s.pendRecord c d).modRegs = s.modRegs := by cases s; rfl
@[simp] theorem State.modRegs_raise (s : State) (l : Lane) (n : Nat) : (s.raise l n).modRegs = s.modRegs := by cases s; rfl
@[simp] theorem State.modRegs_onCore (s : State) (l : Lane) (c : CoreId) (f : Core → Core) : (s.onCore l c f).modRegs = s.modRegs := by cases s; rfl

theorem foldl_same {α β : Type} (p : State → β) {f : State → α → State} {xs : List α} (hf : ∀ t x, p (f t x) = p t) :
    ∀ s : State, p (xs.foldl f s) = p s := by
  induction xs with
  | nil => exact fun _ => rfl
  | cons x xs ih => exact fun s => (ih (f s x)).trans (hf s x)

@[simp] theorem State.modRegs_event (s : State) (c : Nat) (d : List Nat) : (s.event c d).modRegs = s.modRegs := by
  unfold State.event
  extract_lets xs
  clear_value xs
  split
  · rfl
  · exact foldl_same State.modRegs (f := fun s l => s.eventL l c d) (fun _ _ => rfl) s

@[simp] theorem State.modReg_event (s : State) (c : Nat) (d : List Nat) (a : Nat) : (s.event c d).modReg a = s.modReg a := by
  rw [State.modReg, State.modRegs_event, State.modReg]

theorem State.rdM_of_modReg {s t : State} {f : RField} (h : t.modReg f.addr = s.modReg f.addr) : t.rdM f = s.rdM f := by
  rw [State.rdM, h, State.rdM]

@[simp] theorem State.rdM_wr (s : State) (l : Lane) (f g : RField) (v : Nat) : (s.wr l f v).rdM g = s.rdM g := rfl
@[simp] theorem State.rdM_inc (s : State) (l : Lane) (f g : RField) : (s.inc l f).rdM g = s.rdM g := rfl
@[simp] theorem State.rdM_setLaneReg (s : State) (l : Lane) (a : Nat) (w : Word) (g : RField) :
    (s.setLaneReg l a w).rdM g = s.rdM g := rfl
@[simp] theorem State.rdM_eventL (s : State) (l : Lane) (c : Nat) (d : List Nat) (g : RField) :
    (s.eventL l c d).rdM g = s.rdM g := rfl
@[simp] theorem State.rdM_event (s : State) (c : Nat) (d : List Nat) (g : RField) : (s.event c d).rdM g = s.rdM g :=
  State.rdM_of_modReg (State.modReg_event ..)
@[simp] theorem State.rdM_raise (s : State) (l : Lane) (n : Nat) (g : RField) : (s.raise l n).rdM g = s.rdM g := rfl
@[simp] theorem State.rdM_drawn (s : State) (g : RField) : s.drawn.rdM g = s.rdM g := rfl

@[simp] theorem State.laneReg_setModReg (s : State) (l : Lane) (a b : Nat) (w : Word) :
    (s.setModReg a w).laneReg l b = s.laneReg l b := rfl
@[simp] theorem State.laneReg_wrM (s : State) (l : Lane) (f : RField) (v b : Nat) : (s.wrM f v).laneReg l b = s.laneReg l b := rfl
@[simp] theorem State.rd_wrM (s : State) (l : Lane) (f g : RField) (v : Nat) : (s.wrM f v).rd l g = s.rd l g := rfl
@[simp] theorem State.rd_incM (s : State) (l : Lane) (f g : RField) : (s.incM f).rd l g = s.rd l g := rfl
@[simp] theorem State.rd_eventL (s : State) (l m : Lane) (c : Nat) (d : List Nat) (g : RField) :
    (s.eventL m c d).rd l g = s.rd l g := rfl

end Sys2Proof.Machine
end

