-- ==== Sys2Proof/Laws/FrameAlu.lean ====
section
/-! SUPPORT. Laws/FrameAlu.lean: what the operations of Machine/Alu.lean keep. -/
namespace Sys2Proof.Machine

theorem State.alu_keeps {o : State} {s : State} {l : Lane} {c : CoreId} {gd : GReg} {f : Core → Word} (h : Keeps o s) :
    Keeps o (State.alu s l c gd f) := by
  unfold State.alu
  try dsimp only
  repeat'
    first
    | with_reducible assumption | with_reducible apply setG_ok | with_reducible apply State.coreOp_keeps | split
    | intro _

theorem State.aluTrap_keeps {o : State} {s : State} {l : Lane} {c : CoreId} {gd : GReg} {trap : Core → Bool} {f : Core → Word} (h : Keeps o s)
   :
    Keeps o (State.aluTrap s l c gd trap f) := by
  unfold State.aluTrap
  try dsimp only
  repeat'
    first
    | with_reducible assumption | with_reducible apply onCore_keeps | with_reducible apply setG_ok
    | with_reducible apply State.exception_keeps | with_reducible apply State.issue_keeps
    | with_reducible apply State.retire_keeps | (exact fun i => setG_ok _ _ i) | (exact fun i => ⟨i.zero, i.level⟩)
    | (exact fun i => ⟨(setG_ok _ _ i).zero, (setG_ok _ _ i).level⟩) | split | intro _

/-- Replacing the flags keeps PSW.LVL. -/
theorem pswWithFlags_level (p : Word) (f : FlagSet) : bits (pswWithFlags p f).toNat 1 0 = bits p.toNat 1 0 := by
  have h1 : ((BitVec.ofNat 64 (ofBool f.n * 0x8000 + ofBool f.z * 0x4000 + ofBool f.c * 0x2000 + ofBool f.v * 0x1000) : Word)
      &&& 3) = 0 := by
    rcases f with ⟨_ | _, _ | _, _ | _, _ | _⟩ <;> decide
  have h2 : (~~~(0xF000 : Word) &&& 3) = 3 := by decide
  rw [bits_low, bits_low, pswWithFlags, BitVec.and_or_distrib_right, BitVec.and_assoc, h2, h1]
  simp

theorem setFlags_ok {x : Core} (f : FlagSet) (h : x.Ok) : (x.setFlags f).Ok :=
  ⟨h.zero, by rw [Core.setFlags]; dsimp only; rw [pswWithFlags_level]; exact h.level⟩

theorem State.aluFlags_keeps {o : State} {s : State} {l : Lane} {c : CoreId} {gd : GReg} {f : Core → Word}
    {fl : Core → FlagSet} (h : Keeps o s) : Keeps o (State.aluFlags s l c gd f fl) :=
  State.coreOp_keeps h fun _ i => setFlags_ok _ (setG_ok _ _ i)

theorem State.cmpFlags_keeps {o : State} {s : State} {l : Lane} {c : CoreId} {fl : Core → FlagSet} (h : Keeps o s) :
    Keeps o (State.cmpFlags s l c fl) := State.coreOp_keeps h fun _ i => setFlags_ok _ i

end Sys2Proof.Machine
end

