-- ==== Sys2Proof/Laws/FrameControl.lean ====
section
/-! SUPPORT. Laws/FrameControl.lean: what the operations of Machine/Control.lean keep. -/
namespace Sys2Proof.Machine

theorem State.retireTo_keeps {o : State} {s : State} {l : Lane} {c : CoreId} {pc : Word} (h : Keeps o s) :
    Keeps o (State.retireTo s l c pc) :=
  (onCore_keeps h l c _ fun i => ⟨i.zero, i.level⟩).spares fun k => State.pmc_spares k

theorem State.branch_keeps {o : State} {s : State} {l : Lane} {c : CoreId} {off : BitVec 16} {cond : Core → Bool}
    (h : Keeps o s) : Keeps o (State.branch s l c off cond) :=
  State.issue_keeps h fun _ k => State.retireTo_keeps k

theorem State.jumpLink_keeps {o : State} {s : State} {l : Lane} {c : CoreId} {gd : GReg} {target : Core → Word}
    (h : Keeps o s) : Keeps o (State.jumpLink s l c gd target) :=
  State.retireTo_keeps (onCore_keeps h l c _ fun i => setG_ok _ _ i)

theorem State.readCtl_keeps {o : State} {s : State} {l : Lane} {c : CoreId} {n : Nat} (h : Keeps o s) :
    Keeps o (State.readCtl s l c n).2 := by
  unfold State.readCtl
  dsimp only
  split
  · exact Keeps.upd (onCore_keeps h l c _ fun i => ⟨i.zero, i.level⟩)
  · split
    · exact Keeps.upd h
    · exact h

theorem setCtl_ok {x : Core} {n : Nat} {v : Word} (hv : n = 0 → bits v.toNat 1 0 ≠ 3) (h : x.Ok) : (x.setCtl n v).Ok := by
  unfold Core.setCtl
  split
  · exact ⟨h.zero, hv rfl⟩
  all_goals first
    | exact ⟨h.zero, h.level⟩
    | (repeat' split) <;> exact ⟨h.zero, h.level⟩

theorem State.writeCtl_keeps {o : State} {s : State} {l : Lane} {c : CoreId} {n : Nat} {v : Word}
    (hv : n = 0 → bits v.toNat 1 0 ≠ 3) (h : Keeps o s) : Keeps o (State.writeCtl s l c n v) := by
  unfold State.writeCtl
  split
  · exact h.spares fun k => State.eventL_spares k
  · split
    · split
      · exact h.spares fun k => raiseOn_spares k _ _ _
      · exact h
    · exact onCore_keeps h l c _ fun i => setCtl_ok hv i

/-- MTC of the flags alone keeps PSW.LVL. -/
theorem psw_flags_level (p v : Word) : bits ((p &&& ~~~(0xF000 : Word)) ||| (v &&& 0xF000)).toNat 1 0 = bits p.toNat 1 0 := by
  have h1 : ((0xF000 : Word) &&& 3) = 0 := by decide
  have h2 : (~~~(0xF000 : Word) &&& 3) = 3 := by decide
  rw [bits_low, bits_low, BitVec.and_or_distrib_right, BitVec.and_assoc, h2, BitVec.and_assoc, h1]
  simp

theorem leave_ok {x : Core} (hv : bits x.epsw.toNat 1 0 ≠ 3) (h : x.Ok) : x.leave.Ok := by
  refine ⟨h.zero, ?_⟩
  have h2 : ((0xF007 : Word) &&& 3) = 3 := by decide
  show bits (x.epsw &&& 0xF007).toNat 1 0 ≠ 3
  rw [bits_low, BitVec.and_assoc, h2, ← bits_low]
  exact hv

end Sys2Proof.Machine
end

