-- ==== Sys2Proof/Laws/FrameLogic.lean ====
section
/-! SUPPORT. Laws/FrameLogic.lean: what the operations of Machine/Logic.lean keep. -/
namespace Sys2Proof.Machine

/-! The evaluation of a logic instruction only reads memory. -/

@[simp] theorem Ev.fail_st (e : Ev) (n : Nat) : (e.fail n).st = e.st := rfl

@[simp] theorem Ev.put_st (e : Ev) (r : Ref) (n : Nat) (raw : Word) : (e.put r n raw).st = e.st := by
  unfold Ev.put; dsimp only; split <;> rfl

@[simp] theorem Ctx.assign_st (c : Ctx) (e : Ev) (r : Ref) (n : Nat) : (c.assign e r n).st = e.st := Ev.put_st ..

@[simp] theorem Ctx.assignDst_st (c : Ctx) (e : Ev) (i : LogicIns) (n : Nat) : (c.assignDst e i n).st = e.st := Ev.put_st ..

@[simp] theorem Ctx.assignFormula_st (c : Ctx) (e : Ev) (i : LogicIns) (n : Nat) (w : Word) :
    (c.assignFormula e i n w).st = e.st := Ev.put_st ..

@[simp] theorem Ctx.take_st (c : Ctx) (e : Ev) (raw : Word) (b : Nat) : (c.take e raw b).2.st = e.st := by
  unfold Ctx.take
  repeat' split
  all_goals rfl

theorem Ctx.committed_reads {o : State} {c : Ctx} {e : Ev} {r : Ref} (h : Reads o e.st) :
    Reads o (c.committed e r).2.st := by
  have h1 := State.readMem_reads (l := c.lane) (master := mEngine) (lvl := none) (src := 1)
    (a := c.base + refOffset r + (if c.kind = .coded then 8 else 0)) (n := 8) h
  unfold Ctx.committed
  dsimp only
  generalize e.st.readMem c.lane mEngine none 1 (c.base + refOffset r + (if c.kind = .coded then 8 else 0)) 8 = m at h1 ⊢
  split
  · exact h1
  · rw [Ctx.take_st]; exact h1

theorem Ctx.read_reads {o : State} {c : Ctx} {e : Ev} {r : Ref} (h : Reads o e.st) : Reads o (c.read e r).2.st := by
  have h1 : ∀ q, Reads o (c.committed { e with reads := e.reads ++ [refBare r] } q).2.st :=
    fun q => Ctx.committed_reads (e := { e with reads := e.reads ++ [refBare r] }) h
  unfold Ctx.read
  dsimp only
  repeat' first
    | with_reducible exact h
    | with_reducible exact h1 _
    | rw [Ctx.take_st]
    | rw [Ev.fail_st]
    | split

theorem Ctx.readBool_reads {o : State} {c : Ctx} {e : Ev} {r : Ref} (h : Reads o e.st) : Reads o (c.readBool e r).2.2.st := by
  have h1 := Ctx.read_reads (c := c) (r := r) h
  unfold Ctx.readBool
  dsimp only
  split
  · exact h1
  · split <;> exact h1

theorem Ctx.readAll_reads {o : State} {c : Ctx} {rs : List Ref} :
    ∀ {e : Ev}, Reads o e.st → Reads o (c.readAll e rs).2.st := by
  induction rs with
  | nil => exact fun h => h
  | cons r rs ih => exact fun h => ih (Ctx.read_reads h)

theorem Ctx.readBools_reads {o : State} {c : Ctx} {rs : List Ref} :
    ∀ {e : Ev}, Reads o e.st → Reads o (c.readBools e rs).2.st := by
  induction rs with
  | nil => exact fun h => h
  | cons r rs ih => exact fun h => ih (Ctx.readBool_reads h)

theorem Ctx.flankAll_reads {o : State} {c : Ctx} {rs : List Ref} :
    ∀ {e : Ev}, Reads o e.st → Reads o (c.flankAll e rs).2.st := by
  induction rs with
  | nil => exact fun h => h
  | cons r rs ih => exact fun h => ih (Ctx.read_reads (Ctx.read_reads h))

theorem Ctx.lockFree_reads {o : State} {c : Ctx} {own kind : Nat} {rs : List Ref} :
    ∀ {e : Ev}, Reads o e.st → Reads o (c.lockFree e own kind rs).2.st := by
  induction rs with
  | nil => exact fun h => h
  | cons r rs ih => exact fun h => ih (Ctx.read_reads (Ctx.read_reads h))

theorem Ctx.sealSlots_reads {o : State} {c : Ctx} {rs : List Ref} :
    ∀ {e : Ev}, Reads o e.st → Reads o (c.sealSlots e rs).2.st := by
  induction rs with
  | nil => exact fun h => h
  | cons r rs ih => exact fun h => ih (Ctx.read_reads h)

theorem foldl_ev_reads {α : Type} {o : State} {f : Ev → α → Ev} {xs : List α}
    (hf : ∀ e x, Reads o e.st → Reads o (f e x).st) : ∀ {e : Ev}, Reads o e.st → Reads o (xs.foldl f e).st := by
  induction xs with
  | nil => exact fun h => h
  | cons x xs ih => exact fun h => ih (hf _ x h)

theorem Ctx.flreqSlot_reads {o : State} {c : Ctx} (e : Ev) (r : Ref) (h : Reads o e.st) : Reads o (c.flreqSlot e r).st := by
  unfold Ctx.flreqSlot
  rw [Ctx.assign_st]
  exact Ctx.read_reads h

theorem Ctx.unlockSlot_reads {o : State} {c : Ctx} {own kind : Nat} (e : Ev) (r : Ref) (h : Reads o e.st) :
    Reads o (c.unlockSlot own kind e r).st := by
  have h1 := Ctx.read_reads (c := c) (r := refAt r 5) (Ctx.read_reads (c := c) (r := refAt r 4) h)
  unfold Ctx.unlockSlot
  dsimp only
  split
  · simpa using h1
  · exact h1

theorem Ctx.rrelSeen_reads {o : State} {c : Ctx} {rs : List Ref} :
    ∀ {e : Ev}, Reads o e.st → Reads o (c.rrelSeen e rs).st := by
  induction rs with
  | nil => exact fun h => h
  | cons r rs ih =>
    intro e h
    have h1 := Ctx.read_reads (c := c) (r := r) h
    rw [Ctx.rrelSeen]
    split
    · refine ih ?_
      split
      · simpa using h1
      · exact h1
    · exact ih h

theorem Ctx.rrelRelease_reads {o : State} {c : Ctx} {e : Ev} {own : Ref} {i : Nat} {last : Bool} {j : Ref} {rest : List Ref}
    (h : Reads o e.st) : Reads o (c.rrelRelease e own i last j rest).st := by
  have h1 := foldl_ev_reads (xs := j :: releasedWith rest)
    (f := fun e r => c.assign (c.assign e (refAt r 4) (stateCode 1)) (refAt r 5) 0x2000) (fun e x k => by simpa using k) h
  unfold Ctx.rrelRelease
  dsimp only
  split <;> simpa using h1

theorem Ctx.rrel_reads {o : State} {c : Ctx} {e : Ev} {own : Ref} {first : Nat} {slots : List Ref} (h : Reads o e.st) :
    Reads o (c.rrel e own first slots).st := by
  unfold Ctx.rrel
  dsimp only
  repeat' first
    | with_reducible exact h
    | with_reducible apply Ctx.read_reads
    | with_reducible apply Ctx.rrelRelease_reads
    | with_reducible apply Ctx.rrelSeen_reads
    | split

theorem Ctx.tmr_reads {o : State} {c : Ctx} {e : Ev} {i : LogicIns} {run : Ref} (h : Reads o e.st) :
    Reads o (c.tmr e i run).st := by
  unfold Ctx.tmr
  dsimp only
  repeat' first
    | with_reducible exact h
    | with_reducible apply Ctx.read_reads
    | with_reducible apply Ctx.readBool_reads
    | rw [Ctx.assign_st]
    | split

theorem Ctx.edge_reads {o : State} {c : Ctx} {e : Ev} {i : LogicIns} {src mem : Ref} (h : Reads o e.st) :
    Reads o (c.edge e i src mem).st := by
  unfold Ctx.edge
  dsimp only
  rw [Ctx.assign_st, Ctx.assignDst_st]
  exact Ctx.read_reads (Ctx.read_reads h)

theorem Ctx.carryRec_reads {o : State} {c : Ctx} (e : Ev) (r : Ref) (h : Reads o e.st) : Reads o (c.carryRec e r).st := by
  unfold Ctx.carryRec
  split
  · exact h
  · refine foldl_ev_reads (fun e x k => ?_) h
    rw [Ctx.assign_st]
    exact Ctx.read_reads k

theorem Ctx.compute_reads {o : State} {c : Ctx} {e : Ev} {i : LogicIns} (h : Reads o e.st) :
    Reads o (c.compute e i).1.st := by
  unfold Ctx.compute
  dsimp only
  split
  all_goals
    repeat' first
      | with_reducible exact h
      | with_reducible apply Ctx.read_reads
      | with_reducible apply Ctx.readBool_reads
      | with_reducible apply Ctx.readAll_reads
      | with_reducible apply Ctx.readBools_reads
      | with_reducible apply Ctx.flankAll_reads
      | with_reducible apply Ctx.lockFree_reads
      | with_reducible apply Ctx.sealSlots_reads
      | with_reducible apply Ctx.rrel_reads
      | with_reducible apply Ctx.tmr_reads
      | with_reducible apply Ctx.edge_reads
      | with_reducible refine foldl_ev_reads Ctx.flreqSlot_reads ?_
      | with_reducible refine foldl_ev_reads Ctx.unlockSlot_reads ?_
      | with_reducible refine foldl_ev_reads Ctx.carryRec_reads ?_
      | with_reducible refine foldl_ev_reads (fun e x k => by simpa using k) ?_
      | rw [Ctx.assign_st]
      | rw [Ctx.assignDst_st]
      | rw [Ctx.assignFormula_st]
      | rw [Ev.fail_st]
      | split

theorem Ctx.eval_reads {o : State} {c : Ctx} {s : State} {off : Nat} {i : LogicIns} {p : Bool} {own : List Nat}
    (h : Reads o s) : Reads o (c.eval s off i p own).1 := by
  unfold Ctx.eval
  dsimp only
  split
  · exact h
  · exact Ctx.compute_reads h

theorem Ctx.eval_keeps {o : State} {c : Ctx} {s : State} {off : Nat} {i : LogicIns} {p : Bool} {own : List Nat}
    (h : Keeps o s) : Keeps o (c.eval s off i p own).1 := h.trans (Ctx.eval_reads (Reads.refl s)).toKeeps

end Sys2Proof.Machine
end

