-- ==== Sys2Proof/Laws/FrameEngine.lean ====
section
/-! SUPPORT. Laws/FrameEngine.lean: what the operations of Machine/Engine.lean keep. -/
namespace Sys2Proof.Machine

@[simp] theorem Engine.setPhase_length (e : Engine) (t : Word) (ph : Phase) :
    (e.setPhase t ph).queue.length = e.queue.length := by simp [Engine.setPhase]

theorem State.onEng_keeps {o : State} {s : State} {l : Lane} {f : Engine → Engine} (h : Keeps o s)
    (hf : (s.lane l).eng.queue.length ≤ 4 → (f (s.lane l).eng).queue.length ≤ 4) : Keeps o (State.onEng s l f) := by
  unfold State.onEng
  refine onLane_keeps h l _ ?_
  exact fun i => ⟨i.core0, i.core1, i.mem, i.chk, i.regs, hf i.queue⟩

theorem State.setRun_keeps {o : State} {s : State} {l : Lane} {p : Pass} {r : Run} (h : Keeps o s) :
    Keeps o (State.setRun s l p r) := by
  unfold State.setRun
  try dsimp only
  repeat'
    first
    | with_reducible assumption | with_reducible apply State.onEng_keeps | (exact fun i => i)
    | (exact fun i => (List.length_filter_le _ _).trans i) | (exact fun i => by simpa using i)

theorem State.trailWrite_keeps {o : State} {s : State} {l : Lane} {p : Pass} {a : SealAcc} (h : Keeps o s) :
    Keeps o (State.trailWrite s l p a) := by
  unfold State.trailWrite
  try dsimp only
  repeat'
    first
    | with_reducible assumption | with_reducible apply State.writeWord_keeps | split

theorem State.fold_keeps {o : State} {s : State} {l : Lane} {p : Pass} {a : SealAcc} {v : Word} (h : Keeps o s) :
    Keeps o (State.fold s l p a v).1 := by
  unfold State.fold
  try dsimp only
  repeat'
    first
    | with_reducible assumption | simp only [Keeps.upd_iff] | with_reducible apply LaneState.close_spares
    | with_reducible apply State.trailWrite_keeps | split

theorem State.foldAll_keeps {o : State} {l : Lane} {p : Pass} {vs : List (Ref × Nat)} :
    ∀ {s : State} {a : SealAcc}, Keeps o s → Keeps o (State.foldAll s l p a vs).1 := by
  induction vs with
  | nil => exact fun h => h
  | cons v vs ih => exact fun h => ih (State.fold_keeps h)

theorem State.engWrite_keeps {o : State} {l : Lane} {ws : List Word} :
    ∀ {s : State} {a : Nat}, Keeps o s → Keeps o (State.engWrite s l a ws) := by
  induction ws with
  | nil => exact fun h => h
  | cons w ws ih => exact fun h => ih (State.writeWord_keeps h)

theorem LaneState.onTask_spares {o : LaneState} {x : LaneState} {t : Nat} {f : LaneTask → LaneTask} (h : LaneSpares o x) :
    LaneSpares o (LaneState.onTask x t f) := by
  unfold LaneState.onTask
  split
  · exact LaneSpares.upd h
  · exact h

theorem State.sealToCmp_spares {o : State} {s : State} {l : Lane} {r : SealRec} (h : Spares o s) :
    Spares o (State.sealToCmp s l r) := by
  unfold State.sealToCmp
  try dsimp only
  repeat'
    first
    | with_reducible assumption | with_reducible exact LaneSpares.refl _ | simp only [Spares.upd_iff]
    | with_reducible apply onLane_spares | with_reducible apply setLaneReg_spares
    | with_reducible apply LaneState.onTask_spares | with_reducible apply LaneState.sendSeals_spares | split

theorem State.dropHints_keeps {o : State} {s : State} {l : Lane} (h : Keeps o s) : Keeps o (State.dropHints s l) := by
  unfold State.dropHints
  try dsimp only
  repeat'
    first
    | with_reducible assumption | simp only [Keeps.upd_iff] | with_reducible apply State.onEng_keeps
    | with_reducible refine Keeps.trans ?_ (State.pmc_spares (Spares.refl _)).toKeeps | (exact fun i => i)
    | (exact fun i => (List.length_filter_le _ _).trans i) | (exact fun i => by simpa using i) | split

theorem State.releaseHanded_spares {o : State} {s : State} {l : Lane} {ticket : Word} (h : Spares o s) :
    Spares o (State.releaseHanded s l ticket) := by
  unfold State.releaseHanded
  try dsimp only
  repeat'
    first
    | with_reducible assumption | with_reducible apply setLaneReg_spares | with_reducible apply foldl_spares | split
    | intro _

theorem State.endPass_keeps {o : State} {s : State} {l : Lane} {p : Pass} {run : Option Run} {status : Nat}
    (h : Keeps o s) : Keeps o (State.endPass s l p run status) := by
  unfold State.endPass
  extract_lets d seals acc0 closing s1 acc final rec' s2 s3 s4 s5 s6 s7 s8 s9
  have h1 : Keeps o s1 := by
    simp only [s1]
    split
    · exact State.trailWrite_keeps h
    · exact h
  have h2 : Keeps o s2 := by
    simp only [s2]
    split
    · exact State.engWrite_keeps h1
    · exact h1
  have h3 : Keeps o s3 := by
    simp only [s3]
    split
    · exact h2.spares fun k => State.sealToCmp_spares k
    · exact h2
  have h4 : Keeps o s4 := by
    simp only [s4]
    split
    · exact State.onEng_keeps h3 fun i => i
    · exact h3
  have h5 : Keeps o s5 := by
    simp only [s5]
    split
    · split
      · split
        · exact h4.spares fun k => State.wr_spares k
        · exact h4
      · exact h4.spares fun k => State.wr_spares k
    · exact h4
  have h6 : Keeps o s6 := by
    simp only [s6]
    split
    · exact State.dropHints_keeps h5
    · exact h5
  have h7 : Keeps o s7 := by
    simp only [s7]
    split
    · exact h6.spares fun k => State.releaseHanded_spares k
    · exact h6
  have h8 : Keeps o s8 := by
    simp only [s8]
    split
    · exact h7.spares fun k => State.drawn_spares (State.wr_spares (State.wr_spares k))
    · exact h7
  have h9 : Keeps o s9 := State.onEng_keeps h8 fun i => (List.length_filter_le _ _).trans i
  exact h9.spares fun k => State.transferEnds_spares (State.pmc_spares (raiseOn_spares (State.wr_spares k) _ _ _))

theorem State.endHeld_keeps {o : State} {s : State} {l : Lane} {p : Pass} {status : Nat} (h : Keeps o s) :
    Keeps o (State.endHeld s l p status) := by
  unfold State.endHeld
  try dsimp only
  repeat'
    first
    | with_reducible assumption | with_reducible apply State.endPass_keeps

theorem State.flush_keeps {o : State} {s : State} {l : Lane} (h : Keeps o s) : Keeps o (State.flush s l) := by
  unfold State.flush
  try dsimp only
  repeat'
    first
    | with_reducible assumption | simp only [Keeps.upd_iff] | with_reducible apply foldl_keeps
    | with_reducible apply State.dropHints_keeps | with_reducible apply State.endHeld_keeps
    | with_reducible apply State.onEng_keeps
    | with_reducible refine Keeps.trans ?_ (State.wr_spares (Spares.refl _)).toKeeps | (exact fun i => i)
    | (exact fun i => (List.length_filter_le _ _).trans i) | (exact fun i => by simpa using i) | split | intro _

theorem State.resetEngineLane_keeps {o : State} {s : State} {l : Lane} (h : Keeps o s) :
    Keeps o (State.resetEngineLane s l) := by
  unfold State.resetEngineLane
  refine onLane_keeps (State.onEng_keeps (State.flush_keeps h) fun i => i) _ _ ?_
  exact fun i => ⟨i.core0, i.core1, i.mem, i.chk, mapWf_filter _ i.regs, i.queue⟩

theorem State.readWords_reads {o : State} {l : Lane} {master : Nat} {lvl : Option Nat} {src n : Nat} :
    ∀ {s : State} {a : Nat}, Reads o s → Reads o (State.readWords s l master lvl src a n).2 := by
  induction n with
  | zero => exact fun h => h
  | succ n ih => intro s a h; rw [State.readWords]; dsimp only; exact ih (State.readMem_reads h)

theorem State.readWords_keeps {o : State} {s : State} {l : Lane} {master : Nat} {lvl : Option Nat} {src a n : Nat}
    (h : Keeps o s) : Keeps o (State.readWords s l master lvl src a n).2 :=
  h.trans (State.readWords_reads (Reads.refl s)).toKeeps

theorem State.engRead_reads {o : State} {s : State} {l : Lane} {a n : Nat} (h : Reads o s) :
    Reads o (State.engRead s l a n).2 := State.readWords_reads h

theorem State.engRead_keeps {o : State} {s : State} {l : Lane} {a n : Nat} (h : Keeps o s) :
    Keeps o (State.engRead s l a n).2 := State.readWords_keeps h

theorem Seg.run_reads {o : State} {c : Ctx} {fin fuel : Nat} :
    ∀ {g : Seg} {off passed deadTo : Nat} {ws : List Word}, Reads o g.st → Reads o (g.run c off fin passed deadTo ws fuel).st := by
  induction fuel with
  | zero => exact fun h => h
  | succ fuel ih =>
    intro g off passed deadTo ws h
    rw [Seg.run]
    split
    · exact h
    · split
      · exact h
      · rename_i i _
        have h1 : Reads o (g.step c off i (decide (off < deadTo))).st :=
          Ctx.eval_reads (off := off) (p := false) (own := []) h
        dsimp only
        split
        · exact ih h
        · split
          · exact h1
          · split
            · split <;> exact ih h1
            · exact ih h1

theorem Seg.run_keeps {o : State} {c : Ctx} {fin fuel off passed deadTo : Nat} {g : Seg} {ws : List Word} (h : Keeps o g.st) :
    Keeps o (g.run c off fin passed deadTo ws fuel).st := h.trans (Seg.run_reads (Reads.refl g.st)).toKeeps

theorem State.lookEntry_keeps {o : State} {s : State} {l : Lane} {p : Pass} {r : Run} (h : Keeps o s) :
    Keeps o (State.lookEntry s l p r).1 := by
  have h1 : Keeps o (s.engRead l (r.look.1 + 16 * r.idone) 2).2 := State.engRead_keeps h
  unfold State.lookEntry
  dsimp only
  generalize s.engRead l (r.look.1 + 16 * r.idone) 2 = x at h1 ⊢
  split
  · rename_i w0 w1 _
    have h2 : Keeps o ((x.2.ctx l p r []).read { st := x.2, out := [], reads := [], err := none }
        (mkRef 1 (bits w1.toNat 12 0) 0)).2.st := h1.trans (Ctx.read_reads (Reads.refl x.2)).toKeeps
    generalize (x.2.ctx l p r []).read { st := x.2, out := [], reads := [], err := none } (mkRef 1 (bits w1.toNat 12 0) 0) = rs
      at h2 ⊢
    split
    · have h3 : ∀ a n, Keeps o (rs.2.st.engRead l a n).2 := fun a n => State.engRead_keeps h2
      split
      · exact h3 _ _
      · dsimp only
        split
        · exact State.engWrite_keeps (State.onEng_keeps (State.engWrite_keeps (Seg.run_keeps (h3 _ _)))
            fun i => i)
        · exact State.engWrite_keeps (State.engWrite_keeps (Seg.run_keeps (h3 _ _)))
    · exact State.engWrite_keeps h2
  · exact h1

theorem State.lookStep_keeps {o : State} {s : State} {l : Lane} {p : Pass} {r : Run} (h : Keeps o s) :
    Keeps o (State.lookStep s l p r) := by
  unfold State.lookStep
  try dsimp only
  repeat'
    first
    | with_reducible assumption | with_reducible apply State.endPass_keeps | with_reducible apply State.lookEntry_keeps
    | with_reducible apply State.setRun_keeps | split

theorem State.startLook_keeps {o : State} {s : State} {l : Lane} {p : Pass} {r : Run} (h : Keeps o s) :
    Keeps o (State.startLook s l p r) := by
  unfold State.startLook
  try dsimp only
  repeat'
    first
    | with_reducible assumption | simp only [Keeps.upd_iff] | with_reducible apply State.dropHints_keeps
    | with_reducible apply State.endPass_keeps | with_reducible apply State.engRead_keeps
    | with_reducible apply State.engWrite_keeps | with_reducible apply State.onEng_keeps
    | with_reducible apply State.setRun_keeps | (exact fun i => i)
    | (exact fun i => (List.length_filter_le _ _).trans i) | (exact fun i => by simpa using i) | split

theorem State.startHints_keeps {o : State} {s : State} {l : Lane} {p : Pass} (h : Keeps o s) :
    Keeps o (State.startHints s l p) := by
  have h1 : Keeps o (s.engRead l ((s.eng l).hintArea + 0x18) 4).2 := State.engRead_keeps h
  unfold State.startHints
  extract_lets e x
  change Keeps o x.2 at h1
  clear_value x
  split
  · exact State.dropHints_keeps h
  · split
    · split
      · refine iter_keeps (State.onEng_keeps h1 ?_) ?_
        · exact fun i => i
        · exact fun t k => k.spares fun k => State.pmc_spares k
      · exact State.dropHints_keeps h1
    · exact State.dropHints_keeps h1

theorem State.passStart_keeps {o : State} {s : State} {l : Lane} (h : Keeps o s) : Keeps o (State.passStart s l) := by
  unfold State.passStart
  split
  · split
    · split
      · exact State.lookStep_keeps h
      · exact h
    · exact h
  · rename_i p _
    split
    · split
      · exact State.endPass_keeps h
      · extract_lets r s1
        have h1 : Keeps o s1 := State.onEng_keeps h fun i => by simpa using i
        clear_value s1
        split
        · exact State.startLook_keeps h1
        · split
          · exact State.startHints_keeps h1
          · exact h1
    · exact h

theorem State.squash_spares {o : State} {s : State} {l : Lane} {r : Run} {pick : Held → Bool} (h : Spares o s) :
    Spares o (State.squash s l r pick).1 := by
  unfold State.squash
  try dsimp only
  repeat'
    first
    | with_reducible assumption | simp only [Spares.upd_iff] | with_reducible apply iter_spares
    | with_reducible apply State.pmc_spares | with_reducible apply State.wr_spares | split | intro _

theorem State.peak_spares {o : State} {s : State} {l : Lane} {r : Run} (h : Spares o s) :
    Spares o (State.peak s l r) := by
  unfold State.peak
  try dsimp only
  repeat'
    first
    | with_reducible assumption | with_reducible apply State.wr_spares | split

theorem State.logicStep_keeps {o : State} {s : State} {l : Lane} {off : Nat} {i : LogicIns} (h : Keeps o s) :
    Keeps o (State.logicStep s l off i) := by
  unfold State.logicStep
  try dsimp only
  repeat'
    first
    | with_reducible assumption | simp only [Keeps.upd_iff] | with_reducible apply Ctx.eval_keeps
    | with_reducible refine Keeps.trans ?_ (State.peak_spares (Spares.refl _)).toKeeps
    | with_reducible refine Keeps.trans ?_ (State.pmc_spares (Spares.refl _)).toKeeps
    | with_reducible apply State.setRun_keeps
    | with_reducible refine Keeps.trans ?_ (State.squash_spares (Spares.refl _)).toKeeps | split

theorem State.commitEntries_keeps {o : State} {l : Lane} {p : Pass} {es : List Entry} :
    ∀ {s : State} {r : Run}, Keeps o s → Keeps o (State.commitEntries s l p r es).1 := by
  induction es with
  | nil => exact fun h => h
  | cons e es ih =>
    intro s r h
    rw [State.commitEntries]
    split
    · exact ih h
    · split
      · exact ih h
      · dsimp only
        split
        · exact ih (State.writeWord_keeps h)
        · exact ih (State.fold_keeps (State.writeWord_keeps h))

theorem State.passWords_keeps {o : State} {s : State} {l : Lane} {p : Pass} {off : Nat} {n : Nat} (h : Keeps o s) :
    Keeps o (State.passWords s l p off n).2 := by
  unfold State.passWords
  try dsimp only
  repeat'
    first
    | with_reducible assumption | with_reducible apply iter_keeps | with_reducible apply State.engRead_keeps
    | with_reducible refine Keeps.trans ?_ (State.pmc_spares (Spares.refl _)).toKeeps | split | intro _

theorem State.injectWcrc_spares {o : State} {s : State} {l : Lane} {p : Pass} {r : Run} (h : Spares o s) :
    Spares o (State.injectWcrc s l p r).1 := by
  unfold State.injectWcrc
  try dsimp only
  repeat'
    first
    | with_reducible assumption | with_reducible exact LaneSpares.refl _ | simp only [Spares.upd_iff]
    | with_reducible apply onLane_spares | with_reducible apply State.wr_spares | split | intro _
    | with_reducible apply LaneSpares.upd

theorem State.lookAtCommit_keeps {o : State} {s : State} {l : Lane} {p : Pass} {r : Run} (h : Keeps o s) :
    Keeps o (State.lookAtCommit s l p r) := by
  unfold State.lookAtCommit
  try dsimp only
  repeat'
    first
    | with_reducible assumption | with_reducible apply State.endPass_keeps | with_reducible apply State.engRead_keeps
    | split

theorem State.commitSkip_keeps {o : State} {s : State} {l : Lane} {p : Pass} {r : Run} {h : Held} (hs : Keeps o s) :
    Keeps o (State.commitSkip s l p r h) := by
  unfold State.commitSkip
  try dsimp only
  repeat'
    first
    | with_reducible assumption | simp only [Keeps.upd_iff]
    | with_reducible refine Keeps.trans ?_ (State.inc_spares (Spares.refl _)).toKeeps
    | with_reducible apply State.onEng_keeps
    | with_reducible refine Keeps.trans ?_ (State.pmc_spares (Spares.refl _)).toKeeps
    | with_reducible apply State.setRun_keeps
    | with_reducible refine Keeps.trans ?_ (State.squash_spares (Spares.refl _)).toKeeps | (exact fun i => i)
    | (exact fun i => (List.length_filter_le _ _).trans i) | (exact fun i => by simpa using i) | split

theorem State.commitEnd_keeps {o : State} {s : State} {l : Lane} {p : Pass} {r : Run} (h : Keeps o s) :
    Keeps o (State.commitEnd s l p r) := by
  unfold State.commitEnd
  try dsimp only
  repeat'
    first
    | with_reducible assumption | with_reducible apply State.endPass_keeps
    | with_reducible refine Keeps.trans ?_ (State.injectWcrc_spares (Spares.refl _)).toKeeps

theorem State.commitHeld_keeps {o : State} {s : State} {l : Lane} {p : Pass} {r : Run} {h : Held} {rest : List Held}
    (hs : Keeps o s) :
    Keeps o (State.commitHeld s l p r h rest) := by
  unfold State.commitHeld
  try dsimp only
  repeat'
    first
    | with_reducible assumption | simp only [Keeps.upd_iff] | with_reducible apply State.commitEnd_keeps
    | with_reducible apply State.commitEntries_keeps | with_reducible apply State.commitSkip_keeps
    | with_reducible apply State.endPass_keeps | with_reducible apply State.foldAll_keeps
    | with_reducible apply State.passWords_keeps
    | with_reducible refine Keeps.trans ?_ (State.pmc_spares (Spares.refl _)).toKeeps
    | with_reducible apply State.setRun_keeps | split

theorem State.commitNext_keeps {o : State} {s : State} {l : Lane} (h : Keeps o s) : Keeps o (State.commitNext s l) := by
  unfold State.commitNext
  try dsimp only
  repeat'
    first
    | with_reducible assumption | with_reducible apply State.commitHeld_keeps
    | with_reducible apply State.lookAtCommit_keeps | split

theorem State.saveCtx_keeps {o : State} {s : State} {l : Lane} {slot : Nat} {p : Pass} {r : Run} (h : Keeps o s) :
    Keeps o (State.saveCtx s l slot p r) := by
  unfold State.saveCtx
  try dsimp only
  repeat'
    first
    | with_reducible assumption | with_reducible apply State.engWrite_keeps

theorem State.loadCtx_keeps {o : State} {s : State} {l : Lane} {slot : Nat} {r : Run} (h : Keeps o s) :
    Keeps o (State.loadCtx s l slot r).2 := by
  unfold State.loadCtx
  try dsimp only
  repeat'
    first
    | with_reducible assumption | simp only [Keeps.upd_iff] | with_reducible apply State.engRead_keeps | split

theorem State.preempt_keeps {o : State} {s : State} {l : Lane} (h : Keeps o s) : Keeps o (State.preempt s l) := by
  unfold State.preempt
  extract_lets e
  split
  · exact h
  · rename_i p r _
    split
    · exact h
    · extract_lets bump sp sq clash
      have hb : Keeps o (bump s) := h.spares fun k => State.pmc_spares (setLaneReg_spares (State.wr_spares k) _ _ _)
      split
      · exact State.onEng_keeps hb fun i => by simpa using i
      · split
        · exact h
        · rename_i i _
          split
          · exact h
          · refine State.onEng_keeps (State.saveCtx_keeps (hb.spares fun k => State.squash_spares k)) ?_
            exact fun i => by simpa using i

theorem State.resume_keeps {o : State} {s : State} {l : Lane} (h : Keeps o s) : Keeps o (State.resume s l) := by
  unfold State.resume
  try dsimp only
  repeat'
    first
    | with_reducible assumption | simp only [Keeps.upd_iff] | with_reducible apply State.endPass_keeps
    | with_reducible apply State.loadCtx_keeps | with_reducible apply State.onEng_keeps | (exact fun i => i)
    | (exact fun i => (List.length_filter_le _ _).trans i) | (exact fun i => by simpa using i) | split

theorem State.epass_keeps {o : State} {s : State} {l : Lane} {c : CoreId} {gd : GReg} {a : Word} (h : Keeps o s) :
    Keeps o (State.epass s l c gd a) := by
  unfold State.epass
  extract_lets x give placed readable r
  have hg : ∀ {t : State} {v : Word}, Keeps o t → Keeps o (give t v) :=
    fun k => State.retire_keeps (onCore_keeps k l c _ fun i => setG_ok _ _ i)
  split
  · exact hg h
  · rename_i hq
    split
    · exact State.exception_keeps h
    · have hr : Reads s r.2 := by
        simp only [r]
        split
        · exact State.readWords_reads (Reads.refl s)
        · exact Reads.refl s
      have hk : Keeps o r.2 := h.trans hr.toKeeps
      split
      · exact State.exception_keeps hk
      · extract_lets d n t s1 looks s2
        have h1 : Keeps o s1 := by
          refine State.onEng_keeps hk fun _ => ?_
          have e := hr.eng l
          rw [e]
          have : ¬ 4 ≤ (s.lane l).eng.queue.length := fun k => hq (.inr k)
          simp only [List.length_append, List.length_cons, List.length_nil]
          omega
        clear_value s1
        refine hg ?_
        simp only [s2]
        split
        · exact foldl_keeps h1 fun _ _ k => State.endHeld_keeps k
        · exact h1

theorem State.giveStatus_keeps {o : State} {s : State} {l : Lane} {c : CoreId} {gd : GReg} {t : Word} {status : Nat}
    (h : Keeps o s) :
    Keeps o (State.giveStatus s l c gd t status) := by
  unfold State.giveStatus
  try dsimp only
  repeat'
    first
    | with_reducible assumption | simp only [Keeps.upd_iff] | with_reducible apply onCore_keeps
    | with_reducible apply setG_ok | with_reducible apply State.onEng_keeps | with_reducible apply State.retire_keeps
    | (exact fun i => i) | (exact fun i => (List.length_filter_le _ _).trans i) | (exact fun i => by simpa using i)
    | (exact fun i => setG_ok _ _ i) | (exact fun i => ⟨i.zero, i.level⟩)
    | (exact fun i => ⟨(setG_ok _ _ i).zero, (setG_ok _ _ i).level⟩) | split

theorem State.ecancel_keeps {o : State} {s : State} {l : Lane} {t : Word} (h : Keeps o s) :
    Keeps o (State.ecancel s l t) := by
  unfold State.ecancel
  try dsimp only
  repeat'
    first
    | with_reducible assumption | with_reducible apply State.dropHints_keeps | with_reducible apply State.endHeld_keeps
    | split

theorem State.cutEngine_keeps {o : State} {s : State} {l : Lane} (h : Keeps o s) : Keeps o (State.cutEngine s l) := by
  unfold State.cutEngine
  try dsimp only
  repeat'
    first
    | with_reducible assumption | with_reducible apply State.endPass_keeps
    | with_reducible refine Keeps.trans ?_ (State.squash_spares (Spares.refl _)).toKeeps | split

end Sys2Proof.Machine
end

