-- ==== Sys2Proof/Laws/FrameNaming.lean ====
section
/-! SUPPORT. Laws/FrameNaming.lean: what the operations of Machine/Naming.lean keep. -/
namespace Sys2Proof.Machine

theorem State.setMismatch_spares {o : State} {s : State} {l : Lane} {src : Nat} (h : Spares o s) :
    Spares o (State.setMismatch s l src) := by
  unfold State.setMismatch
  try dsimp only
  repeat'
    first
    | with_reducible assumption | with_reducible apply setLaneReg_spares | with_reducible apply foldl_spares | split
    | intro _

theorem State.askDomainOff_spares {o : State} {s : State} {l : Lane} (h : Spares o s) :
    Spares o (State.askDomainOff s l) := by
  unfold State.askDomainOff
  try dsimp only
  repeat'
    first
    | with_reducible assumption | with_reducible exact LaneSpares.refl _ | simp only [Spares.upd_iff]
    | with_reducible apply onLane_spares | with_reducible apply foldl_spares | split | intro _
    | with_reducible apply LaneSpares.upd

theorem State.holdOut_spares {o : State} {s : State} {l : Lane} (h : Spares o s) : Spares o (State.holdOut s l) := by
  unfold State.holdOut
  try dsimp only
  repeat'
    first
    | with_reducible assumption | simp only [Spares.upd_iff] | with_reducible apply State.setSt_spares

theorem State.isolate_keeps {o : State} {s : State} {l : Lane} {task : Nat} (h : Keeps o s) :
    Keeps o (State.isolate s l task) := by
  unfold State.isolate
  extract_lets now times s1 s2 absent s3 cyc s4 s5 s6
  have h1 : Keeps o s1 := by
    refine onLane_keeps (State.resetEngineLane_keeps h) _ _ ?_
    exact LaneKeeps.upd
  have h2 : Keeps o s2 := foldl_keeps (h1.spares fun k => setLaneReg_spares k _ _ _) fun _ _ k => k.spares fun k =>
    State.wr_spares k
  have h3 : Keeps o s3 := h2.spares fun k => State.revote_spares (State.wrM_spares (State.setSt_spares k))
  have h4 : Keeps o s4 := Keeps.upd h3
  have h5 : Keeps o s5 := h4.spares fun k => State.event_spares k
  have h6 : Keeps o s6 := by
    simp only [s6]
    split
    · exact h5.spares fun k => State.setMode_spares k
    · exact h5
  split
  · exact h6.spares fun k => State.event_spares (State.askDomainOff_spares (State.holdOut_spares k))
  · exact h6

theorem State.testName_spares {o : State} {s : State} {l : Lane} {src : Nat} (h : Spares o s) :
    Spares o (State.testName s l src) := by
  unfold State.testName
  try dsimp only
  repeat'
    first
    | with_reducible assumption | with_reducible apply foldl_spares | with_reducible apply State.wr_spares | split
    | intro _

theorem State.noteName_spares {o : State} {s : State} {l : Lane} {src : Nat} (h : Spares o s) :
    Spares o (State.noteName s l src) := by
  unfold State.noteName
  try dsimp only
  repeat'
    first
    | with_reducible assumption | simp only [Spares.upd_iff] | with_reducible apply State.setMismatch_spares

theorem State.nameLane_keeps {o : State} {s : State} {l : Lane} {src task : Nat} (h : Keeps o s) :
    Keeps o (State.nameLane s l src task) := by
  unfold State.nameLane
  extract_lets s1 src s2
  have h1 : Keeps o s1 := h.spares fun k => State.setMismatch_spares k
  have h2 : Keeps o s2 := Keeps.upd h1
  split
  · exact h1.spares fun k => State.testName_spares k
  · split
    · split
      · exact h2.spares fun k => State.latchSafe_spares k
      · exact State.isolate_keeps h2
    · split
      · exact Keeps.upd h1
      · exact h1

theorem State.nameLanes_keeps {o : State} {s : State} {ls : List Lane} {src : Nat} {task : Nat} (h : Keeps o s) :
    Keeps o (State.nameLanes s ls src task) := by
  unfold State.nameLanes
  try dsimp only
  repeat'
    first
    | with_reducible assumption | with_reducible apply foldl_keeps | with_reducible apply State.nameLane_keeps | split
    | intro _

theorem State.takeInject_spares {o : State} {s : State} {l : Lane} {point : Nat} (h : Spares o s) :
    Spares o (State.takeInject s l point).2 := by
  unfold State.takeInject
  split
  · split
    · extract_lets s1
      have h1 : Spares o s1 := onLane_spares h _ _ (LaneSpares.upd (LaneSpares.refl _))
      dsimp only
      split
      · exact h1
      · exact State.wr_spares h1
    · exact h
  · exact h

theorem State.linkDown_keeps {o : State} {s : State} {l1 l2 : Lane} (h : Keeps o s) : Keeps o (State.linkDown s l1 l2) := by
  unfold State.linkDown
  extract_lets lo hi s1 s2
  exact State.nameLane_keeps (h.spares fun k => State.raise_spares (State.raise_spares (State.event_spares (State.wr_spares
    (State.wr_spares k)))))

end Sys2Proof.Machine
end

