-- ==== Sys2Proof/Laws/FramePhases.lean ====
section
/-! SUPPORT. Laws/FramePhases.lean: what the operations of Machine/Phases.lean keep. -/
namespace Sys2Proof.Machine

theorem State.mark_spares {o : State} {s : State} {ph : Nat} (h : Spares o s) : Spares o (State.mark s ph) := by
  unfold State.mark
  try dsimp only
  repeat'
    first
    | with_reducible assumption | simp only [Spares.upd_iff]

theorem State.once_spares {o : State} {s : State} {before : List Nat} {ph : Nat} {f : State → State}
    (h : Spares o s) (hf : ∀ t, Spares o t → Spares o (f t)) :
    Spares o (State.once s before ph f) := by
  unfold State.once
  try dsimp only
  repeat'
    first
    | with_reducible assumption | with_reducible apply hf | with_reducible apply State.mark_spares | split

theorem State.once_keeps {o : State} {s : State} {before : List Nat} {ph : Nat} {f : State → State} (h : Keeps o s)
    (hf : ∀ t, Keeps o t → Keeps o (f t)) :
    Keeps o (State.once s before ph f) := by
  unfold State.once
  try dsimp only
  repeat'
    first
    | with_reducible assumption | with_reducible apply hf
    | with_reducible refine Keeps.trans ?_ (State.mark_spares (Spares.refl _)).toKeeps | split

theorem State.setConsec_spares {o : State} {s : State} {t : Nat} {v : Nat} (h : Spares o s) :
    Spares o (State.setConsec s t v) := by
  unfold State.setConsec
  try dsimp only
  repeat'
    first
    | with_reducible assumption | with_reducible apply State.wrM_spares

theorem State.incRunning_spares {o : State} {s : State} {f : RField} (h : Spares o s) :
    Spares o (State.incRunning s f) := by
  unfold State.incRunning
  try dsimp only
  repeat'
    first
    | with_reducible assumption | with_reducible apply foldl_spares | with_reducible apply State.inc_spares | split
    | intro _

theorem State.addRunning_spares {o : State} {s : State} {f : RField} {n : Nat} (h : Spares o s) :
    Spares o (State.addRunning s f n) := by
  unfold State.addRunning
  try dsimp only
  repeat'
    first
    | with_reducible assumption | with_reducible apply foldl_spares | with_reducible apply State.wr_spares | split
    | intro _

theorem State.overrunTask_spares {o : State} {s : State} {t : Nat} {code : Nat} (h : Spares o s) :
    Spares o (State.overrunTask s t code) := by
  unfold State.overrunTask
  try dsimp only
  repeat'
    first
    | with_reducible assumption | simp only [Spares.upd_iff] | with_reducible apply State.event_spares
    | with_reducible apply State.incRunning_spares | with_reducible apply State.setConsec_spares
    | with_reducible apply State.wrM_spares | split

end Sys2Proof.Machine
end

