-- ==== Sys2Proof/Laws/FrameAccess.lean ====
section
/-! SUPPORT. Laws/FrameAccess.lean: what the operations of Machine/Access.lean keep. -/
namespace Sys2Proof.Machine

theorem State.regAccess_keeps {o : State} {s : State} {l : Lane} {c : CoreId} {a : Nat} {write : Bool} {f : State → State} (h : Keeps o s) (hf : ∀ t, Keeps o t → Keeps o (f t))
   :
    Keeps o (State.regAccess s l c a write f) := by
  unfold State.regAccess
  try dsimp only
  repeat'
    first
    | with_reducible assumption | with_reducible apply hf | with_reducible apply State.exception_keeps | split

theorem State.accessEvent_spares {o : State} {s : State} {l : Lane} {a : Nat} {v : Word} (h : Spares o s) :
    Spares o (State.accessEvent s l a v) := by
  unfold State.accessEvent
  try dsimp only
  repeat'
    first
    | with_reducible assumption | with_reducible apply State.eventL_spares

theorem State.guardReserved_spares {o : State} {s : State} {l : Lane} {a : Nat} {v : Word} {f : State → State}
    (h : Spares o s) (hf : ∀ t, Spares o t → Spares o (f t)) :
    Spares o (State.guardReserved s l a v f) := by
  unfold State.guardReserved
  try dsimp only
  repeat'
    first
    | with_reducible assumption | with_reducible apply hf | with_reducible apply State.accessEvent_spares | split

theorem State.guardReserved_keeps {o : State} {s : State} {l : Lane} {a : Nat} {v : Word} {f : State → State}
    (h : Keeps o s) (hf : ∀ t, Keeps o t → Keeps o (f t)) :
    Keeps o (State.guardReserved s l a v f) := by
  unfold State.guardReserved
  try dsimp only
  repeat'
    first
    | with_reducible assumption | with_reducible apply hf
    | with_reducible refine Keeps.trans ?_ (State.accessEvent_spares (Spares.refl _)).toKeeps | split

theorem State.regWriteBy_keeps {o : State} {s : State} {l : Lane} {c : CoreId} {a : Nat} {v : Word} {f : State → State} (h : Keeps o s) (hf : ∀ t, Keeps o t → Keeps o (f t))
   :
    Keeps o (State.regWriteBy s l c a v f) := by
  unfold State.regWriteBy
  try dsimp only
  repeat'
    first
    | with_reducible assumption | with_reducible apply hf | with_reducible apply State.guardReserved_keeps
    | with_reducible apply State.regAccess_keeps | split | intro _

theorem State.plainWrite_spares {o : State} {s : State} {l : Lane} {a : Nat} {v : Word} (h : Spares o s) :
    Spares o (State.plainWrite s l a v) := by
  unfold State.plainWrite
  try dsimp only
  repeat'
    first
    | with_reducible assumption | with_reducible exact LaneSpares.refl _ | simp only [Spares.upd_iff]
    | with_reducible apply onLane_spares | with_reducible apply State.regSet_spares | split | intro _
    | with_reducible apply LaneSpares.upd

theorem State.votedWrite_spares {o : State} {s : State} {l : Lane} {a : Nat} {v : Word} (h : Spares o s) :
    Spares o (State.votedWrite s l a v) := by
  unfold State.votedWrite
  try dsimp only
  repeat'
    first
    | with_reducible assumption | with_reducible exact LaneSpares.refl _ | simp only [Spares.upd_iff]
    | with_reducible apply onLane_spares | with_reducible apply State.incM_spares | split | intro _
    | with_reducible apply LaneSpares.upd

end Sys2Proof.Machine
end

