-- ==== Sys2Proof/Laws/FrameVote.lean ====
section
/-! SUPPORT. Laws/FrameVote.lean: what the operations of Machine/Vote.lean keep. -/
namespace Sys2Proof.Machine

theorem LaneState.records_spares {o x : LaneState} {rs : List XleRec} (h : LaneSpares o x) :
    LaneSpares o { x with records := rs } := LaneSpares.upd h

theorem State.injectSeal_spares {o : State} {s : State} {l : Lane} {t : Nat} (h : Spares o s) :
    Spares o (State.injectSeal s l t) := by
  unfold State.injectSeal
  dsimp only
  split
  · exact onLane_spares (State.takeInject_spares h) _ _
      (LaneState.records_spares (LaneState.onTask_spares (LaneSpares.refl _)))
  · exact State.takeInject_spares h

theorem State.showVote_spares {o : State} {s : State} {t : Nat} {os : List (Lane × SealOutcome)} {d : Decision}
    (h : Spares o s) :
    Spares o (State.showVote s t os d) := by
  unfold State.showVote
  try dsimp only
  repeat'
    first
    | with_reducible assumption | simp only [Spares.upd_iff] | with_reducible apply foldl_spares
    | with_reducible apply State.wr_spares | with_reducible apply State.wrM_spares | split | intro _

theorem State.voteTask_keeps {o : State} {s0 : State} {vs : List Lane} {t : Nat} {ovr : Bool} (h : Keeps o s0) :
    Keeps o (State.voteTask s0 vs t ovr) := by
  have hn : ∀ {s : State} (ns : List (Lane × Nat)), Keeps o s → Keeps o (ns.foldl (fun s n => s.nameLane n.1 n.2 t) s) :=
    fun ns k => foldl_keeps k fun _ _ k => State.nameLane_keeps k
  have hm : ∀ {s : State} (ns : List (Lane × Nat)), Keeps o s → Keeps o (ns.foldl (fun s n => s.noteName n.1 n.2) s) :=
    fun ns k => foldl_keeps k fun _ _ k => k.spares fun k => State.noteName_spares k
  have ho : ∀ {s : State} (b : Bool), Keeps o s →
      Keeps o (Lane.list.foldl (fun s l => s.onLane l fun x => x.onTask t fun k => { k with ovr := b }) s) :=
    fun b k => foldl_keeps k fun u l k => onLane_keeps k l _ (LaneState.onTask_spares (LaneSpares.refl _)).ok
  unfold State.voteTask
  extract_lets s os d s1 cyc s2 s4 s5 s6
  have h0 : Keeps o s := by
    simp only [s]
    split
    · exact h
    · exact foldl_keeps h fun _ _ k => k.spares fun k => State.injectSeal_spares k
  have h1 : Keeps o s1 := h0.spares fun k => State.showVote_spares k
  have h2 : Keeps o s2 := by
    simp only [s2]
    split
    · split
      · exact h1
      · exact Keeps.upd h1
    · exact h1
  have h4 : Keeps o s4 := by
    simp only [s4]
    split
    · exact hm _ h2
    · exact hn _ h2
  have h5 : Keeps o s5 := by
    simp only [s5]
    split
    · exact h4.spares fun k => State.latchSafe_spares k
    · exact h4
  have h6 : Keeps o s6 := by
    simp only [s6]
    split
    · exact h5.spares fun k => State.overrunTask_spares k
    · exact h5
  split
  · exact ho false h6
  · split
    · exact ho true h6
    · exact h6

theorem State.probationVote_spares {o : State} {s : State} (h : Spares o s) : Spares o (State.probationVote s) := by
  unfold State.probationVote
  try dsimp only
  repeat'
    first
    | with_reducible assumption | simp only [Spares.upd_iff] | split

theorem State.voteTest_keeps {o : State} {s : State} (h : Keeps o s) : Keeps o (State.voteTest s) := by
  unfold State.voteTest
  try dsimp only
  repeat'
    first
    | with_reducible assumption | with_reducible apply foldl_keeps
    | with_reducible refine Keeps.trans ?_ (State.injectSeal_spares (Spares.refl _)).toKeeps
    | with_reducible apply State.nameLane_keeps
    | with_reducible refine Keeps.trans ?_ (State.showVote_spares (Spares.refl _)).toKeeps | split | intro _

theorem State.testVote_keeps {o : State} {s : State} (h : Keeps o s) : Keeps o (State.testVote s) := by
  unfold State.testVote
  refine foldl_keeps h fun u l k => ?_
  split
  · extract_lets s1 w
    have h1 : Keeps o s1 := k.spares fun k => State.takeInject_spares k
    split
    · exact State.nameLane_keeps h1
    · split
      · exact State.nameLane_keeps h1
      · split
        · exact foldl_keeps (h1.spares fun k => State.inc_spares (State.inc_spares k)) fun _ _ k => k.spares fun k =>
            State.wr_spares k
        · exact k
  · exact k

theorem State.canary_keeps {o : State} {s : State} {bad : Nat} (h : Keeps o s) : Keeps o (State.canary s bad) := by
  unfold State.canary
  try dsimp only
  repeat'
    first
    | with_reducible assumption | simp only [Keeps.upd_iff] | with_reducible apply foldl_keeps
    | with_reducible apply State.nameLane_keeps
    | with_reducible refine Keeps.trans ?_ (State.takeInject_spares (Spares.refl _)).toKeeps | split | intro _

theorem State.judgeUnclean_keeps {o : State} {s : State} (h : Keeps o s) : Keeps o (State.judgeUnclean s) := by
  unfold State.judgeUnclean
  try dsimp only
  repeat'
    first
    | with_reducible assumption | with_reducible refine Keeps.trans ?_ (State.event_spares (Spares.refl _)).toKeeps
    | with_reducible apply State.isolate_keeps | split

theorem State.sendRecord_spares {o : State} {s : State} {l : Lane} {type : Nat} {w1 : Word} {w2 : Word}
    (h : Spares o s) :
    Spares o (State.sendRecord s l type w1 w2) := by
  unfold State.sendRecord
  try dsimp only
  repeat'
    first
    | with_reducible assumption | with_reducible exact LaneSpares.refl _ | simp only [Spares.upd_iff]
    | with_reducible apply onLane_spares | split | intro _ | with_reducible apply LaneSpares.upd

theorem State.judgeOutcomes_keeps {o : State} {s : State} {vs : List Lane} {asks : List Lane} {odd : List Lane}
    (h : Keeps o s) :
    Keeps o (State.judgeOutcomes s vs asks odd) := by
  unfold State.judgeOutcomes
  try dsimp only
  repeat'
    first
    | with_reducible assumption | with_reducible apply foldl_keeps
    | with_reducible refine Keeps.trans ?_ (State.latchSafe_spares (Spares.refl _)).toKeeps
    | with_reducible apply State.nameLanes_keeps
    | with_reducible refine Keeps.trans ?_ (State.noteName_spares (Spares.refl _)).toKeeps
    | with_reducible refine Keeps.trans ?_ (State.setMismatch_spares (Spares.refl _)).toKeeps | split | intro _

end Sys2Proof.Machine
end

