-- ==== Sys2Proof/Laws/FrameTele.lean ====
section
/-! SUPPORT. Laws/FrameTele.lean: what the operations of Machine/Tele.lean keep. -/
namespace Sys2Proof.Machine

theorem State.setConn_spares {o : State} {s : State} {c : Conn} (h : Spares o s) : Spares o (State.setConn s c) := by
  unfold State.setConn
  try dsimp only
  repeat'
    first
    | with_reducible assumption | simp only [Spares.upd_iff]

theorem State.countFail_spares {o : State} {s : State} {n : Nat} (h : Spares o s) : Spares o (State.countFail s n) := by
  unfold State.countFail
  try dsimp only
  repeat'
    first
    | with_reducible assumption | simp only [Spares.upd_iff]

theorem State.failTele_spares {o : State} {s : State} {n : Nat} {conn : Option Nat} {seq : Nat} (h : Spares o s) :
    Spares o (State.failTele s n conn seq) := by
  unfold State.failTele
  try dsimp only
  repeat'
    first
    | with_reducible assumption | with_reducible apply State.countFail_spares | with_reducible apply State.event_spares

theorem State.acceptTele_spares {o : State} {s : State} {e : InConn} {bs : List Nat} {tArr : Nat} (h : Spares o s) :
    Spares o (State.acceptTele s e bs tArr) := by
  unfold State.acceptTele
  try dsimp only
  repeat'
    first
    | with_reducible assumption | simp only [Spares.upd_iff] | with_reducible apply State.event_spares
    | with_reducible apply State.setConn_spares | split

theorem State.checkInner_spares {o : State} {s : State} {bs : List Nat} {len : Nat} {node : Nat} {tArr : Nat} {outer : Option (Nat × Nat)} (h : Spares o s)
   :
    Spares o (State.checkInner s bs len node tArr outer).1 := by
  unfold State.checkInner
  try dsimp only
  repeat'
    first
    | with_reducible assumption | simp only [Spares.upd_iff] | with_reducible apply State.acceptTele_spares
    | with_reducible apply State.event_spares | with_reducible apply State.failTele_spares
    | with_reducible apply State.setConn_spares | split

theorem State.openFrame_spares {o : State} {s : State} {p : List Nat} {node : Nat} {epoch : Nat} {conn : Nat} {seq : Nat} {tArr : Nat} (h : Spares o s)
   :
    Spares o (State.openFrame s p node epoch conn seq tArr) := by
  unfold State.openFrame
  try dsimp only
  repeat'
    first
    | with_reducible assumption | simp only [Spares.upd_iff] | with_reducible apply State.checkInner_spares
    | with_reducible apply State.failTele_spares | split

theorem State.checkFrame_spares {o : State} {s : State} {f : GFrame} (h : Spares o s) :
    Spares o (State.checkFrame s f) := by
  unfold State.checkFrame
  try dsimp only
  repeat'
    first
    | with_reducible assumption | with_reducible apply State.checkInner_spares | with_reducible apply State.event_spares
    | with_reducible apply State.failTele_spares | with_reducible apply State.openFrame_spares | split

theorem State.expire_spares {o : State} {s : State} {mark : Nat} {code : Nat} (h : Spares o s) :
    Spares o (State.expire s mark code) := by
  unfold State.expire
  try dsimp only
  repeat'
    first
    | with_reducible assumption | simp only [Spares.upd_iff] | with_reducible apply foldl_spares
    | with_reducible apply State.event_spares | with_reducible apply State.setConn_spares | split | intro _

theorem State.receiveTelegrams_spares {o : State} {s : State} (h : Spares o s) :
    Spares o (State.receiveTelegrams s) := by
  unfold State.receiveTelegrams
  try dsimp only
  repeat'
    first
    | with_reducible assumption | simp only [Spares.upd_iff] | with_reducible apply foldl_spares
    | with_reducible apply State.checkFrame_spares

theorem State.loseAtSorting_spares {o : State} {s : State} (h : Spares o s) : Spares o (State.loseAtSorting s) := by
  unfold State.loseAtSorting
  try dsimp only
  repeat'
    first
    | with_reducible assumption | with_reducible apply State.expire_spares

theorem State.readState_keeps {o : State} {s : State} {ws : List (Nat × Ref)} (h : Keeps o s) :
    Keeps o (State.readState s ws) := by
  unfold State.readState
  try dsimp only
  repeat'
    first
    | with_reducible assumption | with_reducible apply foldl_keeps | with_reducible apply State.visit_keeps | split
    | intro _

theorem State.queueSend_spares {o : State} {s : State} {x : OutConn} (h : Spares o s) : Spares o (State.queueSend s x) := by
  unfold State.queueSend
  split
  · exact h
  · extract_lets bs src s1 was
    have h1 : Spares o s1 := Spares.upd h
    split
    · exact h1
    · split
      · exact State.event_spares (Spares.upd h1)
      · split
        · exact State.event_spares (Spares.upd h1)
        · exact h1

theorem State.queueAll_spares {o : State} {s : State} {b : StationBody} (h : Spares o s) : Spares o (State.queueAll s b) :=
  foldl_spares h fun _ _ k => State.queueSend_spares k

theorem State.queueTelegrams_spares {o : State} {s : State} (h : Spares o s) : Spares o (State.queueTelegrams s) := by
  unfold State.queueTelegrams
  split
  · exact h
  · split
    · exact Spares.upd h
    · exact Spares.upd (State.queueAll_spares h)

end Sys2Proof.Machine
end

