-- ==== Sys2Proof/Laws/FrameArbiter.lean ====
section
/-! SUPPORT. Laws/FrameArbiter.lean: what the operations of Machine/Arbiter.lean keep. -/
namespace Sys2Proof.Machine

theorem State.dramRequest_spares {o : State} {s0 : State} {l : Lane} {r : Requester} {urgent : Bool} (h : Spares o s0) :
    Spares o (State.dramRequest s0 l r urgent) := by
  unfold State.dramRequest
  try dsimp only
  repeat'
    first
    | with_reducible assumption | with_reducible exact LaneSpares.refl _ | simp only [Spares.upd_iff]
    | with_reducible apply onLane_spares | with_reducible apply State.passGrant_spares
    | with_reducible apply State.pmc_spares | with_reducible apply LaneState.wait_spares | split | intro _
    | with_reducible apply LaneSpares.upd

theorem State.cutRequester_spares {o : State} {s : State} {l : Lane} {b : Nat} {code : Nat} {data : List Nat}
    (h : Spares o s) :
    Spares o (State.cutRequester s l b code data) := by
  unfold State.cutRequester
  try dsimp only
  repeat'
    first
    | with_reducible assumption | with_reducible apply State.eventL_spares | with_reducible apply State.inc_spares
    | with_reducible apply State.pmc_spares | with_reducible apply State.wr_spares

theorem State.abandonAccess_keeps {o : State} {s : State} {l : Lane} {x : Requester} (h : Keeps o s) :
    Keeps o (State.abandonAccess s l x) := by
  unfold State.abandonAccess
  split
  · exact Keeps.upd (State.exception_keeps h)
  · exact Keeps.upd (State.exception_keeps h)
  · exact State.cutEngine_keeps h
  · exact h
  · split
    · split
      · exact h.spares fun k => State.event_spares (State.mark_spares k)
      · exact h
    · exact h
  · exact h.spares fun k => State.wr_spares (onLane_spares k _ _ (LaneSpares.upd (LaneSpares.refl _)))

theorem State.writeArbPrio_spares {o : State} {s : State} {l : Lane} {v : Word} (h : Spares o s) :
    Spares o (State.writeArbPrio s l v) := by
  unfold State.writeArbPrio
  try dsimp only
  repeat'
    first
    | with_reducible assumption | with_reducible apply setLaneReg_spares | with_reducible apply State.eventL_spares
    | split

theorem State.writeHoldmax_spares {o : State} {s : State} {l : Lane} {v : Word} (h : Spares o s) :
    Spares o (State.writeHoldmax s l v) := by
  unfold State.writeHoldmax
  try dsimp only
  repeat'
    first
    | with_reducible assumption | with_reducible apply State.eventL_spares | with_reducible apply State.wr_spares
    | split

theorem State.freeLock_spares {o : State} {s : State} {l : Lane} {n : Nat} (h : Spares o s) :
    Spares o (State.freeLock s l n) := by
  unfold State.freeLock
  try dsimp only
  repeat'
    first
    | with_reducible assumption | with_reducible apply State.wr_spares

theorem State.lockRefused_spares {o : State} {s : State} {l : Lane} (h : Spares o s) :
    Spares o (State.lockRefused s l) := by
  unfold State.lockRefused
  try dsimp only
  repeat'
    first
    | with_reducible assumption | with_reducible apply State.pmc_spares

theorem State.lockAcquire_spares {o : State} {s : State} {l : Lane} {c : CoreId} {n : Nat} {lease : Nat}
    (h : Spares o s) :
    Spares o (State.lockAcquire s l c n lease) := by
  unfold State.lockAcquire
  try dsimp only
  repeat'
    first
    | with_reducible assumption | with_reducible apply State.lockRefused_spares | with_reducible apply State.pmc_spares
    | with_reducible apply State.wr_spares | split

theorem State.lockRelease_spares {o : State} {s : State} {l : Lane} {c : CoreId} {n : Nat} (h : Spares o s) :
    Spares o (State.lockRelease s l c n) := by
  unfold State.lockRelease
  try dsimp only
  repeat'
    first
    | with_reducible assumption | with_reducible apply State.eventL_spares | with_reducible apply State.freeLock_spares
    | with_reducible apply State.lockRefused_spares | with_reducible apply State.wr_spares | split

theorem State.lockRenew_spares {o : State} {s : State} {l : Lane} {c : CoreId} {n : Nat} {lease : Nat}
    (h : Spares o s) :
    Spares o (State.lockRenew s l c n lease) := by
  unfold State.lockRenew
  try dsimp only
  repeat'
    first
    | with_reducible assumption | with_reducible apply State.lockRefused_spares | with_reducible apply State.wr_spares
    | split

theorem State.lockHand_spares {o : State} {s : State} {l : Lane} {c : CoreId} {n : Nat} {ticket : Nat} {lease : Nat}
    (h : Spares o s) :
    Spares o (State.lockHand s l c n ticket lease) := by
  unfold State.lockHand
  try dsimp only
  repeat'
    first
    | with_reducible assumption | with_reducible apply State.lockRefused_spares | with_reducible apply State.wr_spares
    | split

theorem State.lockRecover_spares {o : State} {s : State} {l : Lane} {c : CoreId} {n : Nat} (h : Spares o s) :
    Spares o (State.lockRecover s l c n) := by
  unfold State.lockRecover
  try dsimp only
  repeat'
    first
    | with_reducible assumption | with_reducible apply State.lockRefused_spares | with_reducible apply State.wr_spares
    | split

theorem State.writeLock_spares {o : State} {s : State} {l : Lane} {c : CoreId} {n : Nat} {v : Word} (h : Spares o s) :
    Spares o (State.writeLock s l c n v) := by
  unfold State.writeLock
  try dsimp only
  repeat'
    first
    | with_reducible assumption | with_reducible apply State.lockAcquire_spares
    | with_reducible apply State.lockHand_spares | with_reducible apply State.lockRecover_spares
    | with_reducible apply State.lockRefused_spares | with_reducible apply State.lockRelease_spares
    | with_reducible apply State.lockRenew_spares | split

theorem State.lockOp_keeps {o : State} {s : State} {l : Lane} {c : CoreId} {n : Nat} {v : Word} (h : Keeps o s) :
    Keeps o (State.lockOp s l c n v) := by
  unfold State.lockOp
  try dsimp only
  repeat'
    first
    | with_reducible assumption | with_reducible apply State.regWriteBy_keeps
    | with_reducible refine Keeps.trans ?_ (State.writeLock_spares (Spares.refl _)).toKeeps | split | intro _

theorem State.dirtyScan_spares {o : State} {s : State} {l : Lane} (h : Spares o s) : Spares o (State.dirtyScan s l) := by
  unfold State.dirtyScan
  try dsimp only
  repeat'
    first
    | with_reducible assumption | with_reducible apply foldl_spares | with_reducible apply State.eventL_spares
    | with_reducible apply State.freeLock_spares | with_reducible apply State.wr_spares | split | intro _

theorem State.claim_spares {o : State} {s : State} {l : Lane} {q : ClaimReq} (h : Spares o s) :
    Spares o (State.claim s l q).2 := by
  unfold State.claim
  try dsimp only
  repeat'
    first
    | with_reducible assumption | with_reducible exact LaneSpares.refl _ | simp only [Spares.upd_iff]
    | with_reducible apply onLane_spares | with_reducible apply State.eventL_spares
    | with_reducible apply State.wr_spares | split | intro _ | with_reducible apply LaneSpares.upd

theorem State.judgeClaim47_spares {o : State} {s : State} (h : Spares o s) : Spares o (State.judgeClaim47 s) := by
  unfold State.judgeClaim47
  try dsimp only
  repeat'
    first
    | with_reducible assumption | with_reducible exact LaneSpares.refl _ | simp only [Spares.upd_iff]
    | with_reducible apply onLanes_spares | split | intro _ | with_reducible apply LaneSpares.upd

theorem State.claimRelease_spares {o : State} {s : State} {l : Lane} {q : ClaimReq} (h : Spares o s) :
    Spares o (State.claimRelease s l q) := by
  unfold State.claimRelease
  try dsimp only
  repeat'
    first
    | with_reducible assumption | with_reducible exact LaneSpares.refl _ | simp only [Spares.upd_iff]
    | with_reducible apply onLane_spares | with_reducible apply State.eventL_spares
    | with_reducible apply State.wr_spares | split | intro _ | with_reducible apply LaneSpares.upd

theorem State.writeClaim_spares {o : State} {s : State} {l : Lane} {v : Word} (h : Spares o s) :
    Spares o (State.writeClaim s l v) := by
  unfold State.writeClaim
  try dsimp only
  repeat'
    first
    | with_reducible assumption | simp only [Spares.upd_iff] | with_reducible apply State.claim_spares
    | with_reducible apply State.claimRelease_spares | with_reducible apply State.wr_spares | split

end Sys2Proof.Machine
end

