-- ==== Sys2Proof/Laws/FrameField.lean ====
section
/-! SUPPORT. Laws/FrameField.lean: what the operations of Machine/Field.lean keep. -/
namespace Sys2Proof.Machine

theorem State.setDom_spares {o : State} {s : State} {n : Nat} {v : Nat} (h : Spares o s) :
    Spares o (State.setDom s n v) := by
  unfold State.setDom
  try dsimp only
  repeat'
    first
    | with_reducible assumption | with_reducible apply State.wrM_spares

theorem State.onCtrl_spares {o : State} {s : State} {l : Lane} {f : Ctrl → Ctrl} (h : Spares o s) :
    Spares o (State.onCtrl s l f) := by
  unfold State.onCtrl
  try dsimp only
  repeat'
    first
    | with_reducible assumption | simp only [Spares.upd_iff]

theorem State.discardPulse_spares {o : State} {s : State} (h : Spares o s) : Spares o (State.discardPulse s) := by
  unfold State.discardPulse
  try dsimp only
  repeat'
    first
    | with_reducible assumption | simp only [Spares.upd_iff]

theorem State.uplinkLost_spares {o : State} {s : State} {l : Lane} (h : Spares o s) :
    Spares o (State.uplinkLost s l) := by
  unfold State.uplinkLost
  try dsimp only
  repeat'
    first
    | with_reducible assumption | with_reducible apply State.wr_spares

theorem State.writeLen_spares {o : State} {s : State} {l : Lane} {v : Word} (h : Spares o s) :
    Spares o (State.writeLen s l v) := by
  unfold State.writeLen
  try dsimp only
  repeat'
    first
    | with_reducible assumption | simp only [Spares.upd_iff] | with_reducible apply State.wr_spares | split

theorem State.showPage_spares {o : State} {s : State} {l : Lane} {page : Nat} {data : Nat} (h : Spares o s) :
    Spares o (State.showPage s l page data) := by
  unfold State.showPage
  try dsimp only
  repeat'
    first
    | with_reducible assumption | with_reducible apply foldl_spares | with_reducible apply State.eventL_spares
    | with_reducible apply State.inc_spares | with_reducible apply State.wr_spares | split

end Sys2Proof.Machine
end

