-- ==== Sys2Proof/Laws/FrameSort.lean ====
section
/-! SUPPORT. Laws/FrameSort.lean: what the operations of Machine/Sort.lean keep. -/
namespace Sys2Proof.Machine

theorem State.showSkew_spares {o : State} {s : State} (h : Spares o s) : Spares o (State.showSkew s) := by
  unfold State.showSkew
  try dsimp only
  repeat'
    first
    | with_reducible assumption | with_reducible apply foldl_spares | with_reducible apply State.wr_spares | split
    | intro _

theorem State.judgeSkew_keeps {o : State} {s : State} (h : Keeps o s) : Keeps o (State.judgeSkew s) := by
  unfold State.judgeSkew
  repeat'
    first
    | with_reducible assumption | with_reducible exact LaneKeeps.upd
    | (extract_lets +onlyGivenNames x; refine (fun (hx : Keeps o x) => ?_) ?_; clear_value x; rotate_left; simp only [x]; clear x)
    | (extract_lets +onlyGivenNames x; refine (fun (hx : Keeps o x.2) => ?_) ?_; clear_value x; rotate_left; simp only [x]; clear x)
    | (extract_lets +onlyGivenNames x; clear_value x) | simp only [Keeps.upd_iff] | with_reducible apply onLane_keeps
    | with_reducible apply foldl_keeps
    | with_reducible refine Keeps.trans ?_ (State.event_spares (Spares.refl _)).toKeeps
    | with_reducible refine Keeps.trans ?_ (State.latchSafe_spares (Spares.refl _)).toKeeps
    | with_reducible apply State.nameLanes_keeps | split | intro _

theorem foldl_fst_keeps {α β : Type} {o : State} {f : State × β → α → State × β} {xs : List α} :
    ∀ {a : State × β}, Keeps o a.1 → (∀ t x, Keeps o t.1 → Keeps o (f t x).1) → Keeps o (xs.foldl f a).1 := by
  induction xs with
  | nil => exact fun h _ => h
  | cons x xs ih => exact fun h k => ih (k _ x h) k

theorem State.readForces_keeps {o : State} {s : State} {l : Lane} (h : Keeps o s) : Keeps o (State.readForces s l).1 := by
  unfold State.readForces
  refine foldl_fst_keeps h fun t i k => ?_
  have h1 := State.readMem_keeps (l := l) (master := mCore0) (lvl := none) (src := 0)
    (a := s.rd l R.TSK_FORCE_BASE * 64 + 16 * i) (n := 8) k
  extract_lets r0 r1
  have h2 : Keeps o r1.2 := State.readMem_keeps h1
  clear_value r1
  clear_value r0
  split <;> exact h2

theorem State.exchangeForces_keeps {o : State} {s : State} (h : Keeps o s) : Keeps o (State.exchangeForces s) := by
  unfold State.exchangeForces
  extract_lets c s r s1
  have h0 : Keeps o s := Keeps.upd h
  have hr : Keeps o r.1 := foldl_fst_keeps h0 fun t i k => State.readForces_keeps k
  have h1 : Keeps o s1 := by
    refine foldl_keeps hr fun _ t k => foldl_keeps k fun _ e k => ?_
    split
    · exact k
    · exact k.spares fun k => State.eventL_spares k
  exact Keeps.upd h1

theorem State.applyForces_spares {o : State} {s : State} (h : Spares o s) : Spares o (State.applyForces s) := by
  unfold State.applyForces
  try dsimp only
  repeat'
    first
    | with_reducible assumption | simp only [Spares.upd_iff] | with_reducible apply foldl_spares
    | with_reducible apply State.event_spares | with_reducible apply State.wrM_spares | split | intro _

theorem State.holdTogether_spares {o : State} {s : State} {l : Lane} (h : Spares o s) :
    Spares o (State.holdTogether s l) := by
  unfold State.holdTogether
  try dsimp only
  repeat'
    first
    | with_reducible assumption | with_reducible exact LaneSpares.refl _ | simp only [Spares.upd_iff]
    | with_reducible apply onLane_spares | with_reducible apply foldl_spares | with_reducible apply State.wr_spares
    | split | intro _ | with_reducible apply LaneSpares.upd

end Sys2Proof.Machine
end

