-- ==== Sys2Proof/Laws/FrameFieldDiag.lean ====
section
/-! SUPPORT. Laws/FrameFieldDiag.lean: what the operations of Machine/FieldDiag.lean keep. -/
namespace Sys2Proof.Machine

theorem State.agreeInputs_keeps {o : State} {s : State} (h : Keeps o s) : Keeps o (State.agreeInputs s) := by
  unfold State.agreeInputs
  extract_lets vals agreed inst page1 used div s1 s2 src s3 s4 s5 bad
  have h2 : Keeps o s2 := h.spares fun k => State.wrM_spares (State.addRunning_spares (State.addRunning_spares k))
  have h3 : Keeps o s3 := Keeps.upd h2
  have h4 : Keeps o s4 := by
    simp only [s4]
    split
    · exact h3.spares fun k => State.drawn_spares k
    · exact h3
  have h5 : Keeps o s5 := foldl_keeps h4 fun _ p k => by
    refine onLane_keeps k _ _ ?_
    exact LaneKeeps.upd
  exact foldl_keeps h5 fun _ _ k => State.nameLane_keeps (k.spares fun k => State.eventAt_spares k)

theorem State.setFailed_spares {o : State} {s : State} {c : Nat} {v : Bool} (h : Spares o s) :
    Spares o (State.setFailed s c v) := by
  unfold State.setFailed
  try dsimp only
  repeat'
    first
    | with_reducible assumption | with_reducible apply State.wrM_spares | split

theorem State.showCutOff_spares {o : State} {s : State} (h : Spares o s) : Spares o (State.showCutOff s) := by
  unfold State.showCutOff
  try dsimp only
  repeat'
    first
    | with_reducible assumption | with_reducible apply State.wrM_spares

theorem State.cutGroup_spares {o : State} {s : State} {g : Nat} (h : Spares o s) : Spares o (State.cutGroup s g) := by
  unfold State.cutGroup
  try dsimp only
  repeat'
    first
    | with_reducible assumption | simp only [Spares.upd_iff] | with_reducible apply State.event_spares
    | with_reducible apply State.showCutOff_spares | split

theorem State.failCell_spares {o : State} {s : State} {c : Nat} {cause : Nat} {branch : Nat} {partner : Nat}
    (h : Spares o s) :
    Spares o (State.failCell s c cause branch partner) := by
  unfold State.failCell
  try dsimp only
  repeat'
    first
    | with_reducible assumption | with_reducible apply State.setFailed_spares | with_reducible apply State.wrM_spares

theorem State.setCause_spares {o : State} {s : State} {c : Nat} {cause : Nat} {branch : Nat} {partner : Option Nat}
    (h : Spares o s) :
    Spares o (State.setCause s c cause branch partner) := by
  unfold State.setCause
  try dsimp only
  repeat'
    first
    | with_reducible assumption | with_reducible apply State.cutGroup_spares | with_reducible apply State.event_spares
    | with_reducible apply State.failCell_spares | split

theorem State.judgeCell_spares {o : State} {s : State} {c : Nat} (h : Spares o s) : Spares o (State.judgeCell s c) := by
  unfold State.judgeCell
  try dsimp only
  repeat'
    first
    | with_reducible assumption | with_reducible apply State.event_spares | with_reducible apply State.setCause_spares
    | with_reducible apply State.wrM_spares | split

theorem State.judgeCells_spares {o : State} {s : State} (h : Spares o s) : Spares o (State.judgeCells s) := by
  unfold State.judgeCells
  try dsimp only
  repeat'
    first
    | with_reducible assumption | simp only [Spares.upd_iff] | with_reducible apply foldl_spares
    | with_reducible apply State.judgeCell_spares

theorem State.setFbCounts_spares {o : State} {s : State} {g : Nat} {mism : Nat} {good : Nat} (h : Spares o s) :
    Spares o (State.setFbCounts s g mism good) := by
  unfold State.setFbCounts
  try dsimp only
  repeat'
    first
    | with_reducible assumption | simp only [Spares.upd_iff]

theorem State.judgeFeedback_spares {o : State} {s : State} {ok : Bool} {g : Nat} (h : Spares o s) :
    Spares o (State.judgeFeedback s ok g) := by
  unfold State.judgeFeedback
  try dsimp only
  repeat'
    first
    | with_reducible assumption | with_reducible apply State.event_spares | with_reducible apply State.safeOn_spares
    | with_reducible apply State.setFbCounts_spares | with_reducible apply State.wrM_spares | split

theorem State.recordSag_spares {o : State} {s : State} (h : Spares o s) : Spares o (State.recordSag s) := by
  unfold State.recordSag
  try dsimp only
  repeat'
    first
    | with_reducible assumption | simp only [Spares.upd_iff] | with_reducible apply foldl_spares
    | with_reducible apply State.event_spares | split

theorem State.judgeConfig_keeps {o : State} {s : State} {l : Lane} (h : Keeps o s) :
    Keeps o (State.judgeConfig s l) := by
  unfold State.judgeConfig
  try dsimp only
  repeat'
    first
    | with_reducible assumption | with_reducible exact LaneKeeps.upd | simp only [Keeps.upd_iff]
    | with_reducible apply onLane_keeps
    | with_reducible refine Keeps.trans ?_ (State.event_spares (Spares.refl _)).toKeeps
    | with_reducible apply State.nameLane_keeps | split

theorem State.diagnoseField_keeps {o : State} {s : State} (h : Keeps o s) : Keeps o (State.diagnoseField s) := by
  unfold State.diagnoseField
  extract_lets sup src s1 src2 s2 s3 rb fb
  have h1 : Keeps o s1 := Keeps.upd h
  have h2 : Keeps o s2 := by
    simp only [s2]
    split
    · exact h1.spares fun k => State.judgeCells_spares k
    · exact Keeps.upd h1
  have h3 : Keeps o s3 := foldl_keeps h2 fun _ _ k => k.spares fun k => State.judgeFeedback_spares k
  exact foldl_keeps (h3.spares fun k => State.recordSag_spares (State.wrM_spares (State.wrM_spares k)))
    fun _ _ k => State.judgeConfig_keeps k

theorem State.diagnose_keeps {o : State} {s : State} (h : Keeps o s) : Keeps o (State.diagnose s) := by
  unfold State.diagnose
  try dsimp only
  repeat'
    first
    | with_reducible assumption | with_reducible apply State.diagnoseField_keeps | split

theorem State.clearCell_spares {o : State} {s : State} {cell : Nat} (h : Spares o s) :
    Spares o (State.clearCell s cell) := by
  unfold State.clearCell
  try dsimp only
  repeat'
    first
    | with_reducible assumption | simp only [Spares.upd_iff] | with_reducible apply foldl_spares
    | with_reducible apply State.event_spares | with_reducible apply State.setFailed_spares
    | with_reducible apply State.showCutOff_spares | with_reducible apply State.wrM_spares | split | intro _

end Sys2Proof.Machine
end

