-- ==== Sys2Proof/Laws/FrameDenras.lean ====
section
/-! SUPPORT. Laws/FrameDenras.lean: what the operations of Machine/Denras.lean keep. -/
namespace Sys2Proof.Machine

theorem State.onStar_spares {o : State} {s : State} {ch : Chan} {f : StarCore → StarCore} (h : Spares o s) :
    Spares o (State.onStar s ch f) := by
  unfold State.onStar
  try dsimp only
  repeat'
    first
    | with_reducible assumption | simp only [Spares.upd_iff]

theorem State.setCoreState_spares {o : State} {s : State} {ch : Chan} {v : Nat} (h : Spares o s) :
    Spares o (State.setCoreState s ch v) := by
  unfold State.setCoreState
  try dsimp only
  repeat'
    first
    | with_reducible assumption | with_reducible apply State.wrM_spares

theorem State.endClaim_spares {o : State} {s : State} {ch : Chan} {slot : Nat} (h : Spares o s) :
    Spares o (State.endClaim s ch slot) := by
  unfold State.endClaim
  try dsimp only
  repeat'
    first
    | with_reducible assumption | simp only [Spares.upd_iff] | with_reducible apply State.event_spares
    | with_reducible apply State.onStar_spares | split

theorem State.endClaims_spares {o : State} {s : State} {ch : Chan} (h : Spares o s) :
    Spares o (State.endClaims s ch) := by
  unfold State.endClaims
  try dsimp only
  repeat'
    first
    | with_reducible assumption | with_reducible apply foldl_spares | with_reducible apply State.endClaim_spares | split
    | intro _

theorem State.claimFrame_spares {o : State} {s : State} {ch : Chan} {port : Nat} {tSfd : Nat} {f : Frame} {slot : Nat} (h : Spares o s)
   :
    Spares o (State.claimFrame s ch port tSfd f slot) := by
  unfold State.claimFrame
  try dsimp only
  repeat'
    first
    | with_reducible assumption | simp only [Spares.upd_iff] | with_reducible apply State.event_spares
    | with_reducible apply State.onStar_spares | split

theorem State.violate_spares {o : State} {s : State} {ch : Chan} {port : Nat} {slot : Nat} {cause : Nat} {f : Frame}
    (h : Spares o s) :
    Spares o (State.violate s ch port slot cause f) := by
  unfold State.violate
  try dsimp only
  repeat'
    first
    | with_reducible assumption | with_reducible apply foldl_spares | with_reducible apply State.endClaim_spares
    | with_reducible apply State.event_spares | with_reducible apply State.incWrapM_spares
    | with_reducible apply State.wrM_spares | split | intro _

theorem State.activateCore_spares {o : State} {s : State} {ch : Chan} {epoch : Int} {leader : Nat} {cold : Nat}
    (h : Spares o s) :
    Spares o (State.activateCore s ch epoch leader cold) := by
  unfold State.activateCore
  try dsimp only
  repeat'
    first
    | with_reducible assumption | simp only [Spares.upd_iff] | with_reducible apply State.onStar_spares
    | with_reducible apply State.setCoreState_spares | with_reducible apply State.wrM_spares

theorem State.starHears_spares {o : State} {s0 : State} {ch : Chan} {f : Frame} (h : Spares o s0) :
    Spares o (State.starHears s0 ch f) := by
  unfold State.starHears
  try dsimp only
  repeat'
    first
    | with_reducible assumption | simp only [Spares.upd_iff] | with_reducible apply State.onStar_spares | split

theorem State.sendOn_spares {o : State} {s : State} {ch : Chan} {f : Frame} {slot : Nat} {above : Bool} {ended : Bool} {start : Int} {at' : Int} (h : Spares o s)
   :
    Spares o (State.sendOn s ch f slot above ended start at') := by
  unfold State.sendOn
  try dsimp only
  repeat'
    first
    | with_reducible assumption | simp only [Spares.upd_iff] | with_reducible apply State.onStar_spares

theorem State.deliver_spares {o : State} {s : State} {ch : Chan} {c : RxCopy} (h : Spares o s) :
    Spares o (State.deliver s ch c) := by
  unfold State.deliver
  try dsimp only
  repeat'
    first
    | with_reducible assumption | with_reducible exact LaneSpares.refl _ | simp only [Spares.upd_iff]
    | with_reducible apply onLane_spares | with_reducible apply foldl_spares | with_reducible apply State.onStar_spares
    | with_reducible apply State.pmc_spares | with_reducible apply State.wr_spares | split | intro _
    | with_reducible apply LaneSpares.upd

theorem State.undo_spares {o : State} {s : State} {ch : Chan} {slot : Nat} (h : Spares o s) :
    Spares o (State.undo s ch slot) := by
  unfold State.undo
  try dsimp only
  repeat'
    first
    | with_reducible assumption | with_reducible exact LaneSpares.refl _ | simp only [Spares.upd_iff]
    | with_reducible apply onLanes_spares | with_reducible apply State.onStar_spares | split | intro _
    | with_reducible apply LaneSpares.upd

theorem State.deliverMarked_spares {o : State} {s : State} {ch : Chan} {port : Nat} {tSfd : Nat} {slot : Nat} {f : Frame} (h : Spares o s)
   :
    Spares o (State.deliverMarked s ch port tSfd slot f) := by
  unfold State.deliverMarked
  try dsimp only
  repeat'
    first
    | with_reducible assumption | with_reducible apply State.deliver_spares | split

theorem State.sfdSeen_spares {o : State} {s : State} {ch : Chan} {port : Nat} (h : Spares o s) :
    Spares o (State.sfdSeen s ch port) := by
  unfold State.sfdSeen
  try dsimp only
  repeat'
    first
    | with_reducible assumption | simp only [Spares.upd_iff] | with_reducible apply State.onStar_spares
    | with_reducible apply State.wrM_spares

theorem State.coldAtListening_spares {o : State} {s : State} {ch : Chan} {port : Nat} {tSfd : Nat} {f : Frame}
    (h : Spares o s) :
    Spares o (State.coldAtListening s ch port tSfd f) := by
  unfold State.coldAtListening
  try dsimp only
  repeat'
    first
    | with_reducible assumption | simp only [Spares.upd_iff] | with_reducible apply State.activateCore_spares
    | with_reducible apply State.deliver_spares | with_reducible apply State.deliverMarked_spares
    | with_reducible apply State.onStar_spares | with_reducible apply State.sendOn_spares
    | with_reducible apply State.violate_spares | split

theorem State.claimTie_spares {o : State} {s t : State} {ch : Chan} {port tSfd : Nat} {f : Frame} (h : Spares o s)
    (e : State.claimTie s ch port tSfd f = some t) : Spares o t := by
  unfold State.claimTie at e
  split at e
  · split at e
    · cases e; exact State.onStar_spares (State.undo_spares h)
    · cases e
  · cases e

theorem State.fromAbove_spares {o : State} {s : State} {ch : Chan} {port : Nat} {tSfd : Nat} {f : Frame} {whole : Bool} (h : Spares o s)
   :
    Spares o (State.fromAbove s ch port tSfd f whole) := by
  unfold State.fromAbove
  try dsimp only
  repeat'
    first
    | with_reducible assumption | simp only [Spares.upd_iff] | with_reducible apply State.deliver_spares
    | with_reducible apply State.onStar_spares | with_reducible apply State.sendOn_spares | split

theorem State.guardFrame_spares {o : State} {s : State} {ch : Chan} {port : Nat} {tSfd : Nat} {f : Frame} {endOk : Bool} (h : Spares o s)
   :
    Spares o (State.guardFrame s ch port tSfd f endOk) := by
  unfold State.guardFrame
  try dsimp only
  repeat'
    first
    | with_reducible assumption | with_reducible apply State.claimFrame_spares
    | with_reducible apply State.deliver_spares | with_reducible apply State.deliverMarked_spares
    | with_reducible apply State.sendOn_spares | with_reducible apply State.starHears_spares
    | with_reducible apply State.violate_spares | with_reducible apply State.wrM_spares | split

theorem State.ingress_spares {o : State} {s : State} {ch : Chan} {port tSfd : Nat} {f : Frame} {endOk : Bool} (h : Spares o s) :
    Spares o (State.ingress s ch port tSfd f endOk) := by
  have h0 : Spares o (s.sfdSeen ch port) := State.sfdSeen_spares h
  unfold State.ingress
  dsimp only
  repeat'
    first
    | with_reducible assumption | with_reducible apply State.guardFrame_spares
    | with_reducible apply State.fromAbove_spares | with_reducible apply State.deliverMarked_spares
    | with_reducible apply State.deliver_spares | with_reducible apply State.sendOn_spares
    | with_reducible apply State.onStar_spares | with_reducible apply State.activateCore_spares
    | with_reducible apply State.undo_spares | with_reducible apply State.coldAtListening_spares
    | with_reducible apply State.starHears_spares | with_reducible apply State.violate_spares
    | (refine State.claimTie_spares ?_ (by assumption)) | split

theorem State.fromOutside_spares {o : State} {s : State} {ch : Chan} {port : Nat} {tSfd : Nat} {f : Frame} {endOk : Bool} (h : Spares o s)
   :
    Spares o (State.fromOutside s ch port tSfd f endOk) := by
  unfold State.fromOutside
  try dsimp only
  repeat'
    first
    | with_reducible assumption | with_reducible apply State.ingress_spares | split

theorem State.notIntegrated_spares {o : State} {s : State} (h : Spares o s) : Spares o (State.notIntegrated s) := by
  unfold State.notIntegrated
  try dsimp only
  repeat'
    first
    | with_reducible assumption | with_reducible apply State.wrM_spares

theorem State.protocol_spares {o : State} {s : State} {st : Nat} {cause : Nat} (h : Spares o s) :
    Spares o (State.protocol s st cause) := by
  unfold State.protocol
  try dsimp only
  repeat'
    first
    | with_reducible assumption | simp only [Spares.upd_iff] | with_reducible apply State.event_spares
    | with_reducible apply State.notIntegrated_spares | with_reducible apply State.wrM_spares | split

theorem State.listen_spares {o : State} {s : State} {cause : Nat} (h : Spares o s) :
    Spares o (State.listen s cause) := by
  unfold State.listen
  try dsimp only
  repeat'
    first
    | with_reducible assumption | simp only [Spares.upd_iff] | with_reducible apply State.protocol_spares

theorem State.writeDnrCtrl_spares {o : State} {s : State} {l : Lane} {v : Word} (h : Spares o s) :
    Spares o (State.writeDnrCtrl s l v) := by
  unfold State.writeDnrCtrl
  try dsimp only
  repeat'
    first
    | with_reducible assumption | with_reducible apply State.listen_spares | with_reducible apply State.protocol_spares
    | with_reducible apply State.wr_spares | split

theorem State.integrate_spares {o : State} {s : State} (h : Spares o s) : Spares o (State.integrate s) := by
  unfold State.integrate
  try dsimp only
  repeat'
    first
    | with_reducible assumption | simp only [Spares.upd_iff] | with_reducible apply State.protocol_spares
    | with_reducible apply State.wrM_spares

theorem State.takeTiming_spares {o : State} {s : State} {round : Nat} {lag : Int} (h : Spares o s) :
    Spares o (State.takeTiming s round lag) := by
  unfold State.takeTiming
  try dsimp only
  repeat'
    first
    | with_reducible assumption | simp only [Spares.upd_iff] | with_reducible apply State.wrM_spares | split

end Sys2Proof.Machine
end

