-- ==== Sys2Proof/Laws/FrameImages.lean ====
section
/-! SUPPORT. Laws/FrameImages.lean: what the operations of Machine/Images.lean keep. -/
namespace Sys2Proof.Machine

theorem State.checked_spares {o : State} {s : State} {i : Image} {res : Nat} (h : Spares o s) :
    Spares o (State.checked s i res) := by
  unfold State.checked
  try dsimp only
  repeat'
    first
    | with_reducible assumption | with_reducible apply State.event_spares | with_reducible apply State.wrM_spares

end Sys2Proof.Machine
end

