-- ==== Sys2Proof/Laws/FrameLog.lean ====
section
/-! SUPPORT. Laws/FrameLog.lean: what the operations of Machine/Log.lean keep. -/
namespace Sys2Proof.Machine

theorem State.onLog_spares {o : State} {s : State} {f : Log → Log} (h : Spares o s) : Spares o (State.onLog s f) := by
  unfold State.onLog
  try dsimp only
  repeat'
    first
    | with_reducible assumption | simp only [Spares.upd_iff]

theorem State.lostOvf_spares {o : State} {s : State} {code : Nat} (h : Spares o s) :
    Spares o (State.lostOvf s code) := by
  unfold State.lostOvf
  try dsimp only
  repeat'
    first
    | with_reducible assumption | with_reducible apply State.incM_spares | with_reducible apply State.wrM_spares

theorem State.lostFull_spares {o : State} {s : State} {code : Nat} (h : Spares o s) :
    Spares o (State.lostFull s code) := by
  unfold State.lostFull
  try dsimp only
  repeat'
    first
    | with_reducible assumption | with_reducible apply State.incM_spares | with_reducible apply State.wrM_spares

theorem State.bufferRec_spares {o : State} {s : State} {r : Rec} (h : Spares o s) : Spares o (State.bufferRec s r) := by
  unfold State.bufferRec
  try dsimp only
  repeat'
    first
    | with_reducible assumption | simp only [Spares.upd_iff] | with_reducible apply State.lostOvf_spares
    | with_reducible apply State.onLog_spares | split

theorem State.alarm_spares {o : State} {s : State} {code : Nat} {data : List Nat} (h : Spares o s) :
    Spares o (State.alarm s code data) := by
  unfold State.alarm
  try dsimp only
  repeat'
    first
    | with_reducible assumption | simp only [Spares.upd_iff] | with_reducible apply State.onLog_spares | split

theorem State.d7Rec_spares {o : State} {s : State} {code : Nat} {data : List Nat} (h : Spares o s) :
    Spares o (State.d7Rec s code data) := by
  unfold State.d7Rec
  try dsimp only
  repeat'
    first
    | with_reducible assumption | simp only [Spares.upd_iff] | with_reducible apply State.alarm_spares
    | with_reducible apply State.bufferRec_spares

theorem State.submit_spares {o : State} {s : State} {u : Sub} (h : Spares o s) : Spares o (State.submit s u) := by
  unfold State.submit
  try dsimp only
  repeat'
    first
    | with_reducible assumption | simp only [Spares.upd_iff] | with_reducible apply State.alarm_spares
    | with_reducible apply State.bufferRec_spares | with_reducible apply State.onLog_spares | split

theorem State.submitNext_spares {o : State} {s : State} {l : Lane} (h : Spares o s) :
    Spares o (State.submitNext s l) := by
  unfold State.submitNext
  try dsimp only
  repeat'
    first
    | with_reducible assumption | simp only [Spares.upd_iff] | with_reducible apply State.onLog_spares
    | with_reducible apply State.submit_spares | split

theorem State.storeRec_spares {o : State} {s : State} {r : Rec} (h : Spares o s) : Spares o (State.storeRec s r) := by
  have hput : ∀ {s : State} (x : Log → Log) (n : Nat), Spares o s → Spares o ((s.onLog x).wrM R.LOG_CTRL_COUNT n) :=
    fun x n k => State.wrM_spares (State.onLog_spares k)
  unfold State.storeRec
  dsimp only
  repeat'
    first
    | with_reducible assumption | with_reducible apply hput | with_reducible apply State.lostFull_spares
    | with_reducible apply State.d7Rec_spares | with_reducible apply State.alarm_spares
    | with_reducible apply State.wrM_spares | split

theorem State.writeRec_spares {o : State} {s : State} {r : Rec} (h : Spares o s) : Spares o (State.writeRec s r) := by
  unfold State.writeRec
  dsimp only
  split
  · split
    · exact State.lostOvf_spares h
    · exact State.wrM_spares (State.onLog_spares h)
  · exact State.storeRec_spares h

theorem State.endWindow_spares {o : State} {s : State} {w : Nat} (h : Spares o s) : Spares o (State.endWindow s w) := by
  unfold State.endWindow
  try dsimp only
  repeat'
    first
    | with_reducible assumption | simp only [Spares.upd_iff] | with_reducible apply foldl_spares
    | with_reducible apply State.onLog_spares | with_reducible apply State.writeRec_spares | split | intro _

theorem State.countRec_spares {o : State} {s : State} {r : Rec} (h : Spares o s) : Spares o (State.countRec s r) := by
  unfold State.countRec
  try dsimp only
  repeat'
    first
    | with_reducible assumption | simp only [Spares.upd_iff] | with_reducible apply State.onLog_spares
    | with_reducible apply State.writeRec_spares | split

theorem State.limitRec_spares {o : State} {s0 : State} {r : Rec} (h : Spares o s0) : Spares o (State.limitRec s0 r) := by
  unfold State.limitRec
  try dsimp only
  repeat'
    first
    | with_reducible assumption | with_reducible apply State.countRec_spares
    | with_reducible apply State.endWindow_spares | with_reducible apply State.writeRec_spares | split

theorem State.releaseHeld_spares {o : State} {s : State} (h : Spares o s) : Spares o (State.releaseHeld s) :=
  foldl_spares (State.wrM_spares (State.onLog_spares h)) fun _ _ k => State.writeRec_spares k

theorem State.unfreeze_spares {o : State} {s : State} {cause : Nat} (h : Spares o s) :
    Spares o (State.unfreeze s cause) := by
  unfold State.unfreeze
  try dsimp only
  repeat'
    first
    | with_reducible assumption | with_reducible apply State.d7Rec_spares
    | with_reducible apply State.releaseHeld_spares | with_reducible apply State.wrM_spares | split

theorem State.judgeFreeze_spares {o : State} {s : State} (h : Spares o s) : Spares o (State.judgeFreeze s) := by
  unfold State.judgeFreeze
  try dsimp only
  repeat'
    first
    | with_reducible assumption | simp only [Spares.upd_iff] | with_reducible apply State.d7Rec_spares
    | with_reducible apply State.onLog_spares | with_reducible apply State.unfreeze_spares
    | with_reducible apply State.wrM_spares | split

theorem State.ageSubs_spares {o : State} {s : State} (h : Spares o s) : Spares o (State.ageSubs s) := by
  unfold State.ageSubs
  try dsimp only
  repeat'
    first
    | with_reducible assumption | simp only [Spares.upd_iff] | with_reducible apply State.judgeFreeze_spares
    | with_reducible apply State.onLog_spares

theorem State.writeFreeze_spares {o : State} {s : State} {l : Lane} {v : Word} (h : Spares o s) :
    Spares o (State.writeFreeze s l v) := by
  unfold State.writeFreeze
  try dsimp only
  repeat'
    first
    | with_reducible assumption | with_reducible apply State.judgeFreeze_spares | with_reducible apply State.wr_spares
    | split

theorem State.writeClear_spares {o : State} {s : State} {l : Lane} (h : Spares o s) :
    Spares o (State.writeClear s l) := by
  unfold State.writeClear
  try dsimp only
  repeat'
    first
    | with_reducible assumption | with_reducible exact LaneSpares.refl _ | simp only [Spares.upd_iff]
    | with_reducible apply onLane_spares | with_reducible apply onLanes_spares | with_reducible apply State.onLog_spares
    | with_reducible apply State.unfreeze_spares | with_reducible apply State.wrAll_spares | split | intro _
    | with_reducible apply LaneSpares.upd

theorem State.writeRate_spares {o : State} {s : State} {l : Lane} {v : Word} (h : Spares o s) :
    Spares o (State.writeRate s l v) := by
  unfold State.writeRate
  try dsimp only
  repeat'
    first
    | with_reducible assumption | simp only [Spares.upd_iff] | with_reducible apply State.onLog_spares
    | with_reducible apply State.wr_spares | split

theorem State.latchWin_spares {o : State} {s : State} {l : Lane} (h : Spares o s) : Spares o (State.latchWin s l) :=
  onLane_spares h _ _ (LaneSpares.upd (LaneSpares.refl _))

theorem State.advanceWin_spares {o : State} {s : State} {l : Lane} (h : Spares o s) :
    Spares o (State.advanceWin s l) := by
  unfold State.advanceWin
  try dsimp only
  repeat'
    first
    | with_reducible assumption | with_reducible apply State.wr_spares | split

theorem State.appendAlarm_spares {o : State} {s : State} {a : Nat × Nat × List Nat} (h : Spares o s) :
    Spares o (State.appendAlarm s a) := by
  unfold State.appendAlarm
  split
  · exact State.onLog_spares h
  · split
    · extract_lets s1
      have h1 : Spares o s1 := State.incRunning_spares h
      split
      · exact h1
      · exact State.event_spares (State.onLog_spares h1)
    · exact State.onLog_spares h

theorem State.appendAlarms_spares {o : State} {s : State} (h : Spares o s) : Spares o (State.appendAlarms s) := by
  unfold State.appendAlarms
  try dsimp only
  repeat'
    first
    | with_reducible assumption | simp only [Spares.upd_iff] | with_reducible apply foldl_spares
    | with_reducible apply State.appendAlarm_spares | with_reducible apply State.onLog_spares

end Sys2Proof.Machine
end

