-- ==== Sys2Proof/Laws/FrameNet.lean ====
section
/-! SUPPORT. Laws/FrameNet.lean: what the operations of Machine/Net.lean keep. -/
namespace Sys2Proof.Machine

theorem State.announce_spares {o : State} {s : State} {next : Nat} {round : Nat} (h : Spares o s) :
    Spares o (State.announce s next round) := by
  unfold State.announce
  try dsimp only
  repeat'
    first
    | with_reducible assumption | with_reducible apply State.event_spares | with_reducible apply State.wrM_spares

theorem State.confirm_spares {o : State} {s : State} (h : Spares o s) : Spares o (State.confirm s) := by
  unfold State.confirm
  try dsimp only
  repeat'
    first
    | with_reducible assumption | with_reducible apply State.event_spares | with_reducible apply State.wrM_spares

theorem State.cancelChange_spares {o : State} {s : State} (h : Spares o s) : Spares o (State.cancelChange s) := by
  unfold State.cancelChange
  try dsimp only
  repeat'
    first
    | with_reducible assumption | with_reducible apply State.event_spares | with_reducible apply State.wrM_spares

theorem State.dropClaim_spares {o : State} {s : State} (h : Spares o s) : Spares o (State.dropClaim s) := by
  unfold State.dropClaim
  try dsimp only
  repeat'
    first
    | with_reducible assumption | with_reducible apply State.wrM_spares

theorem State.switchSchedule_spares {o : State} {s : State} (h : Spares o s) : Spares o (State.switchSchedule s) := by
  unfold State.switchSchedule
  try dsimp only
  repeat'
    first
    | with_reducible assumption | simp only [Spares.upd_iff] | with_reducible apply State.dropClaim_spares
    | with_reducible apply State.event_spares | with_reducible apply State.wrM_spares | split

theorem State.leadSchedules_spares {o : State} {s0 : State} (h : Spares o s0) : Spares o (State.leadSchedules s0) := by
  unfold State.leadSchedules
  try dsimp only
  repeat'
    first
    | with_reducible assumption | simp only [Spares.upd_iff] | with_reducible apply foldl_spares
    | with_reducible apply State.announce_spares | with_reducible apply State.cancelChange_spares
    | with_reducible apply State.confirm_spares | with_reducible apply State.wrM_spares | split

theorem State.domainOf_spares {o : State} {s : State} {f : Frame} (h : Spares o s) :
    Spares o (State.domainOf s f).2 := by
  unfold State.domainOf
  try dsimp only
  repeat'
    first
    | with_reducible assumption | with_reducible apply State.wrM_spares | split

theorem State.takeExternal_spares {o : State} {s : State} {p : List Nat} (h : Spares o s) :
    Spares o (State.takeExternal s p) := by
  unfold State.takeExternal
  try dsimp only
  repeat'
    first
    | with_reducible assumption | simp only [Spares.upd_iff] | with_reducible apply State.wrAll_spares
    | with_reducible apply State.wrM_spares

theorem State.takeSync_spares {o : State} {s : State} {ch : Chan} {t : Nat} {frame : Frame} (h : Spares o s) :
    Spares o (State.takeSync s ch t frame) := by
  unfold State.takeSync
  repeat'
    first
    | with_reducible assumption
    | (extract_lets +onlyGivenNames x; refine (fun (hx : Spares o x) => ?_) ?_; clear_value x; rotate_left; simp only [x]; clear x)
    | (extract_lets +onlyGivenNames x; refine (fun (hx : Spares o x.2) => ?_) ?_; clear_value x; rotate_left; simp only [x]; clear x)
    | (extract_lets +onlyGivenNames x; clear_value x) | simp only [Spares.upd_iff]
    | with_reducible apply State.domainOf_spares | with_reducible apply State.event_spares
    | with_reducible apply State.onStar_spares | with_reducible apply State.steer_spares
    | with_reducible apply State.takeExternal_spares | with_reducible apply State.takeTiming_spares
    | with_reducible apply State.wrM_spares | split

theorem State.askSlot_spares {o : State} {s : State} (h : Spares o s) : Spares o (State.askSlot s) := by
  unfold State.askSlot
  try dsimp only
  repeat'
    first
    | with_reducible assumption | with_reducible apply State.wrM_spares | split

theorem State.takeMgmt_spares {o : State} {s : State} {p : List Nat} (h : Spares o s) :
    Spares o (State.takeMgmt s p) := by
  unfold State.takeMgmt
  repeat'
    first
    | with_reducible assumption
    | (extract_lets +onlyGivenNames x; refine (fun (hx : Spares o x) => ?_) ?_; clear_value x; rotate_left; simp only [x]; clear x)
    | (extract_lets +onlyGivenNames x; refine (fun (hx : Spares o x.2) => ?_) ?_; clear_value x; rotate_left; simp only [x]; clear x)
    | (extract_lets +onlyGivenNames x; clear_value x) | simp only [Spares.upd_iff]
    | with_reducible apply State.announce_spares | with_reducible apply State.askSlot_spares
    | with_reducible apply State.cancelChange_spares | with_reducible apply State.confirm_spares
    | with_reducible apply State.onSettings_spares | with_reducible apply State.wrM_spares | split

theorem State.writeSchedSel_spares {o : State} {s : State} {l : Lane} {v : Word} (h : Spares o s) :
    Spares o (State.writeSchedSel s l v) := by
  unfold State.writeSchedSel
  try dsimp only
  repeat'
    first
    | with_reducible assumption | with_reducible apply State.wr_spares

theorem State.requestSlot_spares {o : State} {s0 : State} (h : Spares o s0) : Spares o (State.requestSlot s0) := by
  unfold State.requestSlot
  try dsimp only
  repeat'
    first
    | with_reducible assumption | simp only [Spares.upd_iff] | with_reducible apply State.askSlot_spares
    | with_reducible apply State.onSettings_spares

theorem State.releaseSlot_spares {o : State} {s0 : State} (h : Spares o s0) : Spares o (State.releaseSlot s0) := by
  unfold State.releaseSlot
  try dsimp only
  repeat'
    first
    | with_reducible assumption | simp only [Spares.upd_iff] | with_reducible apply State.onSettings_spares
    | with_reducible apply State.wrM_spares | split

theorem State.writeTable_spares {o : State} {s : State} {l : Lane} {v : Word} (h : Spares o s) :
    Spares o (State.writeTable s l v) := by
  unfold State.writeTable
  try dsimp only
  repeat'
    first
    | with_reducible assumption | with_reducible exact LaneSpares.refl _ | simp only [Spares.upd_iff]
    | with_reducible apply onLane_spares | with_reducible apply State.wr_spares | split | intro _
    | with_reducible apply LaneSpares.upd

theorem State.writeStream_spares {o : State} {s : State} {l : Lane} {v : Word} (h : Spares o s) :
    Spares o (State.writeStream s l v) := by
  unfold State.writeStream
  try dsimp only
  repeat'
    first
    | with_reducible assumption | with_reducible exact LaneSpares.refl _ | simp only [Spares.upd_iff]
    | with_reducible apply onLane_spares | with_reducible apply State.incM_spares | split | intro _
    | with_reducible apply LaneSpares.upd

theorem State.hearCopy_spares {o : State} {s : State} {l : Lane} {c : Option RxCopy} (h : Spares o s) :
    Spares o (State.hearCopy s l c) := by
  unfold State.hearCopy
  try dsimp only
  repeat'
    first
    | with_reducible assumption | with_reducible apply State.pmc_spares | with_reducible apply State.snoop_spares
    | split

theorem State.leaveChannel_spares {o : State} {s : State} {ch : Chan} (h : Spares o s) :
    Spares o (State.leaveChannel s ch) := by
  unfold State.leaveChannel
  try dsimp only
  repeat'
    first
    | with_reducible assumption | simp only [Spares.upd_iff] | with_reducible apply State.event_spares
    | with_reducible apply State.protocol_spares | with_reducible apply State.wrM_spares | split

theorem State.ownEcho_spares {o : State} {s : State} {l : Lane} {ch : Chan} {slot : Nat} {c : Option RxCopy}
    (h : Spares o s) :
    Spares o (State.ownEcho s l ch slot c) := by
  unfold State.ownEcho
  try dsimp only
  repeat'
    first
    | with_reducible assumption | simp only [Spares.upd_iff] | with_reducible apply State.leaveChannel_spares
    | with_reducible apply State.pmc_spares | with_reducible apply State.wr_spares | split

theorem State.noteFrame_spares {o : State} {s : State} {f : Frame} (h : Spares o s) :
    Spares o (State.noteFrame s f) := by
  unfold State.noteFrame
  try dsimp only
  repeat'
    first
    | with_reducible assumption | simp only [Spares.upd_iff] | with_reducible apply State.wrM_spares | split

theorem State.takeCopy_spares {o : State} {s : State} {l : Lane} {ch : Chan} {slot : Nat} (h : Spares o s) :
    Spares o (State.takeCopy s l ch slot).2 := by
  unfold State.takeCopy
  try dsimp only
  repeat'
    first
    | with_reducible assumption | with_reducible exact LaneSpares.refl _ | simp only [Spares.upd_iff]
    | with_reducible apply onLane_spares | split | intro _ | with_reducible apply LaneSpares.upd

theorem State.macWrite_spares {o : State} {s : State} {l : Lane} {c : Option RxCopy} (h : Spares o s) :
    Spares o (State.macWrite s l c).2 := by
  have h1 := State.cross_spares (l := l) (p := .macWrite) (src := 5) (a := 8 * (s.freshNat % 2 ^ 29)) (w := 0)
    (State.drawn_spares h)
  unfold State.macWrite
  split
  · exact h
  · generalize s.drawn.cross l .macWrite 5 (8 * (s.freshNat % 2 ^ 29)) 0 = x at h1 ⊢
    obtain ⟨_ | v, t⟩ := x
    · exact State.wr_spares h1
    · exact h1

theorem State.alarmFrame_spares {o : State} {s t : State} {b : List Nat} (h : Spares o s)
    (e : State.alarmFrame s = some (b, t)) : Spares o t := by
  unfold State.alarmFrame at e
  split at e
  · cases e
  · cases e; exact Spares.upd h

theorem State.takeTelegram_spares {o : State} {s t : State} {b : List Nat} (h : Spares o s)
    (e : State.takeTelegram s = some (b, t)) : Spares o t := by
  unfold State.takeTelegram at e
  split at e
  · cases e; exact Spares.upd h
  · cases e

theorem State.content_spares {o : State} {s t : State} {slot : Nat} {b : Nat × List Nat} (h : Spares o s)
    (e : State.content s slot = some (b, t)) : Spares o t := by
  have hm : ∀ (x : Option (List Nat × State)), (∀ b u, x = some (b, u) → Spares o u) →
      ∀ b u, (match x with | some m => ((fkData, m.1), m.2) | none => ((fkNull, []), s) : (Nat × List Nat) × State) = (b, u) →
        Spares o u := by
    intro x hx b u hu
    split at hu
    · cases hu; exact hx _ _ rfl
    · cases hu; exact h
  unfold State.content at e
  repeat' split at e
  all_goals first
    | (cases e; exact h)
    | (cases e; exact Spares.upd h)
    | cases e
    | skip
  all_goals
    refine hm _ ?_ _ _ (Option.some.inj e)
    intro b u hu
    first
      | exact State.takeTelegram_spares h hu
      | exact State.alarmFrame_spares h hu

theorem State.fixContent_spares {o : State} {s t : State} {slot : Nat} {b : Nat × List Nat} (h : Spares o s)
    (e : State.fixContent s slot = some (b, t)) : Spares o t := by
  have hm : ∀ {b t}, (s.content slot).map (fun c => (c.1, ({ c.2 with net := { c.2.net with tx := some (s.round, slot, c.1.1, c.1.2) } } : State)))
      = some (b, t) → Spares o t := by
    intro b t hb
    obtain ⟨⟨c, u⟩, hc, hd⟩ := Option.map_eq_some_iff.1 hb
    cases hd
    exact Spares.upd (State.content_spares h hc)
  unfold State.fixContent at e
  split at e
  · split at e
    · cases e; exact h
    · exact hm e
  · exact hm e

theorem State.selectCopy_keeps {o : State} {s : State} {absent : Nat} {differ : Nat} (h : Keeps o s) :
    Keeps o (State.selectCopy s absent differ).2 := by
  unfold State.selectCopy
  try dsimp only
  repeat'
    first
    | with_reducible assumption | with_reducible refine Keeps.trans ?_ (State.latchSafe_spares (Spares.refl _)).toKeeps
    | with_reducible apply State.nameLanes_keeps | split

theorem foldl_snd_spares {α β : Type} {o : State} {f : β × State → α → β × State} {xs : List α} :
    ∀ {a : β × State}, Spares o a.2 → (∀ t x, Spares o t.2 → Spares o (f t x).2) → Spares o (xs.foldl f a).2 := by
  induction xs with
  | nil => exact fun h _ => h
  | cons x xs ih => exact fun h k => ih (k _ x h) k

theorem State.injectTx_spares {o : State} {s : State} {ch : Chan} (h : Spares o s) : Spares o (State.injectTx s ch).2 := by
  unfold State.injectTx
  refine foldl_snd_spares h fun a l k => ?_
  split
  · split
    · exact State.takeInject_spares k
    · exact k
  · exact k

theorem State.launch_spares {o : State} {s : State} {ch : Chan} {slot : Nat} {off : Int} {f : Frame} (h : Spares o s) :
    Spares o (State.launch s ch slot off f) := by
  unfold State.launch
  try dsimp only
  repeat'
    first
    | with_reducible assumption | simp only [Spares.upd_iff] | with_reducible apply foldl_spares
    | with_reducible apply State.ingress_spares | with_reducible apply State.snoop_spares | split | intro _

theorem State.tickCore_spares {o : State} {s0 : State} {other : StarCore} {ch : Chan} (h : Spares o s0) :
    Spares o (State.tickCore s0 other ch) := by
  unfold State.tickCore
  try dsimp only
  repeat'
    first
    | with_reducible assumption | simp only [Spares.upd_iff] | with_reducible apply foldl_spares
    | with_reducible apply State.endClaim_spares | with_reducible apply State.endClaims_spares
    | with_reducible apply State.incM_spares | with_reducible apply State.onStar_spares
    | with_reducible apply State.wrM_spares | split | intro _

theorem State.steerCore_spares {o : State} {s : State} {force : Nat} {delta : Int} {ch : Chan} (h : Spares o s) :
    Spares o (State.steerCore s force delta ch) := by
  unfold State.steerCore
  try dsimp only
  repeat'
    first
    | with_reducible assumption | simp only [Spares.upd_iff] | with_reducible apply State.onStar_spares

theorem State.steerCores_spares {o : State} {s : State} (h : Spares o s) : Spares o (State.steerCores s) := by
  unfold State.steerCores
  try dsimp only
  repeat'
    first
    | with_reducible assumption | with_reducible apply State.steerCore_spares | split

theorem State.noteDelta_spares {o : State} {s : State} {th : Option Int × Option Int} (h : Spares o s) :
    Spares o (State.noteDelta s th) := by
  unfold State.noteDelta
  try dsimp only
  repeat'
    first
    | with_reducible assumption | simp only [Spares.upd_iff] | with_reducible apply foldl_spares | split

theorem State.pickDomain_spares {o : State} {s : State} {th : Option Int × Option Int} (h : Spares o s) :
    Spares o (State.pickDomain s th).2.2 := by
  unfold State.pickDomain
  split
  · exact h
  · exact Spares.upd h
  · exact h

theorem State.steerLane_spares {o : State} {s : State} {dom : Nat} {theta : Int} {l : Lane} (h : Spares o s) :
    Spares o (State.steerLane s dom theta l) := by
  unfold State.steerLane
  try dsimp only
  repeat'
    first
    | with_reducible assumption | with_reducible exact LaneSpares.refl _ | simp only [Spares.upd_iff]
    | with_reducible apply onLane_spares | with_reducible apply State.inc_spares
    | with_reducible apply State.steer_spares | with_reducible apply State.wr_spares | split | intro _
    | with_reducible apply LaneSpares.upd

theorem State.steer_spares {o : State} {s0 : State} (h : Spares o s0) : Spares o (State.steer s0) := by
  unfold State.steer
  try dsimp only
  repeat'
    first
    | with_reducible assumption | simp only [Spares.upd_iff] | with_reducible apply foldl_spares
    | with_reducible apply State.event_spares | with_reducible apply State.noteDelta_spares
    | with_reducible apply State.pickDomain_spares | with_reducible apply State.steerCores_spares
    | with_reducible apply State.steerLane_spares | split | intro _

theorem State.compareTime_spares {o : State} {s : State} (h : Spares o s) : Spares o (State.compareTime s) := by
  unfold State.compareTime
  try dsimp only
  repeat'
    first
    | with_reducible assumption | simp only [Spares.upd_iff] | with_reducible apply foldl_spares
    | with_reducible apply State.event_spares | with_reducible apply State.wr_spares | split | intro _

theorem State.slewLag_spares {o : State} {s : State} (h : Spares o s) : Spares o (State.slewLag s) := by
  unfold State.slewLag
  try dsimp only
  repeat'
    first
    | with_reducible assumption | simp only [Spares.upd_iff] | split

theorem State.becomeActive_spares {o : State} {s : State} (h : Spares o s) : Spares o (State.becomeActive s) := by
  unfold State.becomeActive
  try dsimp only
  repeat'
    first
    | with_reducible assumption | simp only [Spares.upd_iff] | with_reducible apply State.compareTime_spares
    | with_reducible apply State.wrM_spares

theorem State.tickProtocol_spares {o : State} {s : State} (h : Spares o s) : Spares o (State.tickProtocol s) := by
  unfold State.tickProtocol
  try dsimp only
  repeat'
    first
    | with_reducible assumption | simp only [Spares.upd_iff] | with_reducible apply State.becomeActive_spares
    | with_reducible apply State.wrM_spares | split

theorem State.tickIntegration_spares {o : State} {s : State} (h : Spares o s) : Spares o (State.tickIntegration s) := by
  unfold State.tickIntegration
  try dsimp only
  repeat'
    first
    | with_reducible assumption | simp only [Spares.upd_iff] | with_reducible apply State.event_spares
    | with_reducible apply State.wrM_spares | split

theorem State.swapSync_spares {o : State} {s : State} (h : Spares o s) : Spares o (State.swapSync s) := by
  unfold State.swapSync
  try dsimp only
  repeat'
    first
    | with_reducible assumption | simp only [Spares.upd_iff] | with_reducible apply State.event_spares
    | with_reducible apply State.wrM_spares | split

theorem State.countTicks_spares {o : State} {s : State} {ticks : List (Lane × PmcTick)} (h : Spares o s) :
    Spares o (State.countTicks s ticks) := by
  unfold State.countTicks
  try dsimp only
  repeat'
    first
    | with_reducible assumption | with_reducible apply foldl_spares | with_reducible apply State.pmcMany_spares | split
    | intro _

theorem State.foldXle_spares {o : State} {s : State} (h : Spares o s) : Spares o (State.foldXle s) := by
  unfold State.foldXle
  try dsimp only
  repeat'
    first
    | with_reducible assumption | with_reducible apply foldl_spares | with_reducible apply State.drawn_spares
    | with_reducible apply State.wr_spares | split | intro _

end Sys2Proof.Machine
end

