-- ==== Sys2Proof/Laws/FramePower.lean ====
section
/-! SUPPORT. Laws/FramePower.lean: what the operations of Machine/Power.lean keep. -/
namespace Sys2Proof.Machine

theorem State.onPower_spares {o : State} {s : State} {f : Power → Power} (h : Spares o s) :
    Spares o (State.onPower s f) := by
  unfold State.onPower
  try dsimp only
  repeat'
    first
    | with_reducible assumption | simp only [Spares.upd_iff]

theorem State.showVin_spares {o : State} {s : State} {vin : Int} (h : Spares o s) : Spares o (State.showVin s vin) := by
  unfold State.showVin
  try dsimp only
  repeat'
    first
    | with_reducible assumption | with_reducible apply State.wrM_spares

theorem State.dropStamp_spares {o : State} {s : State} {x : Stamp} (h : Spares o s) :
    Spares o (State.dropStamp s x) := by
  unfold State.dropStamp
  try dsimp only
  repeat'
    first
    | with_reducible assumption | simp only [Spares.upd_iff] | with_reducible apply State.onPower_spares
    | with_reducible apply State.wr_spares | split

theorem State.requestStamp_spares {o : State} {s : State} {l : Lane} {v : Word} (h : Spares o s) :
    Spares o (State.requestStamp s l v) := by
  unfold State.requestStamp
  try dsimp only
  repeat'
    first
    | with_reducible assumption | simp only [Spares.upd_iff] | with_reducible apply State.onPower_spares | split

theorem State.releaseStamp_spares {o : State} {s : State} {l : Lane} {tag : Nat} (h : Spares o s) :
    Spares o (State.releaseStamp s l tag) := by
  unfold State.releaseStamp
  try dsimp only
  repeat'
    first
    | with_reducible assumption | with_reducible apply State.dropStamp_spares | split

theorem State.writeStampReq_spares {o : State} {s : State} {l : Lane} {v : Word} (h : Spares o s) :
    Spares o (State.writeStampReq s l v) := by
  unfold State.writeStampReq
  try dsimp only
  repeat'
    first
    | with_reducible assumption | with_reducible apply State.releaseStamp_spares
    | with_reducible apply State.requestStamp_spares | split

theorem State.grantStamp_spares {o : State} {s : State} {x : Stamp} (h : Spares o s) :
    Spares o (State.grantStamp s x) := by
  unfold State.grantStamp
  try dsimp only
  repeat'
    first
    | with_reducible assumption | simp only [Spares.upd_iff] | with_reducible apply foldl_spares
    | with_reducible apply State.onPower_spares | with_reducible apply State.raise_spares
    | with_reducible apply State.wr_spares | split | intro _

theorem State.withdrawFlash_spares {o : State} {s : State} (h : Spares o s) : Spares o (State.withdrawFlash s) := by
  unfold State.withdrawFlash
  try dsimp only
  repeat'
    first
    | with_reducible assumption | with_reducible apply foldl_spares | with_reducible apply State.dropStamp_spares
    | with_reducible apply State.eventL_spares | with_reducible apply State.wr_spares | split | intro _

theorem State.coreOff_spares {o : State} {s : State} {ch : Chan} (h : Spares o s) : Spares o (State.coreOff s ch) := by
  unfold State.coreOff
  try dsimp only
  repeat'
    first
    | with_reducible assumption | simp only [Spares.upd_iff] | with_reducible apply State.onPower_spares
    | with_reducible apply State.onStar_spares | with_reducible apply State.setCoreState_spares

theorem resetLane_ok : resetLane.Ok :=
  ⟨⟨by decide, by decide⟩, ⟨by decide, by decide⟩, rfl, rfl, rfl, by decide⟩

theorem State.loseLane_keeps {o : State} {s : State} {l : Lane} (h : Keeps o s) : Keeps o (State.loseLane s l) := by
  unfold State.loseLane
  extract_lets s1 s2 s3
  have h1 : Keeps o s1 := onLane_keeps h _ _ fun _ => resetLane_ok
  have h2 : Keeps o s2 := by
    refine foldl_keeps h1 fun _ v k => ?_
    split
    · exact k
    · exact k.spares fun k => State.raise_spares (State.wr_spares (State.wr_spares (State.wr_spares k)))
  have h3 : Keeps o s3 := h2.spares fun k => State.revote_spares (State.wrM_spares (State.setSt_spares k))
  refine Keeps.trans ?_ (State.judgeVset_spares (Spares.refl _)).toKeeps
  split
  · exact h3.spares fun k => State.setMode_spares k
  · exact h3

theorem State.powerOn_spares {o : State} {s : State} {n : Nat} (h : Spares o s) : Spares o (State.powerOn s n) := by
  unfold State.powerOn
  try dsimp only
  repeat'
    first
    | with_reducible assumption | with_reducible apply State.setDom_spares | with_reducible apply State.wrM_spares

theorem State.powerOff_spares {o : State} {s : State} {n : Nat} (h : Spares o s) : Spares o (State.powerOff s n) := by
  unfold State.powerOff
  try dsimp only
  repeat'
    first
    | with_reducible assumption | with_reducible apply State.setDom_spares | with_reducible apply State.wrM_spares

theorem State.domainFault_spares {o : State} {s : State} {n : Nat} {reg : Nat} (h : Spares o s) :
    Spares o (State.domainFault s n reg) := by
  unfold State.domainFault
  try dsimp only
  repeat'
    first
    | with_reducible assumption | with_reducible apply State.event_spares | with_reducible apply State.setDom_spares
    | with_reducible apply State.wrM_spares

theorem State.domainsOff_keeps {o : State} {s : State} (h : Keeps o s) : Keeps o (State.domainsOff s) := by
  unfold State.domainsOff
  refine foldl_keeps ?_ fun _ n k => ?_
  · exact ⟨h.pending, fun i => ⟨fun l => by cases l <;> exact resetLane_ok, mapWf_filter _ (h.inv i).modRegs⟩⟩
  · split
    · exact k.spares fun k => State.setDom_spares k
    · exact k

theorem State.failPower_keeps {o : State} {s : State} (h : Keeps o s) : Keeps o (State.failPower s) := by
  unfold State.failPower
  try dsimp only
  repeat'
    first
    | with_reducible assumption | simp only [Keeps.upd_iff] | with_reducible apply State.domainsOff_keeps
    | with_reducible refine Keeps.trans ?_ (State.onPower_spares (Spares.refl _)).toKeeps
    | with_reducible refine Keeps.trans ?_ (State.pendRecord_spares (Spares.refl _)).toKeeps
    | with_reducible refine Keeps.trans ?_ (State.safeOn_spares (Spares.refl _)).toKeeps

theorem State.toStandby_spares {o : State} {s : State} (h : Spares o s) : Spares o (State.toStandby s) := by
  unfold State.toStandby
  try dsimp only
  repeat'
    first
    | with_reducible assumption | simp only [Spares.upd_iff] | with_reducible apply State.onPower_spares

theorem State.showIso_spares {o : State} {s : State} {l : Lane} (h : Spares o s) : Spares o (State.showIso s l) := by
  unfold State.showIso
  try dsimp only
  repeat'
    first
    | with_reducible assumption | with_reducible apply State.wrM_spares

theorem State.setBlockRes_spares {o : State} {s : State} {b : Nat} {v : Nat} (h : Spares o s) :
    Spares o (State.setBlockRes s b v) := by
  unfold State.setBlockRes
  try dsimp only
  repeat'
    first
    | with_reducible assumption | with_reducible apply State.wrM_spares

theorem State.notApplicable_spares {o : State} {s : State} (h : Spares o s) : Spares o (State.notApplicable s) := by
  unfold State.notApplicable
  try dsimp only
  repeat'
    first
    | with_reducible assumption | with_reducible apply State.setBlockRes_spares | split

theorem State.startFails_spares {o : State} {s : State} {step : Nat} (h : Spares o s) :
    Spares o (State.startFails s step) := by
  unfold State.startFails
  try dsimp only
  repeat'
    first
    | with_reducible assumption | simp only [Spares.upd_iff] | with_reducible apply State.event_spares
    | with_reducible apply State.onPower_spares | with_reducible apply State.safeOn_spares

theorem State.markUnusable_keeps {o : State} {s : State} {b : Nat} (h : Keeps o s) : Keeps o (State.markUnusable s b) := by
  unfold State.markUnusable
  split
  · exact h
  · extract_lets s1
    have h1 : Keeps o s1 := h.spares fun k => State.wrM_spares k
    split
    · rename_i l _
      extract_lets s2
      have h2 : Keeps o s2 := (State.loseLane_keeps h1).spares fun k => State.powerOff_spares k
      split
      · exact h2.spares fun k => State.startFails_spares k
      · exact h2
    · split
      · exact h1.spares fun k => State.coreOff_spares k
      · exact h1.spares fun k => State.coreOff_spares k
      · exact Keeps.upd h1
      · exact h1.spares fun k => State.startFails_spares k

theorem State.blockDone_spares {o : State} {s : State} {b : Nat} {v : Nat} (h : Spares o s) :
    Spares o (State.blockDone s b v) := by
  unfold State.blockDone
  try dsimp only
  repeat'
    first
    | with_reducible assumption | simp only [Spares.upd_iff] | with_reducible apply State.onPower_spares
    | with_reducible apply State.setBlockRes_spares | with_reducible apply State.wrM_spares | split

theorem State.applyDomCtrl_keeps {o : State} {s : State} {v : Word} (h : Keeps o s) : Keeps o (State.applyDomCtrl s v) := by
  unfold State.applyDomCtrl
  extract_lets sh on old lane s1
  have h1 : Keeps o s1 := by
    clear_value lane
    simp only [s1]
    split
    · exact h
    · split
      · split
        · exact (State.loseLane_keeps (h.spares fun k => State.wrM_spares k)).spares fun k => State.setDom_spares k
        · exact h.spares fun k => State.incM_spares k
      · exact h.spares fun k => State.incM_spares k
  split
  · exact h1
  · split
    · exact h1.spares fun k => State.event_spares k
    · exact h1.spares fun k => State.onPower_spares k

theorem State.applyBudget_spares {o : State} {s : State} {v : Word} (h : Spares o s) :
    Spares o (State.applyBudget s v) := by
  unfold State.applyBudget
  try dsimp only
  repeat'
    first
    | with_reducible assumption | with_reducible apply State.event_spares | with_reducible apply State.wrM_spares
    | split

theorem State.burnFuses_spares {o : State} {results : Nat} {s : State} {l : Lane} (h : Spares o s) :
    Spares o (State.burnFuses results s l) := by
  unfold State.burnFuses
  try dsimp only
  repeat'
    first
    | with_reducible assumption | simp only [Spares.upd_iff] | with_reducible apply foldl_spares
    | with_reducible apply State.pendRecord_spares | split | intro _

theorem State.closeStore_spares {o : State} {s : State} (h : Spares o s) : Spares o (State.closeStore s) := by
  unfold State.closeStore
  try dsimp only
  repeat'
    first
    | with_reducible assumption | simp only [Spares.upd_iff] | with_reducible apply foldl_spares
    | with_reducible apply State.limitRec_spares | with_reducible apply State.onLog_spares
    | with_reducible apply State.submit_spares

end Sys2Proof.Machine
end

