-- ==== Sys2Proof/Laws/FrameTime.lean ====
section
/-! SUPPORT. Laws/FrameTime.lean: what the operations of Machine/Time.lean keep. -/
namespace Sys2Proof.Machine

theorem State.onLink_spares {o : State} {s : State} {ch : Chan} {port : Nat} {f : LinkMeas → LinkMeas}
    (h : Spares o s) :
    Spares o (State.onLink s ch port f) := by
  unfold State.onLink
  try dsimp only
  repeat'
    first
    | with_reducible assumption | simp only [Spares.upd_iff] | with_reducible apply State.onStar_spares

theorem State.measure_spares {o : State} {s : State} {ch : Chan} {port : Nat} {d2 : Int} (h : Spares o s) :
    Spares o (State.measure s ch port d2) := by
  unfold State.measure
  try dsimp only
  repeat'
    first
    | with_reducible assumption | simp only [Spares.upd_iff] | with_reducible apply foldl_spares
    | with_reducible apply State.event_spares | with_reducible apply State.inc_spares
    | with_reducible apply State.onLink_spares | with_reducible apply State.wrM_spares | split | intro _

theorem State.setExternal_spares {o : State} {s : State} {t : Nat} {off : Int} {rate : Int} {src : Nat}
    (h : Spares o s) :
    Spares o (State.setExternal s t off rate src) := by
  unfold State.setExternal
  try dsimp only
  repeat'
    first
    | with_reducible assumption | simp only [Spares.upd_iff] | with_reducible apply State.wrAll_spares
    | with_reducible apply State.wrM_spares

theorem State.acceptEdge_spares {o : State} {s : State} {t : Nat} (h : Spares o s) :
    Spares o (State.acceptEdge s t) := by
  unfold State.acceptEdge
  try dsimp only
  repeat'
    first
    | with_reducible assumption | simp only [Spares.upd_iff] | with_reducible apply State.event_spares
    | with_reducible apply State.setExternal_spares | with_reducible apply State.wrM_spares | split

theorem State.writeTimExt_spares {o : State} {s : State} {v : Word} (h : Spares o s) :
    Spares o (State.writeTimExt s v) := by
  unfold State.writeTimExt
  try dsimp only
  repeat'
    first
    | with_reducible assumption | simp only [Spares.upd_iff] | split

end Sys2Proof.Machine
end

