-- ==== Sys2Proof/Laws/FrameChange.lean ====
section
/-! SUPPORT. Laws/FrameChange.lean: what the operations of Machine/Change.lean keep. -/
namespace Sys2Proof.Machine

theorem State.postWord_keeps {o : State} {s : State} {l : Lane} {t : TaskImage} {a : Nat} {d : Nat} {r : Ref} {n : Nat} (h : Keeps o s)
   :
    Keeps o (State.postWord s l t a d r n) := by
  unfold State.postWord
  try dsimp only
  repeat'
    first
    | with_reducible assumption | with_reducible apply State.writeWord_keeps

theorem State.writeTask_keeps {o : State} {s : State} {l : Lane} {t : TaskImage} {a : Nat} {d : Nat} {ws : List
    (Ref × Nat)} (h : Keeps o s) :
    Keeps o (State.writeTask s l t a d ws) := by
  unfold State.writeTask
  try dsimp only
  repeat'
    first
    | with_reducible assumption | with_reducible apply foldl_keeps | with_reducible apply State.postWord_keeps
    | with_reducible refine Keeps.trans ?_ (State.wr_spares (Spares.refl _)).toKeeps | split | intro _

theorem State.loadLogic_keeps {o : State} {s : State} {l : Lane} {b : StationBody} (h : Keeps o s) :
    Keeps o (State.loadLogic s l b) := by
  unfold State.loadLogic
  refine foldl_keeps h fun _ t k => foldl_keeps k fun _ w k => State.breakResv_keeps (onLane_keeps k _ _ ?_)
  exact fun i => LaneState.putWord_keeps i

theorem State.mendPages_keeps {o : State} {s : State} {l : Lane} {b : StationBody} (h : Keeps o s) :
    Keeps o (State.mendPages s l b) := by
  unfold State.mendPages
  try dsimp only
  repeat'
    first
    | with_reducible assumption | with_reducible exact LaneKeeps.upd | with_reducible apply onLane_keeps
    | with_reducible apply foldl_keeps | with_reducible apply State.breakResv_keeps
    | with_reducible apply LaneState.putWord_keeps | split | intro _

theorem State.mendSlots_keeps {o : State} {s : State} {l : Lane} (h : Keeps o s) : Keeps o (State.mendSlots s l) := by
  unfold State.mendSlots
  try dsimp only
  repeat'
    first
    | with_reducible assumption | with_reducible apply State.mendPages_keeps | split

theorem State.swapSlots_spares {o : State} {s : State} (h : Spares o s) : Spares o (State.swapSlots s) := by
  unfold State.swapSlots
  try dsimp only
  repeat'
    first
    | with_reducible assumption | with_reducible exact LaneSpares.refl _ | simp only [Spares.upd_iff]
    | with_reducible apply onLane_spares | with_reducible apply foldl_spares
    | with_reducible apply State.judgeClaim47_spares | split | intro _ | with_reducible apply LaneSpares.upd

theorem State.keepOnly_spares {o : State} {s : State} {new : StationBody} {keep : List TaskImage} (h : Spares o s) :
    Spares o (State.keepOnly s new keep) := by
  unfold State.keepOnly
  try dsimp only
  repeat'
    first
    | with_reducible assumption | simp only [Spares.upd_iff]

theorem State.writeConverted_keeps {o : State} {s : State} {old : StationBody} {new : StationBody} {kc : Nat}
    (h : Keeps o s) :
    Keeps o (State.writeConverted s old new kc) := by
  unfold State.writeConverted
  try dsimp only
  repeat'
    first
    | with_reducible assumption | with_reducible apply foldl_keeps | with_reducible apply State.writeTask_keeps | split
    | intro _

theorem State.convert_keeps {o : State} {s0 : State} {kc : Nat} (h : Keeps o s0) : Keeps o (State.convert s0 kc) := by
  unfold State.convert
  split
  · extract_lets s s1 keep s2
    have h1 : Keeps o s := State.readState_keeps h
    have h2 : Keeps o s1 := (State.writeConverted_keeps h1).spares fun k => foldl_spares k fun _ _ k => State.event_spares k
    have h3 : Keeps o s2 := h2.spares fun k => State.keepOnly_spares (State.swapSlots_spares k)
    clear_value s2
    exact (onLanes_keeps h3 _ fun x => LaneKeeps.upd).spares fun k => State.event_spares (State.wrM_spares k)
  · exact h

theorem State.setStage_spares {o : State} {s : State} {v : Nat} (h : Spares o s) : Spares o (State.setStage s v) := by
  unfold State.setStage
  try dsimp only
  repeat'
    first
    | with_reducible assumption | with_reducible apply State.wrM_spares

theorem State.onUpd_spares {o : State} {s : State} {f : Upd → Upd} (h : Spares o s) : Spares o (State.onUpd s f) := by
  unfold State.onUpd
  try dsimp only
  repeat'
    first
    | with_reducible assumption | simp only [Spares.upd_iff]

theorem State.startLoad_spares {o : State} {s : State} (h : Spares o s) : Spares o (State.startLoad s) := by
  unfold State.startLoad
  try dsimp only
  repeat'
    first
    | with_reducible assumption | simp only [Spares.upd_iff] | with_reducible apply State.onUpd_spares
    | with_reducible apply State.setStage_spares | split

theorem State.commitChange_spares {o : State} {s : State} {alone : Bool} (h : Spares o s) :
    Spares o (State.commitChange s alone) := by
  unfold State.commitChange
  try dsimp only
  repeat'
    first
    | with_reducible assumption | simp only [Spares.upd_iff] | with_reducible apply State.event_spares
    | with_reducible apply State.onUpd_spares | with_reducible apply State.setStage_spares
    | with_reducible apply State.wrM_spares

theorem State.tryCommit_spares {o : State} {s : State} (h : Spares o s) : Spares o (State.tryCommit s) := by
  unfold State.tryCommit
  try dsimp only
  repeat'
    first
    | with_reducible assumption | with_reducible apply State.commitChange_spares
    | with_reducible apply State.event_spares | split

theorem State.abandon_spares {o : State} {s : State} {code : Nat} {data : List Nat} (h : Spares o s) :
    Spares o (State.abandon s code data) := by
  unfold State.abandon
  try dsimp only
  repeat'
    first
    | with_reducible assumption | simp only [Spares.upd_iff] | with_reducible apply State.event_spares
    | with_reducible apply State.onUpd_spares | with_reducible apply State.setStage_spares
    | with_reducible apply State.wrM_spares | split

theorem State.writeUpdCtrl_spares {o : State} {s : State} {l : Lane} {v : Word} (h : Spares o s) :
    Spares o (State.writeUpdCtrl s l v) := by
  unfold State.writeUpdCtrl
  try dsimp only
  repeat'
    first
    | with_reducible assumption | with_reducible apply State.abandon_spares
    | with_reducible apply State.startLoad_spares | with_reducible apply State.tryCommit_spares
    | with_reducible apply State.wr_spares | split

theorem State.judgeGuards_spares {o : State} {s : State} (h : Spares o s) : Spares o (State.judgeGuards s) := by
  unfold State.judgeGuards
  try dsimp only
  repeat'
    first
    | with_reducible assumption | simp only [Spares.upd_iff] | with_reducible apply State.onUpd_spares
    | with_reducible apply State.wrM_spares | split

end Sys2Proof.Machine
end

