-- ==== Sys2Proof/Laws/FrameScrub.lean ====
section
/-! SUPPORT. Laws/FrameScrub.lean: what the operations of Machine/Scrub.lean keep. -/
namespace Sys2Proof.Machine

theorem State.scrubHit_spares {o : State} {s : State} {l : Lane} {a : Nat} (h : Spares o s) :
    Spares o (State.scrubHit s l a) := by
  unfold State.scrubHit
  try dsimp only
  repeat'
    first
    | with_reducible assumption | with_reducible exact LaneSpares.refl _ | simp only [Spares.upd_iff]
    | with_reducible apply onLane_spares | with_reducible apply State.candidate_spares | split | intro _
    | with_reducible apply LaneSpares.upd

theorem State.scrubWord_keeps {o : State} {s : State} {l : Lane} {a : Nat} (h : Keeps o s) : Keeps o (State.scrubWord s l a) := by
  unfold State.scrubWord
  extract_lets hit s1
  have h1 : Keeps o s1 := State.readMem_keeps h
  split
  · exact h1.spares fun k => State.scrubHit_spares k
  · exact h1

theorem LaneState.passEnd_spares {o : LaneState} {x : LaneState} {m : Nat} (h : LaneSpares o x) :
    LaneSpares o (LaneState.passEnd x m) := by
  unfold LaneState.passEnd
  try dsimp only
  repeat'
    first
    | with_reducible assumption | with_reducible exact LaneSpares.refl _ | split | intro _
    | with_reducible apply LaneSpares.upd

theorem State.scrubRun_keeps {o : State} {l : Lane} {n : Nat} :
    ∀ {s : State} {a free : Nat}, Keeps o s → Keeps o (State.scrubRun s l a free n).1 := by
  induction n with
  | zero => exact fun h => h
  | succ n ih =>
    intro s a free h
    unfold State.scrubRun
    split
    · split
      · exact h
      · exact ih (State.scrubWord_keeps h)
    · exact ih (State.scrubWord_keeps h)

theorem State.judgePace_spares {o : State} {s : State} {l : Lane} (h : Spares o s) : Spares o (State.judgePace s l) := by
  unfold State.judgePace
  try dsimp only
  repeat'
    first
    | with_reducible assumption | with_reducible apply State.eventL_spares | with_reducible apply State.wr_spares
    | split

end Sys2Proof.Machine
end

