-- ==== Sys2Proof/Laws/FrameAgree.lean ====
section
/-! SUPPORT. Laws/FrameAgree.lean: what the operations of Machine/Agree.lean keep. -/
namespace Sys2Proof.Machine

theorem State.writeChange_keeps {o : State} {s : State} {l : Lane} {t : Nat} {changed : List Ref} (h : Keeps o s) :
    Keeps o (State.writeChange s l t changed) := by
  unfold State.writeChange
  try dsimp only
  repeat'
    first
    | with_reducible assumption | with_reducible apply State.writeWord_keeps | split

theorem State.postTask_keeps {o : State} {s : State} {l : Lane} {t : TaskImage} {ws : List (Ref × Nat)} {changed : List Ref}
    (h : Keeps o s) : Keeps o (State.postTask s l t ws changed) := by
  unfold State.postTask
  extract_lets d s1
  have h1 : Keeps o s1 := foldl_keeps h fun _ _ k => State.postWord_keeps k
  exact State.writeChange_keeps (onLane_keeps h1 _ _ (LaneState.onTask_spares (LaneSpares.refl _)).ok)

theorem State.noteChange_keeps {o : State} {s : State} {t : Nat} (h : Keeps o s) : Keeps o (State.noteChange s t) := by
  unfold State.noteChange
  try dsimp only
  repeat'
    first
    | with_reducible assumption | with_reducible apply foldl_keeps | with_reducible apply State.writeChange_keeps
    | split | intro _

theorem State.postDue_keeps {o : State} {s : State} {lanes : List Lane} {t : Nat} (h : Keeps o s) :
    Keeps o (State.postDue s lanes t) := by
  unfold State.postDue
  exact Keeps.upd (foldl_keeps h fun _ _ k => State.postTask_keeps k)

end Sys2Proof.Machine
end

