-- ==== Sys2Proof/Laws/FrameSecurity.lean ====
section
/-! SUPPORT. Laws/FrameSecurity.lean: what the operations of Machine/Security.lean keep. -/
namespace Sys2Proof.Machine

theorem State.onSec_spares {o : State} {s : State} {f : Sec → Sec} (h : Spares o s) : Spares o (State.onSec s f) := by
  unfold State.onSec
  try dsimp only
  repeat'
    first
    | with_reducible assumption | simp only [Spares.upd_iff]

theorem State.secChange_spares {o : State} {s : State} {f : State → State} (h : Spares o s)
    (hf : ∀ t, Spares o t → Spares o (f t)) :
    Spares o (State.secChange s f) := by
  unfold State.secChange
  try dsimp only
  repeat'
    first
    | with_reducible assumption | with_reducible apply hf | with_reducible apply foldl_spares
    | with_reducible apply State.raise_spares | split | intro _

theorem State.secChange_keeps {o : State} {s : State} {f : State → State} (h : Keeps o s)
    (hf : ∀ t, Keeps o t → Keeps o (f t)) :
    Keeps o (State.secChange s f) := by
  unfold State.secChange
  try dsimp only
  repeat'
    first
    | with_reducible assumption | with_reducible apply hf | with_reducible apply foldl_keeps
    | with_reducible refine Keeps.trans ?_ (State.raise_spares (Spares.refl _)).toKeeps | split | intro _

theorem State.asOwner_spares {o : State} {s : State} {a : OwnerAuth} {f : State → State} (h : Spares o s)
    (hf : ∀ t, Spares o t → Spares o (f t)) :
    Spares o (State.asOwner s a f) := by
  unfold State.asOwner
  try dsimp only
  repeat'
    first
    | with_reducible assumption | with_reducible apply hf | split

theorem State.asOwner_keeps {o : State} {s : State} {a : OwnerAuth} {f : State → State} (h : Keeps o s)
    (hf : ∀ t, Keeps o t → Keeps o (f t)) :
    Keeps o (State.asOwner s a f) := by
  unfold State.asOwner
  try dsimp only
  repeat'
    first
    | with_reducible assumption | with_reducible apply hf | split

theorem State.setOwnerLock_spares {o : State} {s : State} {v : Nat} (h : Spares o s) :
    Spares o (State.setOwnerLock s v) := by
  unfold State.setOwnerLock
  try dsimp only
  repeat'
    first
    | with_reducible assumption | with_reducible apply State.event_spares | with_reducible apply State.secChange_spares
    | with_reducible apply State.wrM_spares | split | intro _

theorem State.installKey_spares {o : State} {s : State} {p : KeyPackage} (h : Spares o s) :
    Spares o (State.installKey s p).2 := by
  unfold State.installKey
  try dsimp only
  repeat'
    first
    | with_reducible assumption | simp only [Spares.upd_iff] | with_reducible apply State.event_spares
    | with_reducible apply State.onSec_spares | with_reducible apply State.secChange_spares
    | with_reducible apply State.wrM_spares | split | intro _

theorem State.zeroizeIfTampered_spares {o : State} {s : State} (h : Spares o s) :
    Spares o (State.zeroizeIfTampered s) := by
  unfold State.zeroizeIfTampered
  try dsimp only
  repeat'
    first
    | with_reducible assumption | simp only [Spares.upd_iff] | with_reducible apply State.event_spares
    | with_reducible apply State.onSec_spares | with_reducible apply State.secChange_spares
    | with_reducible apply State.wrM_spares | split | intro _

theorem State.countStart_spares {o : State} {s : State} (h : Spares o s) : Spares o (State.countStart s) := by
  unfold State.countStart
  try dsimp only
  repeat'
    first
    | with_reducible assumption | simp only [Spares.upd_iff] | with_reducible apply State.event_spares
    | with_reducible apply State.onSec_spares | split

theorem State.mailbox_spares {o : State} {s : State} {l : Lane} {cmd addr len : Nat} {f : State → Nat × List Nat × State}
    (h : Spares o s) (hf : ∀ t, Spares o t → Spares o (f t).2.2) : Spares o (State.mailbox s l cmd addr len f) := by
  unfold State.mailbox
  split
  · exact h
  · extract_lets r s1
    have hr : Spares o r.2.2 := by
      simp only [r]
      split
      · exact h
      · exact hf _ h
    have h1 : Spares o s1 := onLane_spares hr _ _ (LaneSpares.upd (LaneSpares.refl _))
    exact State.wr_spares (State.wr_spares h1)

theorem State.mailbox_keeps {o : State} {s : State} {l : Lane} {cmd addr len : Nat} {f : State → Nat × List Nat × State}
    (h : Keeps o s) (hf : ∀ t, Keeps o t → Keeps o (f t).2.2) : Keeps o (State.mailbox s l cmd addr len f) := by
  unfold State.mailbox
  split
  · exact h
  · extract_lets r s1
    have hr : Keeps o r.2.2 := by
      simp only [r]
      split
      · exact h
      · exact hf _ h
    have h1 : Keeps o s1 := onLane_keeps hr _ _ LaneKeeps.upd
    exact h1.spares fun k => State.wr_spares (State.wr_spares k)

theorem State.readBuffer_keeps {o : State} {s : State} {l : Lane} {addr len : Nat} (h : Keeps o s) :
    Keeps o (State.readBuffer s l addr len).2 := State.readWords_keeps h

theorem State.overBuffer_keeps {o : State} {s : State} {l : Lane} {addr len : Nat} {f : List Nat → State → Nat × List Nat × State}
    (h : Keeps o s) (hf : ∀ bs t, Keeps o t → Keeps o (f bs t).2.2) : Keeps o (State.overBuffer s l addr len f).2.2 := by
  have h1 : Keeps o (s.readBuffer l addr len).2 := State.readBuffer_keeps h
  unfold State.overBuffer
  generalize s.readBuffer l addr len = x at h1 ⊢
  obtain ⟨_ | bs, t⟩ := x
  · exact h1
  · exact hf _ _ h1

theorem fitting_spares {o : State} {len : Nat} {bs : List Nat} {s : State} (h : Spares o s) :
    Spares o (fitting len bs s).2.2 := by
  unfold fitting
  try dsimp only
  repeat'
    first
    | with_reducible assumption | split

theorem State.putResponse_keeps {o : State} {s : State} {l : Lane} {addr : Nat} {bs : List Nat} (h : Keeps o s) :
    Keeps o (State.putResponse s l addr bs) := by
  unfold State.putResponse
  try dsimp only
  repeat'
    first
    | with_reducible assumption | with_reducible apply foldl_keeps | with_reducible apply State.writeWord_keeps | split
    | intro _

theorem State.mbCert_spares {o : State} {l : Lane} {addr len : Nat} {s : State} (h : Spares o s) :
    Spares o (State.mbCert l addr len s) := State.mailbox_spares h fun _ k => fitting_spares k

theorem State.mbAttest_keeps {o : State} {l : Lane} {addr len : Nat} {s : State} (h : Keeps o s) :
    Keeps o (State.mbAttest l addr len s) := by
  refine State.mailbox_keeps h fun t k => ?_
  split
  · exact k
  · exact State.overBuffer_keeps k fun _ _ k => k.spares fun k => fitting_spares k

theorem State.mbSeal_keeps {o : State} {l : Lane} {addr len : Nat} {conn : Option Nat} {s : State} (h : Keeps o s) :
    Keeps o (State.mbSeal l addr len conn s) := by
  refine State.mailbox_keeps h fun t k => ?_
  split
  · exact k
  · refine State.overBuffer_keeps k fun _ t k => ?_
    split
    · exact k
    · split
      · exact k.spares fun k => fitting_spares k
      · exact k

theorem State.mbOpen_keeps {o : State} {l : Lane} {addr len : Nat} {s : State} (h : Keeps o s) :
    Keeps o (State.mbOpen l addr len s) := by
  refine State.mailbox_keeps h fun t k => ?_
  split
  · exact k
  · split
    · exact k
    · refine State.overBuffer_keeps k fun _ t k => ?_
      split <;> exact k

theorem State.mbLog_spares {o : State} {l : Lane} {addr len : Nat} {req : LogReq} {s : State} (h : Spares o s) :
    Spares o (State.mbLog l addr len req s) := by
  refine State.mailbox_spares h fun t k => ?_
  split
  · exact State.submitNext_spares k
  · split
    · exact State.submit_spares k
    · exact k
  · split <;> exact k

theorem State.placeImage_spares {o : State} {s : State} {i : Image} (h : Spares o s) : Spares o (State.placeImage s i) := by
  unfold State.placeImage
  split
  · exact State.setStage_spares (State.onUpd_spares h)
  · exact State.onSec_spares h
  · split
    · exact h
    · exact State.event_spares (onLanes_spares (State.onSec_spares h) _ fun x => LaneSpares.upd (LaneSpares.refl _))
  · exact h

theorem State.mbCheck_spares {o : State} {l : Lane} {addr len : Nat} {img : Image} {s : State} (h : Spares o s) :
    Spares o (State.mbCheck l addr len img s) := by
  refine State.mailbox_spares h fun t k => ?_
  extract_lets res s1
  clear_value res
  dsimp only
  split
  · exact State.placeImage_spares (State.checked_spares k)
  · exact State.checked_spares k

theorem State.mbApply_spares {o : State} {l : Lane} {addr len : Nat} {img : Image} {s : State} (h : Spares o s) :
    Spares o (State.mbApply l addr len img s) := by
  refine State.mailbox_spares h fun t k => ?_
  split
  · exact k
  · extract_lets res s1
    clear_value res
    dsimp only
    split
    · exact State.checked_spares k
    · split
      · exact State.startLoad_spares (State.event_spares (State.placeImage_spares (State.checked_spares k)))
      · exact State.event_spares (State.placeImage_spares (State.checked_spares k))

theorem State.writeMbox_keeps {o : State} {s : State} {l : Lane} {v : Word} (h : Keeps o s) :
    Keeps o (State.writeMbox s l v) := by
  unfold State.writeMbox
  dsimp only
  split
  · exact h.spares fun k => State.mbCert_spares k
  · exact State.mbAttest_keeps h
  · exact State.mbSeal_keeps h
  · exact State.mbOpen_keeps h
  · exact h.spares fun k => State.mbLog_spares k
  · split
    · exact State.mailbox_keeps h fun _ k => k
    · exact State.mailbox_keeps h fun _ k => k.spares fun k => State.drawn_spares k

end Sys2Proof.Machine
end

