-- ==== Sys2Proof/Laws/FrameOutput.lean ====
section
/-! SUPPORT. Laws/FrameOutput.lean: what the operations of Machine/Output.lean keep. -/
namespace Sys2Proof.Machine

theorem State.cancelLook_keeps {o : State} {s : State} {l : Lane} (h : Keeps o s) : Keeps o (State.cancelLook s l) := by
  unfold State.cancelLook
  try dsimp only
  repeat'
    first
    | with_reducible assumption | with_reducible apply foldl_keeps | with_reducible apply State.endHeld_keeps | split
    | intro _

theorem State.noteFresh_spares {o : State} {s : State} {fresh : List Nat} (h : Spares o s) :
    Spares o (State.noteFresh s fresh) := by
  unfold State.noteFresh
  try dsimp only
  repeat'
    first
    | with_reducible assumption | simp only [Spares.upd_iff] | with_reducible apply foldl_spares | split

theorem State.freshen_spares {o : State} {s : State} {t : Nat} (h : Spares o s) : Spares o (State.freshen s t) := by
  unfold State.freshen
  exact Spares.upd (State.wrM_spares (State.setConsec_spares h))

theorem State.requestGroup_spares {o : State} {s : State} {g : Nat} (h : Spares o s) :
    Spares o (State.requestGroup s g) := by
  unfold State.requestGroup
  try dsimp only
  repeat'
    first
    | with_reducible assumption | with_reducible apply foldl_spares | with_reducible apply State.requestStamp_spares
    | split | intro _

theorem State.dispatchOutputs_spares {o : State} {s0 : State} {fresh : List Nat} (h : Spares o s0) :
    Spares o (State.dispatchOutputs s0 fresh) := by
  unfold State.dispatchOutputs
  try dsimp only
  repeat'
    first
    | with_reducible assumption | simp only [Spares.upd_iff] | with_reducible apply foldl_spares
    | with_reducible apply State.requestGroup_spares | with_reducible apply State.votedWrite_spares
    | with_reducible apply State.writeLen_spares | split | intro _

end Sys2Proof.Machine
end

