-- ==== Sys2Proof/Laws/FrameTwin.lean ====
section
/-! SUPPORT. Laws/FrameTwin.lean: what the operations of Machine/Twin.lean keep. -/
namespace Sys2Proof.Machine

theorem State.setTw_spares {o : State} {s : State} {v : Nat} (h : Spares o s) : Spares o (State.setTw s v) := by
  unfold State.setTw
  try dsimp only
  repeat'
    first
    | with_reducible assumption | with_reducible apply State.wrM_spares

theorem State.onTwin_spares {o : State} {s : State} {f : Twin → Twin} (h : Spares o s) :
    Spares o (State.onTwin s f) := by
  unfold State.onTwin
  try dsimp only
  repeat'
    first
    | with_reducible assumption | simp only [Spares.upd_iff]

theorem State.becomeLead_spares {o : State} {s : State} (h : Spares o s) : Spares o (State.becomeLead s) := by
  unfold State.becomeLead
  try dsimp only
  repeat'
    first
    | with_reducible assumption | with_reducible apply State.wrAll_spares | with_reducible apply State.wrM_spares

theorem State.loseLead_spares {o : State} {s : State} {role : Nat} (h : Spares o s) :
    Spares o (State.loseLead s role) := by
  unfold State.loseLead
  try dsimp only
  repeat'
    first
    | with_reducible assumption | with_reducible apply State.wrAll_spares | with_reducible apply State.wrM_spares

theorem State.runAlone_spares {o : State} {s : State} (h : Spares o s) : Spares o (State.runAlone s) := by
  unfold State.runAlone
  try dsimp only
  repeat'
    first
    | with_reducible assumption | simp only [Spares.upd_iff] | with_reducible apply State.becomeLead_spares
    | with_reducible apply State.event_spares | with_reducible apply State.onTwin_spares
    | with_reducible apply State.setTw_spares

theorem State.seenTwin_spares {o : State} {s : State} (h : Spares o s) : Spares o (State.seenTwin s) := by
  unfold State.seenTwin
  try dsimp only
  repeat'
    first
    | with_reducible assumption | simp only [Spares.upd_iff] | with_reducible apply State.onTwin_spares

theorem State.restartTransfer_spares {o : State} {s : State} (h : Spares o s) : Spares o (State.restartTransfer s) := by
  unfold State.restartTransfer
  try dsimp only
  repeat'
    first
    | with_reducible assumption | simp only [Spares.upd_iff] | with_reducible apply State.onTwin_spares
    | with_reducible apply State.setTw_spares | with_reducible apply State.wrM_spares

theorem State.transferDone_spares {o : State} {s : State} {t : Nat} (h : Spares o s) :
    Spares o (State.transferDone s t) := by
  unfold State.transferDone
  try dsimp only
  repeat'
    first
    | with_reducible assumption | simp only [Spares.upd_iff] | with_reducible apply State.onTwin_spares
    | with_reducible apply State.setTw_spares | with_reducible apply State.wrM_spares | split

theorem State.refuseHello_spares {o : State} {s : State} {h : Hello} {cause : Nat} (hs : Spares o s) :
    Spares o (State.refuseHello s h cause) := by
  unfold State.refuseHello
  try dsimp only
  repeat'
    first
    | with_reducible assumption | simp only [Spares.upd_iff] | with_reducible apply State.event_spares
    | with_reducible apply State.onTwin_spares | with_reducible apply State.onUpd_spares
    | with_reducible apply State.runAlone_spares | with_reducible apply State.wrM_spares | split

theorem State.withdrawConn_spares {o : State} {s : State} {e : InConn} (h : Spares o s) :
    Spares o (State.withdrawConn s e) := by
  unfold State.withdrawConn
  try dsimp only
  repeat'
    first
    | with_reducible assumption | simp only [Spares.upd_iff] | with_reducible apply State.event_spares
    | with_reducible apply State.incM_spares | with_reducible apply State.setConn_spares | split

theorem State.pairConns_spares {o : State} {s : State} {theirs : List (Bool × Nat)} (h : Spares o s) :
    Spares o (State.pairConns s theirs) := by
  unfold State.pairConns
  try dsimp only
  repeat'
    first
    | with_reducible assumption | with_reducible apply foldl_spares | with_reducible apply State.withdrawConn_spares
    | split | intro _

theorem State.pairInputs_spares {o : State} {s : State} {r : InputRec} (h : Spares o s) :
    Spares o (State.pairInputs s r) := by
  unfold State.pairInputs
  try dsimp only
  repeat'
    first
    | with_reducible assumption | simp only [Spares.upd_iff]

theorem State.repost_keeps {o : State} {s : State} {t : Nat} (h : Keeps o s) : Keeps o (State.repost s t) := by
  unfold State.repost
  try dsimp only
  repeat'
    first
    | with_reducible assumption | simp only [Keeps.upd_iff] | with_reducible apply foldl_keeps
    | with_reducible apply State.postWord_keeps | with_reducible apply State.visit_keeps
    | with_reducible apply State.writeWord_keeps | split | intro _

theorem State.setOutcome_spares {o : State} {s : State} {row : Nat} (h : Spares o s) :
    Spares o (State.setOutcome s row) := by
  unfold State.setOutcome
  try dsimp only
  repeat'
    first
    | with_reducible assumption | simp only [Spares.upd_iff] | with_reducible apply State.onTwin_spares

theorem State.recordsDiffer_spares {o : State} {s : State} {own : CompareRec} {theirs : CompareRec} (h : Spares o s) :
    Spares o (State.recordsDiffer s own theirs) := by
  unfold State.recordsDiffer
  try dsimp only
  repeat'
    first
    | with_reducible assumption | simp only [Spares.upd_iff] | with_reducible apply State.incM_spares
    | with_reducible apply State.onTwin_spares | with_reducible apply State.restartTransfer_spares
    | with_reducible apply State.setOutcome_spares | with_reducible apply State.wrM_spares | split

theorem State.recordsEqual_spares {o : State} {s : State} (h : Spares o s) : Spares o (State.recordsEqual s) := by
  unfold State.recordsEqual
  try dsimp only
  repeat'
    first
    | with_reducible assumption | simp only [Spares.upd_iff] | with_reducible apply State.onTwin_spares
    | with_reducible apply State.wrM_spares

theorem State.compareChange_spares {o : State} {s : State} {own : CompareRec} {theirs : CompareRec} (h : Spares o s) :
    Spares o (State.compareChange s own theirs) := by
  unfold State.compareChange
  try dsimp only
  repeat'
    first
    | with_reducible assumption | simp only [Spares.upd_iff] | with_reducible apply State.abandon_spares
    | with_reducible apply State.incM_spares | with_reducible apply State.onTwin_spares
    | with_reducible apply State.onUpd_spares | with_reducible apply State.recordsEqual_spares
    | with_reducible apply State.wrM_spares | split

theorem State.takeSwap_spares {o : State} {s : State} {theirs : CompareRec} (h : Spares o s) :
    Spares o (State.takeSwap s theirs) := by
  unfold State.takeSwap
  try dsimp only
  repeat'
    first
    | with_reducible assumption | with_reducible apply State.wrM_spares | split

theorem State.decideRecords_spares {o : State} {s0 : State} {own : CompareRec} {theirs : CompareRec} (h : Spares o s0) :
    Spares o (State.decideRecords s0 own theirs) := by
  unfold State.decideRecords
  try dsimp only
  repeat'
    first
    | with_reducible assumption | simp only [Spares.upd_iff] | with_reducible apply State.compareChange_spares
    | with_reducible apply State.onTwin_spares | with_reducible apply State.recordsDiffer_spares
    | with_reducible apply State.recordsEqual_spares | with_reducible apply State.setOutcome_spares
    | with_reducible apply State.takeSwap_spares | with_reducible apply State.wrM_spares | split

theorem State.recordMissing_spares {o : State} {s0 : State} {framesSeen : Bool} (h : Spares o s0) :
    Spares o (State.recordMissing s0 framesSeen) := by
  unfold State.recordMissing
  try dsimp only
  repeat'
    first
    | with_reducible assumption | simp only [Spares.upd_iff] | with_reducible apply State.event_spares
    | with_reducible apply State.incM_spares | with_reducible apply State.onTwin_spares
    | with_reducible apply State.restartTransfer_spares | with_reducible apply State.setOutcome_spares
    | with_reducible apply State.wrM_spares | split

theorem State.exchangeTrails_keeps {o : State} {s : State} (h : Keeps o s) : Keeps o (State.exchangeTrails s) := by
  unfold State.exchangeTrails
  extract_lets l t
  split
  · rename_i u _
    have hu : Keeps o u := foldl_keeps h fun _ _ k => State.visit_keeps k
    split
    · exact hu.spares fun k => State.event_spares (State.wrAll_spares k)
    · exact hu
  · exact h

theorem State.takeExports_spares {o : State} {s : State} {tr : Transfer} (h : Spares o s) :
    Spares o (State.takeExports s tr) := by
  unfold State.takeExports
  try dsimp only
  repeat'
    first
    | with_reducible assumption | simp only [Spares.upd_iff]

theorem State.takeConns_spares {o : State} {s : State} {cs : List ConnCopy} (h : Spares o s) :
    Spares o (State.takeConns s cs) := by
  unfold State.takeConns
  try dsimp only
  repeat'
    first
    | with_reducible assumption | simp only [Spares.upd_iff] | with_reducible apply foldl_spares
    | with_reducible apply State.setConn_spares | split | intro _

theorem State.agreedCopy_keeps {o : State} {s0 : State} {ws : List (Nat × Ref)} (h : Keeps o s0) :
    Keeps o (State.agreedCopy s0 ws).2 := by
  unfold State.agreedCopy
  try dsimp only
  repeat'
    first
    | with_reducible assumption | with_reducible apply State.readState_keeps
    | with_reducible apply State.selectCopy_keeps

theorem State.sendTransfer_keeps {o : State} {s0 : State} {t : Nat} (h : Keeps o s0) : Keeps o (State.sendTransfer s0 t) := by
  have h1 := State.agreedCopy_keeps (ws := (copyWords (s0.taskImg t)).map fun r => (t, r)) h
  unfold State.sendTransfer
  generalize s0.agreedCopy ((copyWords (s0.taskImg t)).map fun r => (t, r)) = x at h1 ⊢
  obtain ⟨_ | l, s⟩ := x
  · exact h1
  · exact h1.spares fun k => State.onTwin_spares (State.transferDone_spares k)

theorem State.leadTransfers_keeps {o : State} {s0 : State} (h : Keeps o s0) : Keeps o (State.leadTransfers s0) := by
  unfold State.leadTransfers
  try dsimp only
  repeat'
    first
    | with_reducible assumption | simp only [Keeps.upd_iff]
    | with_reducible refine Keeps.trans ?_ (State.onTwin_spares (Spares.refl _)).toKeeps
    | with_reducible apply State.sendTransfer_keeps
    | with_reducible refine Keeps.trans ?_ (State.setTw_spares (Spares.refl _)).toKeeps | split

theorem State.requestSwap_spares {o : State} {s : State} (h : Spares o s) : Spares o (State.requestSwap s) := by
  unfold State.requestSwap
  try dsimp only
  repeat'
    first
    | with_reducible assumption | simp only [Spares.upd_iff] | with_reducible apply State.onTwin_spares
    | with_reducible apply State.wrM_spares | split

theorem State.detach_spares {o : State} {s : State} (h : Spares o s) : Spares o (State.detach s) := by
  unfold State.detach
  try dsimp only
  repeat'
    first
    | with_reducible assumption | with_reducible apply State.setOutcome_spares | split

theorem State.applyTwinCtrl_spares {o : State} {s : State} {v : Word} (h : Spares o s) :
    Spares o (State.applyTwinCtrl s v) := by
  unfold State.applyTwinCtrl
  try dsimp only
  repeat'
    first
    | with_reducible assumption | with_reducible apply State.detach_spares
    | with_reducible apply State.requestSwap_spares | with_reducible apply State.wrM_spares | split

theorem State.swapBoundary_spares {o : State} {s : State} (h : Spares o s) : Spares o (State.swapBoundary s) := by
  unfold State.swapBoundary
  try dsimp only
  repeat'
    first
    | with_reducible assumption | simp only [Spares.upd_iff] | with_reducible apply State.becomeLead_spares
    | with_reducible apply State.event_spares | with_reducible apply State.loseLead_spares
    | with_reducible apply State.onTwin_spares | with_reducible apply State.wrM_spares | split

theorem State.leavePair_spares {o : State} {s : State} {row : Nat} (h : Spares o s) :
    Spares o (State.leavePair s row) := by
  unfold State.leavePair
  try dsimp only
  repeat'
    first
    | with_reducible assumption | simp only [Spares.upd_iff] | with_reducible apply State.event_spares
    | with_reducible apply State.loseLead_spares | with_reducible apply State.onTwin_spares
    | with_reducible apply State.setTw_spares | with_reducible apply State.wrM_spares | split

theorem State.twinLeft_spares {o : State} {s : State} {row : Nat} (h : Spares o s) :
    Spares o (State.twinLeft s row) := by
  unfold State.twinLeft
  try dsimp only
  repeat'
    first
    | with_reducible assumption | simp only [Spares.upd_iff] | with_reducible apply State.becomeLead_spares
    | with_reducible apply State.event_spares | with_reducible apply State.onTwin_spares
    | with_reducible apply State.setTw_spares | with_reducible apply State.wrM_spares

theorem State.twinAbsent_spares {o : State} {s : State} (h : Spares o s) : Spares o (State.twinAbsent s) := by
  unfold State.twinAbsent
  try dsimp only
  repeat'
    first
    | with_reducible assumption | simp only [Spares.upd_iff] | with_reducible apply State.abandon_spares
    | with_reducible apply State.event_spares | with_reducible apply State.onTwin_spares
    | with_reducible apply State.onUpd_spares | with_reducible apply State.runAlone_spares
    | with_reducible apply State.setStage_spares | with_reducible apply State.twinLeft_spares
    | with_reducible apply State.wrM_spares | split

theorem State.twinOutcome_spares {o : State} {s0 : State} (h : Spares o s0) : Spares o (State.twinOutcome s0) := by
  unfold State.twinOutcome
  try dsimp only
  repeat'
    first
    | with_reducible assumption | simp only [Spares.upd_iff] | with_reducible apply State.abandon_spares
    | with_reducible apply State.leavePair_spares | with_reducible apply State.onTwin_spares
    | with_reducible apply State.twinAbsent_spares | with_reducible apply State.twinLeft_spares | split

theorem State.attachBoundary_spares {o : State} {s : State} {lead : Option (Nat × Nat)} (h : Spares o s) :
    Spares o (State.attachBoundary s lead) := by
  unfold State.attachBoundary
  try dsimp only
  repeat'
    first
    | with_reducible assumption | simp only [Spares.upd_iff] | with_reducible apply setModReg_spares
    | with_reducible apply State.event_spares | with_reducible apply State.loseLead_spares
    | with_reducible apply State.onTwin_spares | with_reducible apply State.restartTransfer_spares
    | with_reducible apply State.setStage_spares | with_reducible apply State.setTw_spares | split

theorem State.twinBoundary_spares {o : State} {s : State} {lead : Option (Nat × Nat)} (h : Spares o s) :
    Spares o (State.twinBoundary s lead) := by
  unfold State.twinBoundary
  try dsimp only
  repeat'
    first
    | with_reducible assumption | simp only [Spares.upd_iff] | with_reducible apply State.attachBoundary_spares
    | with_reducible apply State.requestSwap_spares | with_reducible apply State.swapBoundary_spares
    | with_reducible apply State.twinOutcome_spares | split

theorem State.leadHandover_keeps {o : State} {s0 : State} (h : Keeps o s0) : Keeps o (State.leadHandover s0) := by
  unfold State.leadHandover
  extract_lets s
  have hs : Keeps o s := h.spares fun k => State.onTwin_spares k
  split
  · split
    · extract_lets ws
      have h1 := State.agreedCopy_keeps (ws := (ws.1 ++ ws.2).map fun x => (x.1, x.2.2)) hs
      generalize s.agreedCopy ((ws.1 ++ ws.2).map fun x => (x.1, x.2.2)) = x at h1 ⊢
      obtain ⟨_ | l, s⟩ := x
      · exact h1
      · exact h1.spares fun k => State.onTwin_spares k
    · exact hs
  · exact hs

end Sys2Proof.Machine
end

