-- ==== Sys2Proof/Laws/FrameClose.lean ====
section
/-! SUPPORT. Laws/FrameClose.lean: what the operations of Machine/Close.lean keep. -/
namespace Sys2Proof.Machine

theorem State.applyCoded_spares {o : State} {s : State} {a : Nat} {v : Word} (h : Spares o s) :
    Spares o (State.applyCoded s a v) := by
  unfold State.applyCoded
  try dsimp only
  repeat'
    first
    | with_reducible assumption | with_reducible apply setModReg_spares | split

theorem State.applyStarRole_spares {o : State} {s : State} {ch : Chan} {role : Nat} (h : Spares o s) :
    Spares o (State.applyStarRole s ch role) := by
  unfold State.applyStarRole
  try dsimp only
  repeat'
    first
    | with_reducible assumption | simp only [Spares.upd_iff] | with_reducible apply State.event_spares
    | with_reducible apply State.onStar_spares | with_reducible apply State.setCoreState_spares
    | with_reducible apply State.wrM_spares | split

theorem State.applyStarCtrl_spares {o : State} {s : State} {v : Word} (h : Spares o s) :
    Spares o (State.applyStarCtrl s v) := by
  unfold State.applyStarCtrl
  try dsimp only
  repeat'
    first
    | with_reducible assumption | with_reducible apply State.applyStarRole_spares
    | with_reducible apply State.wrM_spares

theorem State.applyWindow_spares {o : State} {s : State} {v : Word} (h : Spares o s) :
    Spares o (State.applyWindow s v) := by
  unfold State.applyWindow
  try dsimp only
  repeat'
    first
    | with_reducible assumption | with_reducible apply State.applyCoded_spares | split

theorem State.applyPort_spares {o : State} {s : State} {n : Nat} {v : Word} (h : Spares o s) :
    Spares o (State.applyPort s n v) := by
  unfold State.applyPort
  try dsimp only
  repeat'
    first
    | with_reducible assumption | with_reducible apply State.applyCoded_spares

theorem State.applyOutReq_spares {o : State} {s : State} {v : Word} (h : Spares o s) :
    Spares o (State.applyOutReq s v) := by
  unfold State.applyOutReq
  try dsimp only
  repeat'
    first
    | with_reducible assumption | simp only [Spares.upd_iff] | with_reducible apply setModReg_spares

theorem State.applyPulse_spares {o : State} {s : State} {v : Word} (h : Spares o s) :
    Spares o (State.applyPulse s v) := by
  unfold State.applyPulse
  try dsimp only
  repeat'
    first
    | with_reducible assumption | with_reducible apply State.wrM_spares | split

theorem State.applyVoted_keeps {o : State} {s : State} {a : Nat} {v : Word} (h : Keeps o s) :
    Keeps o (State.applyVoted s a v) := by
  unfold State.applyVoted
  split; · exact h.spares fun k => State.applyStarCtrl_spares k
  split; · exact h.spares fun k => State.applyWindow_spares k
  split; · exact h.spares fun k => State.applyPort_spares k
  split; · exact h.spares fun k => State.applyTwinCtrl_spares k
  split
  · split
    · exact h.spares fun k => State.applyCoded_spares k
    · exact h
  split; · exact State.applyDomCtrl_keeps h
  split; · exact h.spares fun k => State.applyBudget_spares k
  split; · exact h.spares fun k => State.applyOutReq_spares k
  split; · exact h.spares fun k => State.applyPulse_spares k
  exact h.spares fun k => State.applyCoded_spares k

theorem State.applyStream_spares {o : State} {s : State} {sel : Nat} {ws : List Word} (h : Spares o s) :
    Spares o (State.applyStream s sel ws) := by
  unfold State.applyStream
  try dsimp only
  repeat'
    first
    | with_reducible assumption | simp only [Spares.upd_iff] | with_reducible apply State.event_spares
    | with_reducible apply State.incM_spares | with_reducible apply State.onStar_spares | split

theorem State.recordVoted_spares {o : State} {s : State} {l : Lane} {a : Nat} {v : Word} (h : Spares o s) :
    Spares o (State.recordVoted s l a v) := by
  unfold State.recordVoted
  try dsimp only
  repeat'
    first
    | with_reducible assumption | with_reducible apply State.votedWrite_spares
    | with_reducible apply State.writeStream_spares | split

theorem State.readback_spares {o : State} {s : State} (h : Spares o s) : Spares o (State.readback s) := by
  unfold State.readback
  try dsimp only
  repeat'
    first
    | with_reducible assumption | with_reducible apply setLaneReg_spares | with_reducible apply foldl_spares | split
    | intro _

theorem State.rewriteTable_spares {o : State} {s : State} {i : Nat} (h : Spares o s) :
    Spares o (State.rewriteTable s i) := by
  unfold State.rewriteTable
  try dsimp only
  repeat'
    first
    | with_reducible assumption | with_reducible apply State.applyStream_spares | split

theorem State.rewrite_spares {o : State} {s : State} {b : Nat} (h : Spares o s) : Spares o (State.rewrite s b) := by
  unfold State.rewrite
  try dsimp only
  repeat'
    first
    | with_reducible assumption | with_reducible exact LaneSpares.refl _ | simp only [Spares.upd_iff]
    | with_reducible apply onLane_spares | with_reducible apply foldl_spares | with_reducible apply State.event_spares
    | with_reducible apply State.rewriteTable_spares | split | intro _ | with_reducible apply LaneSpares.upd

theorem State.rewriteDue_spares {o : State} {s : State} (h : Spares o s) : Spares o (State.rewriteDue s) := by
  unfold State.rewriteDue
  try dsimp only
  repeat'
    first
    | with_reducible assumption | simp only [Spares.upd_iff] | with_reducible apply foldl_spares
    | with_reducible apply State.rewrite_spares | split | intro _

theorem State.startCopy_spares {o : State} {s : State} (h : Spares o s) : Spares o (State.startCopy s) := by
  unfold State.startCopy
  try dsimp only
  repeat'
    first
    | with_reducible assumption | simp only [Spares.upd_iff] | with_reducible apply State.holdOut_spares | split

theorem Closing.reg_keeps {o : State} {x : Closing} {vs : List Lane} {s0 : State} {a : Nat} (h : Keeps o x.st) :
    Keeps o (Closing.reg x vs s0 a).st := by
  unfold Closing.reg
  extract_lets stream rw rs st changed
  have h1 : Keeps o st := by
    simp only [st]
    split
    · split
      · exact h.spares fun k => State.applyStream_spares k
      · exact h
    · split
      · exact State.applyVoted_keeps h
      · exact h
  clear_value changed
  dsimp only
  split
  · exact h1.spares fun k => State.wrM_spares k
  · exact h1

theorem Closing.fold_keeps {o : State} {vs : List Lane} {s0 : State} {xs : List Nat} :
    ∀ {x : Closing}, Keeps o x.st → Keeps o (xs.foldl (fun (x : Closing) (a : Nat) => x.reg vs s0 a) x).st := by
  induction xs with
  | nil => exact fun h => h
  | cons a xs ih => exact fun h => ih (Closing.reg_keeps h)

theorem State.closeBlock_keeps {o : State} {s : State} {block : Nat} (h : Keeps o s) : Keeps o (State.closeBlock s block).st := by
  unfold State.closeBlock
  extract_lets vs base x odd agree s1
  have hx : Keeps o x.st := Closing.fold_keeps h
  exact hx.spares fun k => State.wrM_spares (State.wrM_spares (State.wrM_spares (State.wrM_spares k)))

theorem Closing.block_keeps {o : State} {x : Closing} {block : Nat} (h : Keeps o x.st) : Keeps o (Closing.block x block).st :=
  State.closeBlock_keeps h

theorem Closing.blocks_keeps {o : State} {xs : List Nat} :
    ∀ {x : Closing}, Keeps o x.st → Keeps o (xs.foldl Closing.block x).st := by
  induction xs with
  | nil => exact fun h => h
  | cons b xs ih => exact fun h => ih (Closing.block_keeps h)

theorem State.closeWrites_keeps {o : State} {s : State} (h : Keeps o s) : Keeps o (State.closeWrites s) := by
  unfold State.closeWrites
  extract_lets x sel s1 s2 s3
  have hx : Keeps o x.st := Closing.blocks_keeps (h.spares fun k => State.rewriteDue_spares k)
  have h1 : Keeps o s1 := onLanes_keeps hx _ fun _ => LaneKeeps.upd
  have h2 : Keeps o s2 := State.nameLanes_keeps h1
  have h3 : Keeps o s3 := by
    simp only [s3]
    split
    · exact h2.spares fun k => State.latchSafe_spares k
    · exact h2
  refine foldl_keeps h3 fun t l k => ?_
  extract_lets x
  have hx : Keeps o x.2 := k.spares fun k => State.takeInject_spares k
  split
  · exact State.nameLane_keeps hx
  · exact k

theorem State.afterClose_keeps {o : State} {s : State} (h : Keeps o s) : Keeps o (State.afterClose s) := by
  unfold State.afterClose
  try dsimp only
  repeat'
    first
    | with_reducible assumption | simp only [Keeps.upd_iff]
    | with_reducible refine Keeps.trans ?_ (State.appendAlarms_spares (Spares.refl _)).toKeeps
    | with_reducible apply State.leadHandover_keeps | with_reducible apply State.leadTransfers_keeps
    | with_reducible refine Keeps.trans ?_ (State.readback_spares (Spares.refl _)).toKeeps
    | with_reducible refine Keeps.trans ?_ (State.startCopy_spares (Spares.refl _)).toKeeps | split

theorem State.lateWrite_spares {o : State} {s : State} {w : Lane × Nat × Word} (h : Spares o s) :
    Spares o (State.lateWrite s w) := by
  unfold State.lateWrite
  try dsimp only
  repeat'
    first
    | with_reducible assumption | with_reducible apply State.recordVoted_spares | with_reducible apply State.wrM_spares
    | split

theorem State.xleWrite_keeps {o : State} {s : State} {l : Lane} {a : Nat} {w : Word} (h : Keeps o s) :
    Keeps o (State.xleWrite s l a w).2 := by
  have h1 : Keeps o (s.cross l .copyWrite 5 a w).2 := h.spares fun k => State.cross_spares k
  unfold State.xleWrite
  generalize s.cross l .copyWrite 5 a w = x at h1 ⊢
  obtain ⟨_ | v, t⟩ := x
  · exact h1
  · exact State.writeWord_keeps h1

theorem State.copyRead_keeps {o : State} {s : State} {v : Lane} {ts : List TaskImage} (h : Keeps o s) :
    Keeps o (State.copyRead s v ts).2 := by
  unfold State.copyRead
  try dsimp only
  repeat'
    first
    | with_reducible assumption | with_reducible apply State.visit_keeps

theorem foldl_pair_keeps {α β : Type} {o : State} {f : β × State → α → β × State} {xs : List α} :
    ∀ {a : β × State}, Keeps o a.2 → (∀ t x, Keeps o t.2 → Keeps o (f t x).2) → Keeps o (xs.foldl f a).2 := by
  induction xs with
  | nil => exact fun h _ => h
  | cons x xs ih => exact fun h k => ih (k _ x h) k

theorem State.copyTask_keeps {u : State} {x : Bool × State} {o v : Lane} {t : TaskImage} (h : Keeps u x.2) :
    Keeps u (State.copyTask x o v t).2 := by
  unfold State.copyTask
  extract_lets d a put x1
  have h1 : Keeps u x1.2 := foldl_pair_keeps h fun _ _ k => State.xleWrite_keeps (State.xleWrite_keeps k)
  exact h1.spares fun k => State.wr_spares (State.wr_spares k)

theorem State.copyEnd_keeps {u : State} {s : State} {o v : Lane} {ts : List TaskImage} {res : CopyEnd} (h : Keeps u s) :
    Keeps u (State.copyEnd s o v ts res).2 := by
  unfold State.copyEnd
  extract_lets src dig
  have h1 : Keeps u src.2 := State.copyRead_keeps h
  have h2 : Keeps u dig.2 := by
    simp only [dig]
    split
    · exact State.copyRead_keeps h1
    · exact h1
  split
  · exact h2
  · split
    · exact h2
    · split
      · exact foldl_pair_keeps h2 fun _ _ k => State.copyTask_keeps k
      · exact h2

theorem State.restart_keeps {o0 : State} {s : State} {o : Lane} (h : Keeps o0 s) : Keeps o0 (State.restart s o) := by
  unfold State.restart
  try dsimp only
  repeat'
    first
    | with_reducible assumption | with_reducible exact LaneKeeps.upd | with_reducible apply onLane_keeps
    | with_reducible apply LaneState.release_keeps | split

theorem State.linkUp_spares {o : State} {s : State} {l : Lane} {lat : PerLane Nat} {v : Lane} (h : Spares o s) :
    Spares o (State.linkUp s l lat v) := by
  unfold State.linkUp
  try dsimp only
  repeat'
    first
    | with_reducible assumption | with_reducible apply State.raise_spares | with_reducible apply State.wr_spares | split

theorem State.linkLost_spares {o : State} {s : State} {l : Lane} {v : Lane} (h : Spares o s) :
    Spares o (State.linkLost s l v) := by
  unfold State.linkLost
  try dsimp only
  repeat'
    first
    | with_reducible assumption | with_reducible apply State.raise_spares | with_reducible apply State.wr_spares | split

theorem State.retrainLinks_keeps {o : State} {s : State} {l : Lane} {trained : Bool} {lat : PerLane Nat} (h : Keeps o s) :
    Keeps o (State.retrainLinks s l trained lat) := by
  unfold State.retrainLinks
  split
  · extract_lets s1 s2 s3 s4
    have h1 : Keeps o s1 := foldl_keeps (State.mendSlots_keeps h) fun _ _ k => k.spares fun k => State.linkUp_spares k
    have h3 : Keeps o s3 := onLanes_keeps (h1.spares fun k => State.wrM_spares k) _ fun _ => LaneKeeps.upd
    have h4 : Keeps o s4 := h3.spares fun k => State.setSt_spares k
    clear_value s4 s3
    split
    · split
      · exact h4
      · exact Keeps.upd h4
    · exact h3
  · extract_lets s1
    have h1 : Keeps o s1 := foldl_keeps h fun _ _ k => k.spares fun k => State.linkLost_spares k
    split
    · exact h1
    · exact h1.spares fun k => State.holdOut_spares k

theorem State.retrain_keeps {o : State} {s : State} {l : Lane} {trained : Bool} {lat : PerLane Nat} (h : Keeps o s) :
    Keeps o (State.retrain s l trained lat) := by
  unfold State.retrain
  try dsimp only
  repeat'
    first
    | with_reducible assumption | with_reducible apply State.retrainLinks_keeps | split

theorem State.failBlock_spares {o : State} {s : State} {b : Nat} (h : Spares o s) : Spares o (State.failBlock s b) := by
  unfold State.failBlock
  try dsimp only
  repeat'
    first
    | with_reducible assumption | simp only [Spares.upd_iff] | with_reducible apply State.detach_spares
    | with_reducible apply State.event_spares | with_reducible apply State.latchSafe_spares
    | with_reducible apply State.onStar_spares | with_reducible apply State.setCoreState_spares
    | with_reducible apply State.wrM_spares | split

theorem State.judgeShared_spares {o : State} {s : State} (h : Spares o s) : Spares o (State.judgeShared s) := by
  unfold State.judgeShared
  try dsimp only
  repeat'
    first
    | with_reducible assumption | simp only [Spares.upd_iff] | with_reducible apply foldl_spares
    | with_reducible apply State.failBlock_spares | split | intro _

theorem State.countClean_spares {o : State} {s : State} (h : Spares o s) : Spares o (State.countClean s) := by
  unfold State.countClean
  try dsimp only
  repeat'
    first
    | with_reducible assumption | with_reducible apply State.wrM_spares | split

theorem State.readAsks_spares {o : State} {s : State} (h : Spares o s) : Spares o (State.readAsks s) := by
  unfold State.readAsks
  try dsimp only
  repeat'
    first
    | with_reducible assumption | simp only [Spares.upd_iff]

end Sys2Proof.Machine
end

