-- ==== Sys2Proof/Laws/FrameBoundary.lean ====
section
/-! SUPPORT. Laws/FrameBoundary.lean: what the operations of Machine/Boundary.lean keep. -/
namespace Sys2Proof.Machine

theorem State.dropRoundSet_spares {o : State} {s : State} (h : Spares o s) : Spares o (State.dropRoundSet s) := by
  unfold State.dropRoundSet
  try dsimp only
  repeat'
    first
    | with_reducible assumption | simp only [Spares.upd_iff]

theorem LaneState.openRoundSet_spares {o : LaneState} {x : LaneState} (h : LaneSpares o x) :
    LaneSpares o (LaneState.openRoundSet x) := by
  unfold LaneState.openRoundSet
  try dsimp only
  repeat'
    first
    | with_reducible assumption | with_reducible exact LaneSpares.refl _ | split | intro _
    | with_reducible apply LaneSpares.upd

theorem State.takeTaskRegs_spares {o : State} {s : State} (h : Spares o s) : Spares o (State.takeTaskRegs s) := by
  unfold State.takeTaskRegs
  try dsimp only
  repeat'
    first
    | with_reducible assumption | with_reducible exact LaneSpares.refl _ | simp only [Spares.upd_iff]
    | with_reducible apply onLane_spares | with_reducible apply setLaneReg_spares | with_reducible apply foldl_spares
    | split | intro _ | with_reducible apply LaneSpares.upd

theorem State.openRoundSet_spares {o : State} {s : State} {kind : RsKind} (h : Spares o s) :
    Spares o (State.openRoundSet s kind) := by
  unfold State.openRoundSet
  try dsimp only
  repeat'
    first
    | with_reducible assumption | with_reducible exact LaneSpares.refl _ | simp only [Spares.upd_iff]
    | with_reducible apply onLanes_spares | with_reducible apply foldl_spares
    | with_reducible apply State.dropRoundSet_spares | with_reducible apply LaneState.openRoundSet_spares
    | with_reducible apply State.raise_spares | with_reducible apply State.takeTaskRegs_spares
    | with_reducible apply State.wrM_spares | split | intro _

theorem State.readmit_spares {o : State} {s : State} (h : Spares o s) : Spares o (State.readmit s) := by
  unfold State.readmit
  try dsimp only
  repeat'
    first
    | with_reducible assumption | simp only [Spares.upd_iff] | with_reducible apply foldl_spares
    | with_reducible apply State.event_spares | with_reducible apply State.revote_spares
    | with_reducible apply State.setMode_spares | with_reducible apply State.setSt_spares
    | with_reducible apply State.wr_spares | with_reducible apply State.wrM_spares | split | intro _

theorem State.dropForces_spares {o : State} {s : State} (h : Spares o s) : Spares o (State.dropForces s) := by
  unfold State.dropForces
  try dsimp only
  repeat'
    first
    | with_reducible assumption | with_reducible exact LaneSpares.refl _ | simp only [Spares.upd_iff]
    | with_reducible apply onLanes_spares | with_reducible apply State.applyForces_spares
    | with_reducible apply State.wrAll_spares | split | intro _ | with_reducible apply LaneSpares.upd

theorem State.clearAids_spares {o : State} {s : State} (h : Spares o s) : Spares o (State.clearAids s) := by
  unfold State.clearAids
  try dsimp only
  repeat'
    first
    | with_reducible assumption | with_reducible exact LaneSpares.refl _ | simp only [Spares.upd_iff]
    | with_reducible apply onLane_spares | with_reducible apply setLaneReg_spares | with_reducible apply foldl_spares
    | with_reducible apply State.dropForces_spares | with_reducible apply State.event_spares
    | with_reducible apply State.wr_spares | with_reducible apply State.wrM_spares | split | intro _
    | with_reducible apply LaneSpares.upd

theorem State.leaveComm_spares {o : State} {s : State} (h : Spares o s) : Spares o (State.leaveComm s) := by
  unfold State.leaveComm
  try dsimp only
  repeat'
    first
    | with_reducible assumption | simp only [Spares.upd_iff] | with_reducible apply State.clearAids_spares | split

theorem State.enterCommissioning_spares {o : State} {s : State} (h : Spares o s) :
    Spares o (State.enterCommissioning s) := by
  unfold State.enterCommissioning
  try dsimp only
  repeat'
    first
    | with_reducible assumption | simp only [Spares.upd_iff] | with_reducible apply State.drawn_spares
    | with_reducible apply State.onSec_spares | with_reducible apply State.setMode_spares

theorem State.runMode_spares {o : State} {s : State} (h : Spares o s) : Spares o (State.runMode s) := by
  unfold State.runMode
  try dsimp only
  repeat'
    first
    | with_reducible assumption | with_reducible apply State.setMode_spares

theorem State.commBoundary_spares {o : State} {s : State} (h : Spares o s) : Spares o (State.commBoundary s) := by
  unfold State.commBoundary
  try dsimp only
  repeat'
    first
    | with_reducible assumption | simp only [Spares.upd_iff] | with_reducible apply State.enterCommissioning_spares
    | with_reducible apply State.event_spares | with_reducible apply State.runMode_spares | split

theorem State.integrateBoundary_spares {o : State} {s : State} (h : Spares o s) :
    Spares o (State.integrateBoundary s) := by
  unfold State.integrateBoundary
  try dsimp only
  repeat'
    first
    | with_reducible assumption | with_reducible apply State.runMode_spares | split

theorem State.shutBoundary_spares {o : State} {s : State} (h : Spares o s) : Spares o (State.shutBoundary s) := by
  unfold State.shutBoundary
  try dsimp only
  repeat'
    first
    | with_reducible assumption | simp only [Spares.upd_iff] | with_reducible apply foldl_spares
    | with_reducible apply State.leavePair_spares | with_reducible apply State.notApplicable_spares
    | with_reducible apply State.onPower_spares | with_reducible apply State.protocol_spares
    | with_reducible apply State.votedWrite_spares | with_reducible apply State.wrAll_spares
    | with_reducible apply State.wrM_spares | with_reducible apply State.writeLen_spares | split | intro _

theorem State.loadTasks_spares {o : State} {s : State} (h : Spares o s) : Spares o (State.loadTasks s) := by
  unfold State.loadTasks
  try dsimp only
  repeat'
    first
    | with_reducible assumption | with_reducible exact LaneSpares.refl _ | simp only [Spares.upd_iff]
    | with_reducible apply onLanes_spares | split | intro _ | with_reducible apply LaneSpares.upd

theorem State.revertBoundary_spares {o : State} {s : State} (h : Spares o s) : Spares o (State.revertBoundary s) := by
  unfold State.revertBoundary
  try dsimp only
  repeat'
    first
    | with_reducible assumption | simp only [Spares.upd_iff] | with_reducible apply State.loadTasks_spares
    | with_reducible apply State.onUpd_spares | with_reducible apply State.setStage_spares
    | with_reducible apply State.swapSlots_spares | split

theorem State.agreeBoundary_spares {o : State} {s : State} (h : Spares o s) : Spares o (State.agreeBoundary s) := by
  unfold State.agreeBoundary
  try dsimp only
  repeat'
    first
    | with_reducible assumption | simp only [Spares.upd_iff] | with_reducible apply State.becomeLead_spares
    | with_reducible apply State.event_spares | with_reducible apply State.leavePair_spares
    | with_reducible apply State.loadTasks_spares | with_reducible apply State.onTwin_spares
    | with_reducible apply State.onUpd_spares | with_reducible apply State.setStage_spares
    | with_reducible apply State.setTw_spares | with_reducible apply State.swapSlots_spares
    | with_reducible apply State.wrM_spares | split

theorem State.endConversion_keeps {o : State} {s : State} (h : Keeps o s) : Keeps o (State.endConversion s) := by
  unfold State.endConversion
  try dsimp only
  repeat'
    first
    | with_reducible assumption | with_reducible apply State.convert_keeps
    | with_reducible refine Keeps.trans ?_ (State.event_spares (Spares.refl _)).toKeeps
    | with_reducible refine Keeps.trans ?_ (State.setStage_spares (Spares.refl _)).toKeeps
    | with_reducible refine Keeps.trans ?_ (State.wrM_spares (Spares.refl _)).toKeeps | split

theorem State.convBoundary_keeps {o : State} {s : State} {left halted : Bool} (h : Keeps o s) :
    Keeps o (State.convBoundary s left halted).1 := by
  have hs := State.readState_keeps (ws := s.guardReads) h
  unfold State.convBoundary
  dsimp only
  generalize s.readState s.guardReads = t at hs ⊢
  repeat' split
  all_goals try dsimp only
  all_goals first
    | exact h
    | exact hs
    | exact hs.spares fun k => State.wrM_spares (State.event_spares k)
    | exact hs.spares fun k => State.setStage_spares (State.dropForces_spares k)
    | exact h.spares fun k => State.wrM_spares (State.setStage_spares k)
    | exact h.spares fun k => State.onUpd_spares (State.event_spares (State.setStage_spares k))

theorem State.haltBoundary_spares {o : State} {s : State} (h : Spares o s) : Spares o (State.haltBoundary s).1 := by
  unfold State.haltBoundary
  try dsimp only
  repeat'
    first
    | with_reducible assumption | with_reducible exact LaneSpares.refl _ | simp only [Spares.upd_iff]
    | with_reducible apply onLanes_spares | with_reducible apply State.enterCommissioning_spares
    | with_reducible apply State.event_spares | with_reducible apply State.raiseAll_spares
    | with_reducible apply State.setMode_spares | with_reducible apply State.wrAll_spares
    | with_reducible apply State.wrM_spares | split | intro _ | with_reducible apply LaneSpares.upd

theorem State.endTest_spares {o : State} {s : State} (h : Spares o s) : Spares o (State.endTest s) := by
  unfold State.endTest
  try dsimp only
  repeat'
    first
    | with_reducible assumption | simp only [Spares.upd_iff] | with_reducible apply setLaneReg_spares
    | with_reducible apply foldl_spares | with_reducible apply State.wr_spares | split | intro _

theorem State.testBoundary_spares {o : State} {s : State} (h : Spares o s) : Spares o (State.testBoundary s) := by
  unfold State.testBoundary
  try dsimp only
  repeat'
    first
    | with_reducible assumption | with_reducible exact LaneSpares.refl _ | simp only [Spares.upd_iff]
    | with_reducible apply onLanes_spares | with_reducible apply State.endTest_spares
    | with_reducible apply State.mark_spares | with_reducible apply LaneState.openRoundSet_spares
    | with_reducible apply State.openRoundSet_spares | split | intro _ | with_reducible apply LaneSpares.upd

theorem State.dropAsks_spares {o : State} {s : State} (h : Spares o s) : Spares o (State.dropAsks s) := by
  unfold State.dropAsks
  try dsimp only
  repeat'
    first
    | with_reducible assumption | with_reducible exact LaneSpares.refl _ | simp only [Spares.upd_iff]
    | with_reducible apply onLanes_spares | with_reducible apply State.wrAll_spares | split | intro _
    | with_reducible apply LaneSpares.upd

theorem State.discardRequests_spares {o : State} {s : State} (h : Spares o s) : Spares o (State.discardRequests s) := by
  unfold State.discardRequests
  try dsimp only
  repeat'
    first
    | with_reducible assumption | simp only [Spares.upd_iff] | with_reducible apply State.abandon_spares
    | with_reducible apply State.dropAsks_spares | with_reducible apply State.event_spares
    | with_reducible apply State.onPower_spares | with_reducible apply State.wrM_spares | split

theorem State.stepTime_spares {o : State} {s : State} (h : Spares o s) : Spares o (State.stepTime s) := by
  unfold State.stepTime
  try dsimp only
  repeat'
    first
    | with_reducible assumption | simp only [Spares.upd_iff]

theorem State.numberedBoundary_keeps {o : State} {s : State} {lead : Option (Nat × Nat)} (h : Keeps o s) :
    Keeps o (State.numberedBoundary s lead) := by
  unfold State.numberedBoundary
  extract_lets left s0 s1 s2 s3 hb s4 s5 halted c s6 cyc s7
  have h0 : Keeps o s0 := State.judgeUnclean_keeps (State.endConversion_keeps (h.spares fun k => State.stepTime_spares k))
  have h1 : Keeps o s1 := h0.spares fun k => setModReg_spares k _ _
  have h2 : Keeps o s2 := by
    simp only [s2]
    split
    · exact h1.spares fun k => State.discardRequests_spares k
    · exact h1
  have h3 : Keeps o s3 := h2.spares fun k => State.revertBoundary_spares (State.twinBoundary_spares
    (State.agreeBoundary_spares (State.shutBoundary_spares (State.readmit_spares k))))
  have h4 : Keeps o s4 := h3.spares fun k => State.integrateBoundary_spares (State.commBoundary_spares
    (State.haltBoundary_spares k))
  have h5 : Keeps o s5 := h4.spares fun k => State.leaveComm_spares k
  have hc : Keeps o c.1 := State.convBoundary_keeps h5
  have h6 : Keeps o s6 := hc.spares fun k => State.openRoundSet_spares k
  have h7 : Keeps o s7 := Keeps.upd h6
  exact (foldl_keeps h7 fun _ _ k => k.spares fun k => State.dirtyScan_spares k).spares fun k => State.ageSubs_spares k

theorem State.moveBoundary_spares {o : State} {s : State} {round : Nat} (h : Spares o s) :
    Spares o (State.moveBoundary s round) := by
  unfold State.moveBoundary
  try dsimp only
  repeat'
    first
    | with_reducible assumption | simp only [Spares.upd_iff]

theorem State.askHalt_spares {o : State} {s : State} {l : Lane} (h : Spares o s) : Spares o (State.askHalt s l) := by
  unfold State.askHalt
  try dsimp only
  repeat'
    first
    | with_reducible assumption | with_reducible exact LaneSpares.refl _ | simp only [Spares.upd_iff]
    | with_reducible apply onLane_spares | with_reducible apply State.eventL_spares
    | with_reducible apply State.wr_spares | split | intro _ | with_reducible apply LaneSpares.upd

theorem State.askResume_spares {o : State} {s : State} {l : Lane} (h : Spares o s) : Spares o (State.askResume s l) := by
  unfold State.askResume
  try dsimp only
  repeat'
    first
    | with_reducible assumption | with_reducible exact LaneSpares.refl _ | simp only [Spares.upd_iff]
    | with_reducible apply onLane_spares | split | intro _ | with_reducible apply LaneSpares.upd

end Sys2Proof.Machine
end

