-- ==== Sys2Proof/Laws/FrameStart.lean ====
section
/-! SUPPORT. Laws/FrameStart.lean: what the operations of Machine/Start.lean keep. -/
namespace Sys2Proof.Machine

theorem State.restoreD0_spares {o : State} {s : State} (h : Spares o s) : Spares o (State.restoreD0 s) := by
  unfold State.restoreD0
  try dsimp only
  repeat'
    first
    | with_reducible assumption | simp only [Spares.upd_iff] | with_reducible apply State.event_spares
    | with_reducible apply State.onPower_spares | with_reducible apply State.wrM_spares

theorem State.readPins_spares {o : State} {s : State} {a : Option Bool} {b : Option Bool} (h : Spares o s) :
    Spares o (State.readPins s a b) := by
  unfold State.readPins
  try dsimp only
  repeat'
    first
    | with_reducible assumption | simp only [Spares.upd_iff] | with_reducible apply State.event_spares
    | with_reducible apply State.onPower_spares | with_reducible apply State.wrM_spares | split

theorem State.useResults_keeps {o : State} {s : State} (h : Keeps o s) : Keeps o (State.useResults s) := by
  unfold State.useResults
  try dsimp only
  repeat'
    first
    | with_reducible assumption | with_reducible apply foldl_keeps | with_reducible apply State.markUnusable_keeps
    | with_reducible refine Keeps.trans ?_ (State.notApplicable_spares (Spares.refl _)).toKeeps
    | with_reducible refine Keeps.trans ?_ (State.wrM_spares (Spares.refl _)).toKeeps | split | intro _

theorem State.start1_keeps {o : State} {s : State} {inp : StartInput} (h : Keeps o s) : Keeps o (State.start1 s inp) := by
  unfold State.start1
  extract_lets s1 s2 src s2' s3 low s4 s5
  have h1 : Keeps o s1 := h.spares fun k => State.powerOn_spares (State.wrM_spares k)
  have h2 : Keeps o s2 := by
    simp only [s2]
    split
    · exact h1.spares fun k => State.incWrapM_spares k
    · exact h1.spares fun k => State.restoreD0_spares k
  have h2' : Keeps o s2' := h2.spares fun k => Spares.upd_iff.mpr k
  have h4 : Keeps o s4 := h2'.spares fun k => State.wrM_spares (State.wrM_spares (State.wrM_spares (State.wrM_spares
    (State.wrM_spares k))))
  have h5 : Keeps o s5 := by
    simp only [s5]
    split
    · exact h4.spares fun k => State.event_spares k
    · exact h4
  exact State.useResults_keeps (h5.spares fun k => State.readPins_spares k)

theorem State.repairDram_spares {o : State} {s : State} {l : Lane} (h : Spares o s) :
    Spares o (State.repairDram s l) := by
  unfold State.repairDram
  try dsimp only
  repeat'
    first
    | with_reducible assumption | simp only [Spares.upd_iff] | with_reducible apply foldl_spares
    | with_reducible apply State.drawn_spares | with_reducible apply State.event_spares
    | with_reducible apply State.inc_spares | with_reducible apply State.wr_spares | split | intro _

theorem State.start2_spares {o : State} {s : State} (h : Spares o s) : Spares o (State.start2 s) := by
  unfold State.start2
  try dsimp only
  repeat'
    first
    | with_reducible assumption | with_reducible apply foldl_spares | with_reducible apply State.powerOn_spares
    | with_reducible apply State.repairDram_spares | split | intro _

theorem State.start3_spares {o : State} {s : State} (h : Spares o s) : Spares o (State.start3 s) := by
  unfold State.start3
  try dsimp only
  repeat'
    first
    | with_reducible assumption | simp only [Spares.upd_iff] | with_reducible apply State.onPower_spares
    | with_reducible apply State.powerOn_spares

theorem State.start5_keeps {o : State} {s : State} {bad : Nat} (h : Keeps o s) :
    ∀ t, State.start5 s bad = some t → Keeps o t := by
  unfold State.start5
  extract_lets s1 filled
  have h1 : Keeps o s1 := foldl_keeps h fun _ _ k => State.markUnusable_keeps k
  clear_value s1
  intro t ht
  split at ht
  · cases ht
    exact h1
  · cases ht

theorem State.startD7_spares {o : State} {s : State} (h : Spares o s) : Spares o (State.startD7 s) := by
  unfold State.startD7
  try dsimp only
  repeat'
    first
    | with_reducible assumption | simp only [Spares.upd_iff] | with_reducible apply foldl_spares
    | with_reducible apply State.bufferRec_spares | with_reducible apply State.countStart_spares
    | with_reducible apply State.onSec_spares | with_reducible apply State.zeroizeIfTampered_spares

theorem State.start6_keeps {o : State} {s : State} {inp : StartInput} (h : Keeps o s) : Keeps o (State.start6 s inp).1 := by
  unfold State.start6
  extract_lets act ina s1 go
  have h1 : Keeps o s1 := h.spares fun k => State.onSec_spares k
  have hgo : ∀ t fw, Keeps o t → Keeps o (go t fw) := fun t fw k => by
    simp only [go]
    refine Keeps.spares ?_ fun k => State.startD7_spares (setModReg_spares k _ _)
    refine foldl_keeps (k.spares fun k => State.onSec_spares k) fun t l k => ?_
    split
    · exact onLane_keeps k l _ LaneState.release_keeps
    · exact k
  clear_value go
  split
  · exact hgo _ _ h1
  · split
    · exact hgo _ _ (h1.spares fun k => State.event_spares k)
    · exact h1.spares fun k => State.event_spares k

theorem State.start7_spares {o : State} {s : State} {inp : StartInput} (h : Spares o s) :
    Spares o (State.start7 s inp) := by
  unfold State.start7
  try dsimp only
  repeat'
    first
    | with_reducible assumption | simp only [Spares.upd_iff] | with_reducible apply foldl_spares
    | with_reducible apply LaneState.openRoundSet_spares | with_reducible apply State.openRoundSet_spares
    | with_reducible apply State.raise_spares | with_reducible apply State.revote_spares
    | with_reducible apply State.setSt_spares | with_reducible apply State.wr_spares | split | intro _

theorem State.start8_keeps {o : State} {s : State} {inp : StartInput} (h : Keeps o s) :
    Keeps o (State.start8 s inp) := by
  unfold State.start8
  try dsimp only
  repeat'
    first
    | with_reducible assumption | with_reducible exact LaneKeeps.upd | simp only [Keeps.upd_iff]
    | with_reducible apply onLane_keeps | with_reducible apply foldl_keeps
    | with_reducible refine Keeps.trans ?_ (State.checked_spares (Spares.refl _)).toKeeps
    | with_reducible apply State.loadLogic_keeps
    | with_reducible refine Keeps.trans ?_ (State.onPower_spares (Spares.refl _)).toKeeps
    | with_reducible refine Keeps.trans ?_ (State.onUpd_spares (Spares.refl _)).toKeeps | split | intro _

theorem State.grantStart_spares {o : State} {s : State} {l : Lane} (h : Spares o s) :
    Spares o (State.grantStart s l) := by
  unfold State.grantStart
  try dsimp only
  repeat'
    first
    | with_reducible assumption | simp only [Spares.upd_iff] | with_reducible apply State.onPower_spares
    | with_reducible apply State.raise_spares | with_reducible apply State.wr_spares

theorem State.writeNode_spares {o : State} {s : State} {l : Lane} {b : StationBody} (h : Spares o s) :
    Spares o (State.writeNode s l b) := by
  unfold State.writeNode
  try dsimp only
  repeat'
    first
    | with_reducible assumption | with_reducible apply State.wr_spares | with_reducible apply State.wrM_spares

theorem State.writeStation_keeps {o : State} {s : State} {l : Lane} {b : StationBody} {d : Nat} (h : Keeps o s) :
    Keeps o (State.writeStation s l b d) := by
  unfold State.writeStation
  try dsimp only
  repeat'
    first
    | with_reducible assumption | with_reducible exact LaneKeeps.upd | simp only [Keeps.upd_iff]
    | with_reducible apply onLane_keeps
    | with_reducible refine Keeps.trans ?_ (setLaneReg_spares (Spares.refl _) _ _ _).toKeeps
    | with_reducible apply foldl_keeps
    | with_reducible refine Keeps.trans ?_ (State.writeNode_spares (Spares.refl _)).toKeeps
    | with_reducible apply State.writeTask_keeps | split | intro _

theorem State.readSettings_spares {o : State} {s : State} {ok : Bool} (h : Spares o s) :
    Spares o (State.readSettings s ok) := by
  unfold State.readSettings
  try dsimp only
  repeat'
    first
    | with_reducible assumption | simp only [Spares.upd_iff] | with_reducible apply setLaneReg_spares
    | with_reducible apply foldl_spares | with_reducible apply State.event_spares
    | with_reducible apply State.onLog_spares | with_reducible apply State.onSettings_spares
    | with_reducible apply State.wr_spares | split | intro _

theorem State.start9_keeps {o : State} {s : State} {inp : StartInput} (h : Keeps o s) :
    Keeps o (State.start9 s inp) := by
  unfold State.start9
  try dsimp only
  repeat'
    first
    | with_reducible assumption | simp only [Keeps.upd_iff] | with_reducible apply foldl_keeps
    | with_reducible refine Keeps.trans ?_ (State.drawn_spares (Spares.refl _)).toKeeps
    | with_reducible refine Keeps.trans ?_ (State.grantStart_spares (Spares.refl _)).toKeeps
    | with_reducible refine Keeps.trans ?_ (State.onStar_spares (Spares.refl _)).toKeeps
    | with_reducible refine Keeps.trans ?_ (State.readSettings_spares (Spares.refl _)).toKeeps
    | with_reducible apply State.writeStation_keeps | split | intro _

theorem State.failTest_keeps {o : State} {s : State} {x : Nat × Lane × Bool × Nat} (h : Keeps o s) :
    Keeps o (State.failTest s x) := by
  unfold State.failTest
  extract_lets ch s1 lose
  have h1 : Keeps o s1 := h.spares fun k => State.event_spares k
  have hl : ∀ {t : State} {l : Lane}, Keeps o t → Keeps o (lose t l) := fun k =>
    State.markUnusable_keeps (k.spares fun k => State.event_spares k)
  clear_value lose s1
  split
  · exact foldl_keeps h1 fun _ _ k => hl k
  · exact foldl_keeps h1 fun _ _ k => hl k
  · exact foldl_keeps h1 fun _ _ k => hl k
  · exact h1.spares fun k => State.startFails_spares k
  · exact h1.spares fun k => State.event_spares (State.wrM_spares k)
  · exact hl h1

theorem State.start10_keeps {o : State} {s : State} {inp : StartInput} (h : Keeps o s) :
    Keeps o (State.start10 s inp) := by
  unfold State.start10
  try dsimp only
  repeat'
    first
    | with_reducible assumption | with_reducible apply foldl_keeps | with_reducible apply State.failTest_keeps

theorem State.startTwin_spares {o : State} {s : State} (h : Spares o s) : Spares o (State.startTwin s) := by
  unfold State.startTwin
  try dsimp only
  repeat'
    first
    | with_reducible assumption | with_reducible apply State.runAlone_spares | with_reducible apply State.setTw_spares
    | with_reducible apply State.wrAll_spares | split

theorem State.start11_spares {o : State} {s : State} (h : Spares o s) : Spares o (State.start11 s) := by
  unfold State.start11
  try dsimp only
  repeat'
    first
    | with_reducible assumption | with_reducible exact LaneSpares.refl _ | simp only [Spares.upd_iff]
    | with_reducible apply onLanes_spares | with_reducible apply setModReg_spares
    | with_reducible apply State.enterCommissioning_spares | with_reducible apply State.event_spares
    | with_reducible apply LaneState.openRoundSet_spares | with_reducible apply State.openRoundSet_spares
    | with_reducible apply State.setMode_spares | with_reducible apply State.startTwin_spares | split | intro _
    | with_reducible apply LaneSpares.upd

theorem State.endLampTest_spares {o : State} {s : State} (h : Spares o s) : Spares o (State.endLampTest s) := by
  unfold State.endLampTest
  try dsimp only
  repeat'
    first
    | with_reducible assumption | simp only [Spares.upd_iff] | with_reducible apply State.onPower_spares

theorem State.nextStep_spares {o : State} {s : State} (h : Spares o s) : Spares o (State.nextStep s) := by
  unfold State.nextStep
  try dsimp only
  repeat'
    first
    | with_reducible assumption | simp only [Spares.upd_iff] | with_reducible apply State.onPower_spares

end Sys2Proof.Machine
end

