-- ==== Sys2Proof/Laws/FrameRegAccess.lean ====
section
/-! SUPPORT. Laws/FrameRegAccess.lean: what the operations of Machine/RegAccess.lean keep. -/
namespace Sys2Proof.Machine

theorem State.afterRead_spares {o : State} {s : State} {l : Lane} {a : Nat} (h : Spares o s) :
    Spares o (State.afterRead s l a) := by
  unfold State.afterRead
  try dsimp only
  repeat'
    first
    | with_reducible assumption | with_reducible apply State.advanceWin_spares | with_reducible apply State.drawn_spares
    | with_reducible apply State.regSet_spares | with_reducible apply State.wr_spares | split

theorem State.readReg_spares {o : State} {s : State} {l : Lane} {c : CoreId} {a : Nat} (h : Spares o s) :
    Spares o (State.readReg s l c a).2 := by
  unfold State.readReg
  try dsimp only
  repeat'
    first
    | with_reducible assumption | with_reducible apply State.afterRead_spares | with_reducible apply State.drawn_spares
    | with_reducible apply State.latchWin_spares | split

theorem State.claimBy_spares {o : State} {s : State} {l : Lane} {feature : Nat} {resource : Nat} {first : Nat} {last : Nat} (h : Spares o s)
   :
    Spares o (State.claimBy s l feature resource first last).2 := by
  unfold State.claimBy
  try dsimp only
  repeat'
    first
    | with_reducible assumption | simp only [Spares.upd_iff] | with_reducible apply State.claim_spares

theorem State.giveUp_spares {o : State} {s : State} {l : Lane} {feature : Nat} {resource : Nat} (h : Spares o s) :
    Spares o (State.giveUp s l feature resource) := by
  unfold State.giveUp
  try dsimp only
  repeat'
    first
    | with_reducible assumption | with_reducible exact LaneSpares.refl _ | simp only [Spares.upd_iff]
    | with_reducible apply onLane_spares | split | intro _ | with_reducible apply LaneSpares.upd

theorem State.refuseRange_spares {o : State} {s : State} {l : Lane} {feature : Nat} (h : Spares o s) :
    Spares o (State.refuseRange s l feature) := by
  unfold State.refuseRange
  try dsimp only
  repeat'
    first
    | with_reducible assumption | with_reducible apply State.eventL_spares | with_reducible apply State.wr_spares

theorem State.writeRteCtrl_keeps {o : State} {s : State} {l : Lane} {v : Word} (h : Keeps o s) :
    Keeps o (State.writeRteCtrl s l v) := by
  unfold State.writeRteCtrl
  try dsimp only
  repeat'
    first
    | with_reducible assumption | with_reducible apply State.dropHints_keeps | with_reducible apply State.flush_keeps
    | with_reducible refine Keeps.trans ?_ (State.plainWrite_spares (Spares.refl _)).toKeeps | split

theorem State.writeImgBase_keeps {o : State} {s : State} {l : Lane} {v : Word} (h : Keeps o s) :
    Keeps o (State.writeImgBase s l v) := by
  unfold State.writeImgBase
  try dsimp only
  repeat'
    first
    | with_reducible assumption | with_reducible apply State.dropHints_keeps
    | with_reducible refine Keeps.trans ?_ (State.plainWrite_spares (Spares.refl _)).toKeeps
    | with_reducible refine Keeps.trans ?_ (State.wr_spares (Spares.refl _)).toKeeps | split

theorem State.writeDprev_spares {o : State} {s : State} {l : Lane} {t : Nat} {v : Word} (h : Spares o s) :
    Spares o (State.writeDprev s l t v) := by
  unfold State.writeDprev
  try dsimp only
  repeat'
    first
    | with_reducible assumption | with_reducible apply State.plainWrite_spares | with_reducible apply State.wr_spares
    | split

theorem State.writeCtxBase_spares {o : State} {s : State} {l : Lane} {v : Word} (h : Spares o s) :
    Spares o (State.writeCtxBase s l v) := by
  unfold State.writeCtxBase
  try dsimp only
  repeat'
    first
    | with_reducible assumption | with_reducible apply State.claimBy_spares
    | with_reducible apply State.plainWrite_spares | with_reducible apply State.refuseRange_spares | split

theorem State.writeForce_spares {o : State} {s : State} {l : Lane} {v : Word} (h : Spares o s) :
    Spares o (State.writeForce s l v) := by
  unfold State.writeForce
  try dsimp only
  repeat'
    first
    | with_reducible assumption | with_reducible apply State.claimBy_spares | with_reducible apply State.giveUp_spares
    | with_reducible apply State.plainWrite_spares | split

theorem State.writeTaskReg_spares {o : State} {s : State} {l : Lane} {a : Nat} {v : Word} (h : Spares o s) :
    Spares o (State.writeTaskReg s l a v) := by
  unfold State.writeTaskReg
  try dsimp only
  repeat'
    first
    | with_reducible assumption | with_reducible exact LaneSpares.refl _ | simp only [Spares.upd_iff]
    | with_reducible apply onLane_spares | with_reducible apply State.wr_spares | split | intro _
    | with_reducible apply LaneSpares.upd

theorem State.writeCmpInject_spares {o : State} {s : State} {l : Lane} {v : Word} (h : Spares o s) :
    Spares o (State.writeCmpInject s l v) := by
  unfold State.writeCmpInject
  try dsimp only
  repeat'
    first
    | with_reducible assumption | with_reducible exact LaneSpares.refl _ | simp only [Spares.upd_iff]
    | with_reducible apply onLane_spares | with_reducible apply State.plainWrite_spares
    | with_reducible apply State.wr_spares | split | intro _ | with_reducible apply LaneSpares.upd

theorem State.writeScope_spares {o : State} {s : State} {l : Lane} {v : Word} (h : Spares o s) :
    Spares o (State.writeScope s l v) := by
  unfold State.writeScope
  try dsimp only
  repeat'
    first
    | with_reducible assumption | with_reducible apply State.claimBy_spares | with_reducible apply State.giveUp_spares
    | with_reducible apply State.plainWrite_spares | with_reducible apply State.refuseRange_spares | split

theorem State.writePmcSel_spares {o : State} {s : State} {l : Lane} {n : Nat} {v : Word} (h : Spares o s) :
    Spares o (State.writePmcSel s l n v) := by
  unfold State.writePmcSel
  try dsimp only
  repeat'
    first
    | with_reducible assumption | with_reducible apply State.giveUp_spares
    | with_reducible apply State.keepSetting_spares | with_reducible apply State.plainWrite_spares
    | with_reducible apply State.wr_spares | split

theorem State.writeUac_spares {o : State} {s : State} {l : Lane} {v : Word} (h : Spares o s) :
    Spares o (State.writeUac s l v) := by
  unfold State.writeUac
  try dsimp only
  repeat'
    first
    | with_reducible assumption | with_reducible apply foldl_spares | with_reducible apply State.claimBy_spares
    | with_reducible apply State.giveUp_spares | with_reducible apply State.wr_spares | split | intro _

theorem State.writeCrcCfg_spares {o : State} {s : State} {l : Lane} {u : Nat} {v : Word} (h : Spares o s) :
    Spares o (State.writeCrcCfg s l u v) := by
  unfold State.writeCrcCfg
  try dsimp only
  repeat'
    first
    | with_reducible assumption | with_reducible apply State.claimBy_spares | with_reducible apply State.giveUp_spares
    | with_reducible apply State.plainWrite_spares | with_reducible apply State.wr_spares | split

theorem State.writeCrcVal_spares {o : State} {s : State} {l : Lane} {u : Nat} {v : Word} (h : Spares o s) :
    Spares o (State.writeCrcVal s l u v) := by
  unfold State.writeCrcVal
  try dsimp only
  repeat'
    first
    | with_reducible assumption | with_reducible apply State.wr_spares

theorem State.judgeToken_spares {o : State} {s : State} {l : Lane} {v : Word} (h : Spares o s) :
    Spares o (State.judgeToken s l v) := by
  unfold State.judgeToken
  try dsimp only
  repeat'
    first
    | with_reducible assumption | simp only [Spares.upd_iff] | with_reducible apply State.drawn_spares
    | with_reducible apply State.event_spares | with_reducible apply State.onSec_spares
    | with_reducible apply State.wrM_spares | split

theorem State.testWrite_spares {o : State} {s : State} {l : Lane} {a : Nat} {v : Word} {f : State → State}
    (h : Spares o s) (hf : ∀ t, Spares o t → Spares o (f t)) :
    Spares o (State.testWrite s l a v f) := by
  unfold State.testWrite
  try dsimp only
  repeat'
    first
    | with_reducible assumption | with_reducible apply hf | with_reducible apply State.eventL_spares | split

theorem State.testWrite_keeps {o : State} {s : State} {l : Lane} {a : Nat} {v : Word} {f : State → State}
    (h : Keeps o s) (hf : ∀ t, Keeps o t → Keeps o (f t)) :
    Keeps o (State.testWrite s l a v f) := by
  unfold State.testWrite
  try dsimp only
  repeat'
    first
    | with_reducible assumption | with_reducible apply hf
    | with_reducible refine Keeps.trans ?_ (State.eventL_spares (Spares.refl _)).toKeeps | split

theorem State.writeInj_keeps {o : State} {s : State} {l : Lane} {v : Word} (h : Keeps o s) : Keeps o (State.writeInj s l v) := by
  unfold State.writeInj
  extract_lets kind addr pat p f1 f2
  split
  · refine State.testWrite_keeps h fun t k => ?_
    exact (onLane_keeps k l _ (putStored_ok _ _ _)).spares fun k => State.wr_spares k
  · split
    · refine State.testWrite_keeps h fun t k => ?_
      exact (onLane_keeps k l _ LaneKeeps.upd).spares fun k => State.wr_spares k
    · exact h

theorem State.writeScrub_spares {o : State} {s : State} {l : Lane} {v : Word} (h : Spares o s) :
    Spares o (State.writeScrub s l v) := by
  unfold State.writeScrub
  try dsimp only
  repeat'
    first
    | with_reducible assumption | with_reducible apply State.accessEvent_spares
    | with_reducible apply State.plainWrite_spares | split

theorem State.writeDeb_spares {o : State} {s : State} {l : Lane} {a : Nat} {v : Word} (h : Spares o s) :
    Spares o (State.writeDeb s l a v) := by
  unfold State.writeDeb
  try dsimp only
  repeat'
    first
    | with_reducible assumption | with_reducible apply State.plainWrite_spares | split

theorem State.writePps_spares {o : State} {s : State} {l : Lane} {v : Word} (h : Spares o s) :
    Spares o (State.writePps s l v) := by
  unfold State.writePps
  try dsimp only
  repeat'
    first
    | with_reducible assumption | simp only [Spares.upd_iff] | with_reducible apply State.claimBy_spares
    | with_reducible apply State.giveUp_spares | with_reducible apply State.plainWrite_spares | split

theorem State.writeXleCtrl_keeps {o : State} {s : State} {l : Lane} {v : Word} (h : Keeps o s) :
    Keeps o (State.writeXleCtrl s l v) := by
  unfold State.writeXleCtrl
  repeat'
    first
    | with_reducible assumption
    | (extract_lets +onlyGivenNames x; refine (fun (hx : Keeps o x) => ?_) ?_; clear_value x; rotate_left; simp only [x]; clear x)
    | (extract_lets +onlyGivenNames x; refine (fun (hx : Keeps o x.2) => ?_) ?_; clear_value x; rotate_left; simp only [x]; clear x)
    | (extract_lets +onlyGivenNames x; clear_value x)
    | with_reducible refine Keeps.trans ?_ (State.askHalt_spares (Spares.refl _)).toKeeps
    | with_reducible refine Keeps.trans ?_ (State.askResume_spares (Spares.refl _)).toKeeps
    | with_reducible refine Keeps.trans ?_ (State.drawn_spares (Spares.refl _)).toKeeps
    | with_reducible apply State.retrain_keeps | split

theorem State.writeSlotClaim_spares {o : State} {s : State} {v : Word} (h : Spares o s) :
    Spares o (State.writeSlotClaim s v) := by
  unfold State.writeSlotClaim
  try dsimp only
  repeat'
    first
    | with_reducible assumption | with_reducible apply State.releaseSlot_spares
    | with_reducible apply State.requestSlot_spares | split

theorem State.writeVoted_spares {o : State} {s : State} {l : Lane} {c : CoreId} {a : Nat} {v : Word} (h : Spares o s) :
    Spares o (State.writeVoted s l c a v) := by
  unfold State.writeVoted
  try dsimp only
  repeat'
    first
    | with_reducible assumption | with_reducible apply State.recordVoted_spares | split

theorem Keeps.ite {o a b : State} {p : Prop} [Decidable p] (ha : Keeps o a) (hb : Keeps o b) : Keeps o (if p then a else b) := by
  split
  · exact ha
  · exact hb

theorem State.writeReg_keeps {o : State} {s : State} {l : Lane} {c : CoreId} {a : Nat} {v : Word} (h : Keeps o s) :
    Keeps o (State.writeReg s l c a v) := by
  unfold State.writeReg
  refine Keeps.ite ?_ ?_; · exact h.spares fun k => State.writeVoted_spares k
  refine Keeps.ite ?_ ?_; · exact h
  refine Keeps.ite ?_ ?_; · exact State.writeRteCtrl_keeps h
  refine Keeps.ite ?_ ?_; · exact State.writeImgBase_keeps h
  refine Keeps.ite ?_ ?_; · exact h.spares fun k => State.writeCtxBase_spares k
  refine Keeps.ite ?_ ?_; · exact h.spares fun k => State.writeDprev_spares k
  refine Keeps.ite ?_ ?_; · exact h.spares fun k => State.writeForce_spares k
  refine Keeps.ite ?_ ?_; · exact h.spares fun k => State.writeTaskReg_spares k
  refine Keeps.ite ?_ ?_; · exact h.spares fun k => State.writeCmpInject_spares k
  refine Keeps.ite ?_ ?_; · exact h.spares fun k => State.writeScope_spares k
  refine Keeps.ite ?_ ?_; · exact State.writeXleCtrl_keeps h
  refine Keeps.ite ?_ ?_; · exact h.spares fun k => State.writeScrub_spares k
  refine Keeps.ite ?_ ?_; · exact h.spares fun k => State.writeArbPrio_spares k
  refine Keeps.ite ?_ ?_; · exact h.spares fun k => State.writeHoldmax_spares k
  refine Keeps.ite ?_ ?_; · exact h.spares fun k => State.writeDnrCtrl_spares k
  refine Keeps.ite ?_ ?_; · exact h.spares fun k => State.writeSchedSel_spares k
  refine Keeps.ite ?_ ?_; · exact h.spares fun k => State.writeSlotClaim_spares k
  refine Keeps.ite ?_ ?_; · exact h.spares fun k => State.writeTable_spares k
  refine Keeps.ite ?_ ?_
  · refine Keeps.ite ?_ ?_
    · exact h
    · exact h.spares fun k => State.plainWrite_spares k
  refine Keeps.ite ?_ ?_; · exact h.spares fun k => State.keepSetting_spares (State.writePps_spares k)
  refine Keeps.ite ?_ ?_; · exact h.spares fun k => State.writeTimExt_spares k
  refine Keeps.ite ?_ ?_; · exact h.spares fun k => State.writeCrcCfg_spares k
  refine Keeps.ite ?_ ?_; · exact h.spares fun k => State.writeCrcVal_spares k
  refine Keeps.ite ?_ ?_
  · refine Keeps.ite ?_ ?_
    · exact h
    · exact h.spares fun k => State.writeLen_spares k
  refine Keeps.ite ?_ ?_; · exact h.spares fun k => State.clearCell_spares k
  refine Keeps.ite ?_ ?_; · exact h.spares fun k => State.writeDeb_spares k
  refine Keeps.ite ?_ ?_
  · refine Keeps.ite ?_ ?_
    · exact h.spares fun k => State.plainWrite_spares k
    · exact h
  refine Keeps.ite ?_ ?_; · exact h
  refine Keeps.ite ?_ ?_; · exact h.spares fun k => State.writeStampReq_spares k
  refine Keeps.ite ?_ ?_; · exact h.spares fun k => State.writeUpdCtrl_spares k
  refine Keeps.ite ?_ ?_; · exact State.writeMbox_keeps h
  refine Keeps.ite ?_ ?_
  · refine Keeps.ite ?_ ?_
    · exact h.spares fun k => State.writeClear_spares k
    · exact h
  refine Keeps.ite ?_ ?_; · exact h.spares fun k => State.writeFreeze_spares k
  refine Keeps.ite ?_ ?_; · exact h.spares fun k => State.writeRate_spares k
  refine Keeps.ite ?_ ?_; · exact h.spares fun k => State.writePmcSel_spares k
  refine Keeps.ite ?_ ?_; · exact h.spares fun k => State.writeUac_spares k
  refine Keeps.ite ?_ ?_; · exact h.spares fun k => State.judgeToken_spares k
  refine Keeps.ite ?_ ?_; · exact h.spares fun k => State.testWrite_spares k fun _ k => State.plainWrite_spares k
  refine Keeps.ite ?_ ?_; · exact h.spares fun k => State.testWrite_spares k fun _ k => State.plainWrite_spares k
  refine Keeps.ite ?_ ?_; · exact State.writeInj_keeps h
  refine Keeps.ite ?_ ?_; · exact h.spares fun k => State.writeLock_spares k
  refine Keeps.ite ?_ ?_; · exact h.spares fun k => State.writeClaim_spares k
  exact h.spares fun k => State.plainWrite_spares k

theorem State.coreWrite_keeps {o : State} {s : State} {l : Lane} {c : CoreId} {a : Nat} {v : Word} (h : Keeps o s) :
    Keeps o (State.coreWrite s l c a v) := by
  unfold State.coreWrite
  exact State.regWriteBy_keeps h fun _ k => State.writeReg_keeps k

theorem State.coreRead_keeps {o : State} {s : State} {l : Lane} {c : CoreId} {gd : GReg} {a : Nat} (h : Keeps o s) :
    Keeps o (State.coreRead s l c gd a) := by
  unfold State.coreRead
  try dsimp only
  repeat'
    first
    | with_reducible assumption | with_reducible apply onCore_keeps | with_reducible apply setG_ok
    | with_reducible refine Keeps.trans ?_ (State.readReg_spares (Spares.refl _)).toKeeps
    | with_reducible apply State.regAccess_keeps | (exact fun i => setG_ok _ _ i) | (exact fun i => ⟨i.zero, i.level⟩)
    | (exact fun i => ⟨(setG_ok _ _ i).zero, (setG_ok _ _ i).level⟩) | split | intro _

end Sys2Proof.Machine
end

