-- ==== Sys2Proof/Laws/FrameCoreMem.lean ====
section
/-! SUPPORT. Laws/FrameCoreMem.lean: what the operations of Machine/CoreMem.lean keep. -/
namespace Sys2Proof.Machine

theorem State.load_keeps {o : State} {s : State} {l : Lane} {c : CoreId} {gd : GReg} {ga : GReg} {imm : BitVec 16} {n : Nat} {signed : Bool} (h : Keeps o s)
   :
    Keeps o (State.load s l c gd ga imm n signed) := by
  unfold State.load
  try dsimp only
  repeat'
    first
    | with_reducible assumption | with_reducible apply onCore_keeps | with_reducible apply setG_ok
    | with_reducible apply State.exception_keeps | with_reducible apply State.issue_keeps
    | with_reducible apply State.readMem_keeps
    | with_reducible refine Keeps.trans ?_ (State.readReg_spares (Spares.refl _)).toKeeps
    | with_reducible apply State.retire_keeps | (exact fun i => setG_ok _ _ i) | (exact fun i => ⟨i.zero, i.level⟩)
    | (exact fun i => ⟨(setG_ok _ _ i).zero, (setG_ok _ _ i).level⟩) | split | intro _

theorem State.storeMem_keeps {o : State} {s : State} {l : Lane} {c : CoreId} {ea : Word} {n : Nat} {v : Word}
    {done : State → State} (h : Keeps o s) (hd : ∀ t, Keeps o t → Keeps o (done t)) :
    Keeps o (State.storeMem s l c ea n v done) := by
  have h1 : Keeps o (s.cross l (.store c) (if n = 8 then 0 else 2) (ea.toNat / 8 * 8) v).2 := h.spares fun k => State.cross_spares k
  unfold State.storeMem
  dsimp only
  split
  · exact State.exception_keeps h
  · generalize s.cross l (.store c) (if n = 8 then 0 else 2) (ea.toNat / 8 * 8) v = x at h1 ⊢
    obtain ⟨_ | w, t⟩ := x
    · exact State.exception_keeps h1
    · dsimp only
      split
      · exact hd _ (State.writeWord_keeps h1)
      · split
        · exact hd _ (State.writeNarrow_keeps h1)
        · exact State.exception_keeps (State.writeNarrow_keeps h1)

theorem State.store_keeps {o : State} {s : State} {l : Lane} {c : CoreId} {gs ga : GReg} {imm : BitVec 16} {n : Nat}
    (h : Keeps o s) : Keeps o (State.store s l c gs ga imm n) := by
  unfold State.store
  refine State.issue_keeps h fun t k => ?_
  extract_lets x ea a v
  generalize t.dataRefusal l c ea n true (decide (n = 8)) = e
  split
  · exact State.exception_keeps k
  · split
    · exact State.retire_keeps (State.guardReserved_keeps k fun _ k => State.writeReg_keeps k)
    · exact State.storeMem_keeps k fun _ k => State.retire_keeps k

end Sys2Proof.Machine
end

