-- ==== Sys2Proof/Laws/Cores.lean ====
section
/-! SUPPORT. Laws/Cores.lean: what issuing an instruction, retiring it and taking an exception do, said once. -/
namespace Sys2Proof.Machine

/-! ## Counting -/

theorem Counted.refl (s : State) (l : Lane) : Counted s l s := by
  refine ⟨(s.lane l).regs, ?_, fun _ _ => rfl⟩
  cases l <;> rfl

theorem State.onLane_onLane (s : State) (l : Lane) (f g : LaneState → LaneState) :
    (s.onLane l f).onLane l g = s.onLane l fun x => g (f x) := by cases l <;> rfl

theorem Counted.trans {s t u : State} {l : Lane} (h : Counted s l t) (k : Counted t l u) : Counted s l u := by
  obtain ⟨rs, rfl, h2⟩ := h
  obtain ⟨rs', rfl, k2⟩ := k
  refine ⟨rs', by rw [State.onLane_onLane], fun a ha => (k2 a ha).trans ?_⟩
  rw [State.laneReg, State.lane_onLane, if_pos rfl]
  exact h2 a ha

theorem Counted.wr {s : State} {l : Lane} {f : RField} {v : Nat} (h : isPmcReg f.addr = true) : Counted s l (s.wr l f v) := by
  refine ⟨_, rfl, fun a ha => ?_⟩
  refine mapGet_mapSet_other ?_
  rintro rfl
  rw [h] at ha
  cases ha

theorem pmc_cnt_isPmcReg {n : Nat} (h : n < 32) : isPmcReg (R.PMC_CNT n) = true := by
  have h1 : R.PMC_CNT 0 ≤ R.PMC_CNT n := by unfold R.PMC_CNT; omega
  have h2 : R.PMC_CNT n < R.PMC_CNT 32 := by unfold R.PMC_CNT; omega
  simp [isPmcReg, h1, h2]

theorem State.pmcBump_counted {l : Lane} (fuel : Nat) : ∀ {s : State} {n k : Nat}, n < 32 → Counted s l (s.pmcBump l n k fuel) := by
  induction fuel with
  | zero => exact fun _ => Counted.refl _ _
  | succ fuel ih =>
    intro s n k hn
    have h1 : Counted s l (s.wr l (R.PMC_CNT_COUNT n) ((s.rd l (R.PMC_CNT_COUNT n) + k) % 2 ^ 48)) := Counted.wr (pmc_cnt_isPmcReg hn)
    unfold State.pmcBump
    dsimp only
    split
    · exact h1
    · split
      · split
        · exact h1.trans (ih (by omega))
        · exact h1
      · exact h1.trans (Counted.wr (by decide))

theorem Counted.foldl {α : Type} {l : Lane} {f : State → α → State} {xs : List α} :
    ∀ {s : State}, (∀ t, ∀ x ∈ xs, Counted t l (f t x)) → Counted s l (xs.foldl f s) := by
  induction xs with
  | nil => exact fun _ => Counted.refl _ _
  | cons x xs ih => exact fun h => (h _ x (by simp)).trans (ih fun t y hy => h t y (by simp [hy]))

/-- Counted events change nothing but performance counters. -/
theorem State.pmcMany_counted (s : State) (l : Lane) (cls num : Nat) (attr : PmcAttr) (k : Nat) :
    Counted s l (s.pmcMany l cls num attr k) := by
  unfold State.pmcMany
  refine Counted.foldl fun t n hn => ?_
  split
  · refine State.pmcBump_counted 32 ?_
    simp only [State.pmcSelected, List.mem_map, List.mem_filter] at hn
    obtain ⟨p, ⟨-, hp⟩, rfl⟩ := hn
    simp only [Bool.and_eq_true, decide_eq_true_eq] at hp
    have h1 := hp.1.1.1.1
    have h2 := hp.1.1.1.2
    unfold R.PMC_SEL at h1 h2 ⊢
    omega
  · exact Counted.refl _ _

theorem State.pmc_counted (s : State) (l : Lane) (cls num : Nat) (attr : PmcAttr) : Counted s l (s.pmc l cls num attr) :=
  State.pmcMany_counted ..

/-- What a counted event leaves: every core, byte of memory, engine and queue, and what belongs to the module. -/
theorem Counted.lane_other {s t : State} {l m : Lane} (h : Counted s l t) (hm : m ≠ l) : t.lane m = s.lane m := by
  obtain ⟨rs, rfl, -⟩ := h
  rw [State.lane_onLane, if_neg hm]

theorem Counted.lane_same {s t : State} {l : Lane} (h : Counted s l t) : ∃ rs, t.lane l = { s.lane l with regs := rs } := by
  obtain ⟨rs, rfl, -⟩ := h
  exact ⟨rs, by rw [State.lane_onLane, if_pos rfl]⟩

theorem Counted.core {s t : State} {l : Lane} (h : Counted s l t) (m : Lane) (c : CoreId) : t.core m c = s.core m c := by
  by_cases e : m = l
  · subst e
    obtain ⟨rs, hr⟩ := h.lane_same
    cases c <;> simp [State.core, LaneState.core, hr]
  · cases c <;> simp [State.core, LaneState.core, h.lane_other e]

theorem Counted.mem {s t : State} {l : Lane} (h : Counted s l t) (m : Lane) : (t.lane m).mem = (s.lane m).mem := by
  by_cases e : m = l
  · subst e
    obtain ⟨rs, hr⟩ := h.lane_same
    rw [hr]
  · rw [h.lane_other e]

theorem Counted.eng {s t : State} {l : Lane} (h : Counted s l t) (m : Lane) : t.eng m = s.eng m := by
  by_cases e : m = l
  · subst e
    obtain ⟨rs, hr⟩ := h.lane_same
    rw [State.eng, State.eng, hr]
  · rw [State.eng, State.eng, h.lane_other e]

theorem Counted.modRegs {s t : State} {l : Lane} (h : Counted s l t) : t.modRegs = s.modRegs := by
  obtain ⟨rs, rfl, -⟩ := h; rfl

theorem Counted.pending {s t : State} {l : Lane} (h : Counted s l t) : t.pending = s.pending := by
  obtain ⟨rs, rfl, -⟩ := h; rfl

/-! ## Issuing and retiring -/

theorem State.fetched_reads (s : State) (l : Lane) (c : CoreId) : Reads s (s.fetched l c) := State.fetch_reads (Reads.refl s)

/-- A ready core runs the body of its instruction on the fetched state. -/
theorem State.issue_ready {s : State} {l : Lane} {c : CoreId} {lo : Level} {body : State → State} (h : Ready s l c lo) :
    s.issue l c lo body = body (s.fetched l c) := by
  have hc : (s.fetched l c).core l c = s.core l c := (State.fetched_reads s l c).core l c
  unfold State.issue
  rw [h.issues, h.quiet]
  have hf := h.fetches
  have hl := h.level
  rw [← hc] at hl
  unfold State.fetched at hl
  simp only [Bool.true_eq_false, if_false, Bool.false_eq_true]
  split
  · rename_i e s1 he
    rw [he] at hf; cases hf
  · rename_i s1 he
    simp only [he] at hl
    rw [if_pos hl, State.fetched, he]

/-- A ready core at a level below the lowest one of its instruction takes PRIV (R69). -/
theorem State.issue_below {s : State} {l : Lane} {c : CoreId} {lo : Level} {body : State → State} (h : Ready s l c .u)
    (hl : lo.le (s.core l c).level = false) : s.issue l c lo body = (s.fetched l c).exception l c exPriv 0 := by
  have hc : (s.fetched l c).core l c = s.core l c := (State.fetched_reads s l c).core l c
  unfold State.issue
  rw [h.issues, h.quiet]
  have hf := h.fetches
  rw [← hc] at hl
  unfold State.fetched at hl
  simp only [Bool.true_eq_false, if_false, Bool.false_eq_true]
  split
  · rename_i e s1 he
    rw [he] at hf; cases hf
  · rename_i s1 he
    simp only [he] at hl
    rw [if_neg (by rw [hl]; simp), State.fetched, he]

theorem State.onCore_onCore (s : State) (l : Lane) (c : CoreId) (f g : Core → Core) :
    (s.onCore l c f).onCore l c g = s.onCore l c fun x => g (f x) := by cases l <;> cases c <;> rfl

/-- Only what a function does to the core as it stands counts. -/
theorem State.onCore_congr {s : State} {l : Lane} {c : CoreId} {f g : Core → Core} (h : f (s.core l c) = g (s.core l c)) :
    s.onCore l c f = s.onCore l c g := by
  have h2 : (s.lane l).onCore c f = (s.lane l).onCore c g := by
    cases c
    · simp only [LaneState.onCore]; rw [show f (s.lane l).core0 = g (s.lane l).core0 from h]
    · simp only [LaneState.onCore]; rw [show f (s.lane l).core1 = g (s.lane l).core1 from h]
  unfold State.onCore State.onLane
  simp only [State.lane] at h2
  simp only [h2]

/-- An instruction that changes its core and retires. -/
theorem State.onCore_retire_counted (s : State) (l : Lane) (c : CoreId) (f : Core → Core) :
    Counted (s.onCore l c fun x => { f x with pc := (f x).pc + 4 }) l ((s.onCore l c f).retire l c) := by
  unfold State.retire
  rw [State.onCore_onCore]
  exact State.pmc_counted ..

theorem State.onCore_retireTo_counted (s : State) (l : Lane) (c : CoreId) (f : Core → Core) (pc : Word) :
    Counted (s.onCore l c fun x => { f x with pc := pc }) l ((s.onCore l c f).retireTo l c pc) := by
  unfold State.retireTo
  rw [State.onCore_onCore]
  exact State.pmc_counted ..

theorem Core.setG_pc' (x : Core) (r : GReg) (v : Word) : (x.setG r v).pc = x.pc := by
  unfold Core.setG; split <;> rfl

/-! ## Taking an exception (R79) -/

theorem State.eccAddr_modRegs (s : State) (l : Lane) (m src k s1 s2 a : Nat) :
    (s.eccAddr l m src k s1 s2 a).modRegs = s.modRegs := by
  unfold State.eccAddr
  split
  · rfl
  · simp only [State.modRegs_wr]

theorem State.candidate_modRegs (s : State) (l : Lane) (a cause : Nat) : (s.candidate l a cause).modRegs = s.modRegs := by
  unfold State.candidate
  dsimp only
  split
  · rfl
  · split
    · simp only [State.modRegs_inc]
    · simp only [State.modRegs_eventL]

theorem State.corrected_modRegs (s : State) (l : Lane) (src a : Nat) (syms : List Nat) (f : RField) :
    (s.corrected l src a syms f).modRegs = s.modRegs := by
  unfold State.corrected
  simp only [State.modRegs_eventL, (State.pmc_counted ..).modRegs, State.eccAddr_modRegs, State.modRegs_wr, State.modRegs_inc]

theorem State.poison_modRegs (s : State) (l : Lane) (src a : Nat) : (s.poison l src a).modRegs = s.modRegs := by
  unfold State.poison
  dsimp only
  simp only [State.candidate_modRegs, State.modRegs_eventL]
  split <;> simp only [State.modRegs_onLane, State.eccAddr_modRegs, State.modRegs_wr, State.modRegs_inc]

theorem State.readStored_modRegs (s : State) (l : Lane) (src a : Nat) : (s.readStored l src a).2.modRegs = s.modRegs := by
  unfold State.readStored
  split
  · rfl
  · simp only [State.modRegs_onLane, State.corrected_modRegs]
  · unfold State.poisonMet
    simp only [State.modRegs_eventL, State.eccAddr_modRegs, State.modRegs_inc]
  · exact State.poison_modRegs ..

theorem State.busEnd_modRegs (s : State) (l : Lane) (src a : Nat) (x : Arrival) : (s.busEnd l src a x).2.modRegs = s.modRegs := by
  unfold State.busEnd
  split
  · rfl
  · simp only [(State.pmc_counted ..).modRegs, State.modRegs_inc]
  · unfold State.busDetected
    simp only [State.modRegs_eventL, State.eccAddr_modRegs, State.modRegs_inc]

theorem State.cross_modRegs (s : State) (l : Lane) (p : BusPath) (src a : Nat) (w : Word) :
    (s.cross l p src a w).2.modRegs = s.modRegs := by
  unfold State.cross
  split
  · rfl
  · simp only [State.busEnd_modRegs, State.modRegs_onLane]

theorem bit_eq_testBit (v i : Nat) : bit v i = v.testBit i := by
  rw [bit, Nat.testBit, Nat.and_comm, Nat.and_one_is_mod]
  rcases Nat.mod_two_eq_zero_or_one (v >>> i) with h | h <;> rw [h] <;> rfl

theorem bit_toNat (w : Word) (i : Nat) : bit w.toNat i = w.getLsbD i := bit_eq_testBit _ _

/-- The status after an entry: level K, IE = 0, EXL = 1, and the flags as before. -/
theorem Core.enter_status (x : Core) (cause eaddr : Word) : (x.enter cause eaddr).level = .k ∧ (x.enter cause eaddr).ie = false
    ∧ (x.enter cause eaddr).exl = true ∧ (x.enter cause eaddr).flags = x.flags := by
  have hb : bits (x.enter cause eaddr).psw.toNat 1 0 = 2 := by
    have h1 : ((0xA : Word) &&& 3) = 2 := by decide
    have h2 : (~~~(0xF : Word) &&& 3) = 0 := by decide
    show bits ((x.psw &&& ~~~(0xF : Word)) ||| 0xA).toNat 1 0 = 2
    rw [bits_low, BitVec.and_or_distrib_right, BitVec.and_assoc, h2, h1]
    simp
  have hk : ∀ i, bit (x.enter cause eaddr).psw.toNat i =
      ((x.psw &&& ~~~(0xF : Word)) ||| 0xA).getLsbD i := fun i => bit_toNat _ i
  refine ⟨?_, ?_, ?_, ?_⟩
  · simp [Core.level, hb]
  · rw [Core.ie, hk]; simp
  · rw [Core.exl, hk]; simp
  · simp only [Core.flags, hk, bit_toNat]
    simp

theorem Core.enter_entered (x : Core) (cause eaddr : Word) : Entered x (x.enter cause eaddr) cause eaddr :=
  let h := x.enter_status cause eaddr
  { epsw := rfl, epc := rfl, cause := rfl, eaddr := rfl, pc := rfl, level := h.1, ie := h.2.1, exl := h.2.2.1, flags := h.2.2.2
    regs := fun _ => rfl, resv := rfl }

/-- One core is y; every other core, memory, the engines, the module's registers and the queue are as before. -/
structure After (s : State) (l : Lane) (c : CoreId) (y : Core) (t : State) : Prop where
  core : t.core l c = y
  others : ∀ m d, (m, d) ≠ (l, c) → t.core m d = s.core m d
  mem : ∀ m, (t.lane m).mem = (s.lane m).mem
  eng : ∀ m, t.eng m = s.eng m
  modRegs : t.modRegs = s.modRegs
  pending : t.pending = s.pending

theorem After.counted {s t : State} {l : Lane} {c : CoreId} {f : Core → Core} (h : Counted (s.onCore l c f) l t) :
    After s l c (f (s.core l c)) t := by
  refine ⟨?_, fun m d hm => ?_, fun m => ?_, fun m => ?_, h.modRegs, h.pending⟩
  · rw [h.core, State.core_onCore_same]
  · rw [h.core, State.core_onCore_other _ _ (by rintro ⟨rfl, rfl⟩; exact hm rfl)]
  · rw [h.mem]; cases l <;> cases m <;> cases c <;> rfl
  · rw [h.eng]; cases l <;> cases m <;> cases c <;> rfl

theorem After.onLane {s t : State} {l : Lane} {c : CoreId} {y : Core} (h : After s l c y t) (m : Lane) (f : LaneState → LaneState)
    (h0 : ∀ x, (f x).core0 = x.core0) (h1 : ∀ x, (f x).core1 = x.core1) (h2 : ∀ x, (f x).mem = x.mem)
    (h3 : ∀ x, (f x).eng = x.eng) : After s l c y (t.onLane m f) := by
  have hc : ∀ n d, (t.onLane m f).core n d = t.core n d := by
    intro n d
    simp only [State.core, State.lane_onLane]
    split
    · subst n; cases d
      · exact h0 _
      · exact h1 _
    · rfl
  refine ⟨(hc l c).trans h.core, fun n d hn => (hc n d).trans (h.others n d hn), fun n => ?_, fun n => ?_, h.modRegs, h.pending⟩
  · rw [State.lane_onLane]
    split
    · subst n; rw [h2, h.mem]
    · exact h.mem n
  · rw [State.eng, State.lane_onLane]
    split
    · subst n; rw [h3]; exact h.eng m
    · exact h.eng n

theorem After.eventL {s t : State} {l : Lane} {c : CoreId} {y : Core} (h : After s l c y t) (m : Lane) (n : Nat) (d : List Nat) :
    After s l c y (t.eventL m n d) := ⟨h.core, h.others, h.mem, h.eng, h.modRegs, h.pending⟩

theorem LaneState.sendSeals_core0 (x : LaneState) (old : Vector LaneTask 16) (due rs : Nat) (prob : Bool) :
    (x.sendSeals old due rs prob).core0 = x.core0 := by unfold LaneState.sendSeals; dsimp only; split <;> rfl
theorem LaneState.sendSeals_core1 (x : LaneState) (old : Vector LaneTask 16) (due rs : Nat) (prob : Bool) :
    (x.sendSeals old due rs prob).core1 = x.core1 := by unfold LaneState.sendSeals; dsimp only; split <;> rfl
theorem LaneState.sendSeals_mem (x : LaneState) (old : Vector LaneTask 16) (due rs : Nat) (prob : Bool) :
    (x.sendSeals old due rs prob).mem = x.mem := by unfold LaneState.sendSeals; dsimp only; split <;> rfl
theorem LaneState.sendSeals_eng (x : LaneState) (old : Vector LaneTask 16) (due rs : Nat) (prob : Bool) :
    (x.sendSeals old due rs prob).eng = x.eng := by unfold LaneState.sendSeals; dsimp only; split <;> rfl

theorem LaneState.failCycle_core0 {n k : Nat} {b : Bool} (x : LaneState) : (x.failCycle n k b).core0 = x.core0 :=
  LaneState.sendSeals_core0 ..
theorem LaneState.failCycle_core1 {n k : Nat} {b : Bool} (x : LaneState) : (x.failCycle n k b).core1 = x.core1 :=
  LaneState.sendSeals_core1 ..
theorem LaneState.failCycle_mem {n k : Nat} {b : Bool} (x : LaneState) : (x.failCycle n k b).mem = x.mem :=
  LaneState.sendSeals_mem ..
theorem LaneState.failCycle_eng {n k : Nat} {b : Bool} (x : LaneState) : (x.failCycle n k b).eng = x.eng :=
  LaneState.sendSeals_eng ..

/-- What an exception outside a handler leaves: every other core, memory, the engines and the module's registers; the core has
entered it. -/
theorem State.exception_after {s : State} {l : Lane} {c : CoreId} {code : Nat} {eaddr : Word} (hx : (s.core l c).exl = false) :
    After s l c ((s.core l c).enter (BitVec.ofNat 64 code) eaddr) (s.exception l c code eaddr) := by
  have hc := After.counted
    (State.pmc_counted (s.onCore l c fun y => y.enter (BitVec.ofNat 64 code) eaddr) l 1 1 (.level (s.core l c).level.code))
  unfold State.exception
  dsimp only
  rw [hx, if_neg (by simp)]
  generalize (s.onCore l c fun y => y.enter (BitVec.ofNat 64 code) eaddr).pmc l 1 1 (.level (s.core l c).level.code) = t at hc ⊢
  split
  · exact hc
  · split
    · exact hc
    · exact (hc.onLane l _ LaneState.failCycle_core0 LaneState.failCycle_core1 LaneState.failCycle_mem LaneState.failCycle_eng).eventL _ _ _
  · split
    · exact hc
    · exact (hc.onLane l (fun y => { y with uApp := false }) (fun _ => rfl) (fun _ => rfl) (fun _ => rfl) fun _ => rfl).eventL _ _ _

theorem State.fetched_modRegs (s : State) (l : Lane) (c : CoreId) : (s.fetched l c).modRegs = s.modRegs := by
  have h := State.readStored_modRegs s l 0 ((s.core l c).pc.toNat / 8 * 8)
  unfold State.fetched State.fetch
  dsimp only
  split
  · rfl
  · split
    · generalize s.readStored l 0 ((s.core l c).pc.toNat / 8 * 8) = r at h ⊢
      obtain ⟨_ | v, t⟩ := r
      · exact h
      · have h2 := (State.cross_modRegs t l (.fetch c) 0 ((s.core l c).pc.toNat / 8 * 8) v).trans h
        dsimp only at h2 ⊢
        split <;> exact h2
    · rfl

/-- The same of an instruction whose fetch has been made. -/
theorem State.fetched_exception_takes {s : State} {l : Lane} {c : CoreId} {code : Nat} {eaddr : Word}
    (hx : (s.core l c).exl = false) : Takes (.next ((s.fetched l c).exception l c code eaddr)) s l c code eaddr := by
  have hr := State.fetched_reads s l c
  have hc : (s.fetched l c).core l c = s.core l c := hr.core l c
  have h := State.exception_after (s := s.fetched l c) (code := code) (eaddr := eaddr) (hc ▸ hx)
  refine ⟨_, rfl, ?_, fun m d k => (h.others m d k).trans (hr.core m d), fun m => ⟨h.mem m, (h.eng m).trans (hr.eng m)⟩,
    h.modRegs.trans (State.fetched_modRegs s l c), h.pending.trans hr.pending⟩
  rw [h.core, hc]
  exact Core.enter_entered ..

end Sys2Proof.Machine
end

