-- ==== Sys2Proof/Laws/Passes.lean ====
section
/-! SUPPORT. Laws/Passes.lean: what the pieces of a logic instruction do: references, reads of good memory, coded values, an operand
read by a pass, and how an instruction whose evaluation is known enters an empty window. -/
namespace Sys2Proof.Machine

/-! ## References -/

theorem refBare_toNat (r : Ref) : (refBare r).toNat = r.toNat / 2 ^ 12 * 2 ^ 12 := by
  have : refBare r = (r >>> 12) <<< 12 := by
    unfold refBare
    ext i hi
    simp only [BitVec.getElem_and, BitVec.getElem_shiftLeft, BitVec.getElem_ushiftRight]
    interval_cases i <;> simp
  rw [this]
  simp [BitVec.toNat_shiftLeft, BitVec.toNat_ushiftRight, Nat.shiftRight_eq_div_pow, Nat.shiftLeft_eq]
  omega
theorem refSpace_refBare (r : Ref) : refSpace (refBare r) = refSpace r := by
  unfold refSpace bits; rw [refBare_toNat]; simp [Nat.shiftRight_eq_div_pow]
theorem refId_refBare (r : Ref) : refId (refBare r) = refId r := by
  unfold refId bits; rw [refBare_toNat]; simp [Nat.shiftRight_eq_div_pow]; omega
theorem refWord_refBare (r : Ref) : refWord (refBare r) = refWord r := by
  unfold refWord bits; rw [refBare_toNat]; simp [Nat.shiftRight_eq_div_pow]; omega
theorem refBare_refBare (r : Ref) : refBare (refBare r) = refBare r := by
  apply BitVec.eq_of_toNat_eq; rw [refBare_toNat, refBare_toNat]; omega
theorem refBare_refAt (r : Ref) (w : Nat) : refBare (refAt r w) = refAt r w := by
  have h1 : refId r < 2 ^ 14 := by unfold refId bits; omega
  have h2 : refSpace r < 4 := by unfold refSpace bits; omega
  apply BitVec.eq_of_toNat_eq; rw [refBare_toNat]; unfold refAt mkRef; simp; omega

/-! ## Reads -/

/-- s has become t by a change of one lane's registers alone. -/
def Quiet (o : State) (l : Lane) (s : State) : Prop := ∃ rs, s = o.onLane l fun x => { x with regs := rs }

theorem Quiet.refl (s : State) (l : Lane) : Quiet s l s := ⟨(s.lane l).regs, by cases l <;> rfl⟩
theorem Counted.quiet {s t : State} {l : Lane} (h : Counted s l t) : Quiet s l t := by
  obtain ⟨rs, h, -⟩ := h; exact ⟨rs, h⟩
theorem Quiet.trans {s t u : State} {l : Lane} (h : Quiet s l t) (k : Quiet t l u) : Quiet s l u := by
  obtain ⟨a, rfl⟩ := h; obtain ⟨b, rfl⟩ := k
  exact ⟨b, by rw [State.onLane_onLane]⟩
theorem Quiet.wr {s : State} {l : Lane} {f : RField} {v : Nat} : Quiet s l (s.wr l f v) :=
  ⟨mapSet resetOf (s.lane l).regs f.addr (f.put (s.laneReg l f.addr) v), by cases l <;> rfl⟩
theorem Quiet.foldl {α : Type} {l : Lane} {f : State → α → State} {xs : List α} (h : ∀ s x, x ∈ xs → Quiet s l (f s x)) :
    ∀ s, Quiet s l (xs.foldl f s) := by
  induction xs with
  | nil => exact fun s => Quiet.refl s l
  | cons x xs ih => exact fun s => (h s x (by simp)).trans (ih (fun s y hy => h s y (by simp [hy])) _)
theorem Quiet.snoop (s : State) (l : Lane) (k : Nat) (a : Option Nat) (bs : List Nat) : Quiet s l (s.snoop l k a bs) := by
  unfold State.snoop; exact Quiet.foldl (fun s u _ => Quiet.wr) s
theorem Quiet.data {s t : State} {l : Lane} (h : Quiet s l t) (m : Lane) (a : Nat) : (t.lane m).data a = (s.lane m).data a := by
  obtain ⟨rs, rfl⟩ := h; cases l <;> cases m <;> rfl
theorem Quiet.check {s t : State} {l : Lane} (h : Quiet s l t) (m : Lane) (a : Nat) : (t.lane m).check a = (s.lane m).check a := by
  obtain ⟨rs, rfl⟩ := h; cases l <;> cases m <;> rfl
theorem Quiet.eng {s t : State} {l : Lane} (h : Quiet s l t) (m : Lane) : t.eng m = s.eng m := by
  obtain ⟨rs, rfl⟩ := h; cases l <;> cases m <;> rfl

theorem Quiet.bus {s t : State} {l : Lane} (h : Quiet s l t) (m : Lane) : (t.lane m).bus = (s.lane m).bus := by
  obtain ⟨rs, rfl⟩ := h; cases l <;> cases m <;> rfl

/-- No damage waits on the path of the engine's reads. -/
abbrev Sound (s : State) (l : Lane) : Prop := (s.lane l).bus.find? (fun h => h.path == .engineRead) = none

theorem cross_none {s : State} {l : Lane} {p : BusPath} {src a : Nat} {w : Word}
    (h : (s.lane l).bus.find? (fun x => x.path == p) = none) : s.cross l p src a w = (some w, s) := by
  unfold State.cross; rw [h]

/-- An access of the engine changes nothing but performance counters. -/
theorem State.countAccess_counted (s : State) (l : Lane) (lvl : Option Nat) (a : Nat) (write : Bool) :
    Counted s l (s.countAccess l mEngine lvl a write) := by
  unfold State.countAccess
  dsimp only
  split
  · rw [if_neg (by decide), if_neg (by decide)]; exact State.pmc_counted ..
  · exact State.pmc_counted ..

theorem readMem_clean {s : State} {l : Lane} {a : Nat} {w : Word} (hb : Sound s l)
    (h : rsDecode ((s.lane l).data (a / 8 * 8)) ((s.lane l).check (a / 8 * 8)) = .clean w) :
    (s.readMem l mEngine none 1 a 8).1 = some w ∧ Quiet s l (s.readMem l mEngine none 1 a 8).2 := by
  unfold State.readMem State.readStored
  dsimp only
  rw [h]
  have hx : readBus l mEngine none 1 (a / 8 * 8) (some w, s) = (some w, s) := cross_none hb
  rw [hx, if_neg (by decide)]
  exact ⟨rfl, (State.countAccess_counted ..).quiet.trans (Quiet.snoop ..)⟩

theorem decode_enc {a n b d : Nat} (ha : 0 < a) (ha2 : a < 2 ^ 31) (hn : n < 2 ^ 32) : decodeCoded a (encodeWord a n b d) b d = some n := by
  have h1 : a * n < 2 ^ 64 := by nlinarith
  have : (encodeWord a n b d - BitVec.ofNat 64 (b + d)).toNat = a * n := by
    unfold encodeWord
    have : BitVec.ofNat 64 (a * n + b + d) - BitVec.ofNat 64 (b + d) = BitVec.ofNat 64 (a * n) := by
      rw [Nat.add_assoc, BitVec.ofNat_add]; simp
    rw [this]; simp; omega
  unfold decodeCoded
  dsimp only
  rw [this]
  rw [if_pos ⟨by simp, by nlinarith⟩, Nat.mul_div_cancel_left _ ha]

theorem take_enc {c : Ctx} {e : Ev} {n b : Nat} (hk : c.kind = .coded → 0 < c.a ∧ c.a < 2 ^ 31) (hn : n < 2 ^ 32) :
    c.take e (c.enc n b) b = (⟨n, c.enc n b, b⟩, e) := by
  unfold Ctx.take Ctx.enc
  cases hc : c.kind
  · have : n % 2 ^ 64 = n := by omega
    simp; omega
  · obtain ⟨h1, h2⟩ := hk hc
    simp [decode_enc h1 h2 hn]
  · have : n % 2 ^ 64 = n := by omega
    simp; omega

theorem kind_coded {p : Pass} : p.desc.kind = .coded ↔ p.desc.kindRaw = 2 := by
  unfold Desc.kind; split <;> simp_all; split <;> simp

theorem read_holds {s : State} {l : Lane} {p : Pass} {r : Run} {off : Nat} {ref : Ref} {n : Nat} {e : Ev}
    (ho : Oldest s l p r off) (h : Holds s l p r ref n) (hq : Quiet s l e.st) (he : e.err = none)
    (hout : e.out.find? (fun o => o.1 == refBare ref) = none) :
    ∃ b st, (s.seen l p r).read e ref = (⟨n, (s.seen l p r).enc n b, b⟩,
      { e with st := st, reads := e.reads ++ [refBare ref] }) ∧ Quiet s l st := by
  have hk : (s.seen l p r).kind = .coded → 0 < (s.seen l p r).a ∧ (s.seen l p r).a < 2 ^ 31 :=
    fun hk => ho.coding (kind_coded.1 hk)
  unfold Ctx.read
  dsimp only
  rw [if_neg (by simp [he]), hout]
  dsimp only
  have : heldEntry (s.seen l p r).older (refBare ref) = none := rfl
  rw [this]
  dsimp only
  rw [show refTemp (refBare ref) = refTemp ref by unfold refTemp; rw [refSpace_refBare], refId_refBare]
  split
  · rename_i ht
    obtain ⟨v, h1, h2⟩ := h.temp ht
    have : assoc (s.seen l p r).temps (refId ref) = some v := h1
    rw [this]
    dsimp only
    rw [h2, take_enc hk h.small]
    exact ⟨v.sig, e.st, rfl, hq⟩
  · rename_i ht
    obtain ⟨hf, w, hw, hv⟩ := h.word (by simpa using ht)
    rw [if_pos (show inFoot (s.seen l p r).image _ = true from hf)]
    unfold Ctx.committed
    dsimp only
    have hw' : rsDecode ((e.st.lane l).data ((p.desc.stateBase + refOffset (refBare ref) + (if p.desc.kindRaw = 2 then 8 else 0)) / 8 * 8))
      ((e.st.lane l).check ((p.desc.stateBase + refOffset (refBare ref) + (if p.desc.kindRaw = 2 then 8 else 0)) / 8 * 8)) = .clean w := by
      rw [hq.data, hq.check]; exact hw
    have hb : Sound e.st l := by rw [Sound, hq.bus]; exact ho.sound
    obtain ⟨k1, k2⟩ := readMem_clean hb hw'
    have hkk : (s.seen l p r).kind = .coded ↔ p.desc.kindRaw = 2 := kind_coded
    have : (if (s.seen l p r).kind = .coded then 8 else 0) = (if p.desc.kindRaw = 2 then 8 else 0) := by
      simp only [hkk]
    rw [this]
    rw [show (s.seen l p r).lane = l from rfl, show (s.seen l p r).base = p.desc.stateBase from rfl]
    rw [k1]
    dsimp only
    have h3 : (if (s.seen l p r).kind = .coded ∧ (!(s.seen l p r).written.contains (refBare ref)) = true then
      w + BitVec.ofNat 64 (s.seen l p r).d - BitVec.ofNat 64 (s.seen l p r).dprev else w) = (s.seen l p r).enc n ((s.seen l p r).sig (refBare ref)) := by
      rw [← hv]
      simp only [hkk]; rfl
    rw [h3, take_enc hk h.small]
    exact ⟨_, _, rfl, hq.trans k2⟩

theorem Quiet.peak (s : State) (l : Lane) (r : Run) : Quiet s l (s.peak l r) := by
  unfold State.peak; dsimp only; split
  · exact Quiet.wr
  · exact Quiet.refl ..
theorem Quiet.squash0 (s : State) (l : Lane) (r : Run) (k : Held → Bool) (h : r.window = []) : Quiet s l (s.squash l r k).1 ∧ (s.squash l r k).2 = r := by
  unfold State.squash
  simp only [h, List.countP_nil, iter]
  refine ⟨Quiet.wr, ?_⟩
  cases r; simp_all
theorem evaluates {s : State} {l : Lane} {p : Pass} {r : Run} {off : Nat} {i : LogicIns} {P : Held → Prop} (ho : Oldest s l p r off)
    (hs : Stands s l p off i) (hn : ∀ q ∈ namedWords i, inFoot (s.taskImg p.desc.task) (refBare q) = true)
    (hc : let x := (s.seen l p r).compute { st := s, out := [], reads := [], err := none } i
      x.1.err = none ∧ Quiet s l x.1.st ∧ ∀ h : Held, h.ins = i → h.off = off → h.size = i.size → h.entries = (s.seen l p r).entriesOf i x.1 → h.folds = x.2.1 → h.taken = x.2.2 → P h) :
    Evaluates (.next (s.logicStep l off i)) s l p r P := by
  obtain ⟨hl, hsp⟩ := hs
  have hk : p.desc.kindRaw ≠ 3 := by rcases ho.kind with h | h <;> omega
  have hu : off = uncovered r.off r.window := by rw [ho.window]; exact ho.next
  unfold State.logicStep
  rw [ho.runs]
  dsimp only
  rw [if_neg (by
    rintro (h | h | h | h | h)
    exacts [hk h, h hu, absurd ho.inside (by omega), (by rw [ho.flows] at h; cases h), (by rw [hsp] at h; cases h)])]
  have hpast : decide (p.desc.logicEnd < p.desc.logicBase + 8 * (off + i.size)) = false := by
    simpa using hl.2
  have hi := hl.1
  rw [hpast]
  have hbad : (false || !i.legal || (namedWords i).any fun q => !(inFoot (s.seen l p r).image (refBare q))) = false := by
    simp [hi]; intro q hq; exact hn q hq
  have hold : olderOf off r.window = [] := by rw [ho.window]; rfl
  have hreg : regionGuards off r.window = [] := by rw [ho.window]; rfl
  rw [hold, hreg, show s.ctx l p r [] = s.seen l p r from rfl]
  obtain ⟨h1, h2, h3⟩ := hc
  have he : ∃ g, (s.seen l p r).eval s off i false [] = (((s.seen l p r).compute { st := s, out := [], reads := [], err := none } i).1.st, g)
     ∧ g.ins = i ∧ g.off = off ∧ g.size = i.size ∧ g.err = none ∧ g.entries = (s.seen l p r).entriesOf i ((s.seen l p r).compute { st := s, out := [], reads := [], err := none } i).1
     ∧ g.folds = ((s.seen l p r).compute { st := s, out := [], reads := [], err := none } i).2.1 ∧ g.taken = ((s.seen l p r).compute { st := s, out := [], reads := [], err := none } i).2.2 := by
    unfold Ctx.eval
    dsimp only
    rw [hbad]
    simp [h1]
  obtain ⟨g, hg, g1, g2, g3, g4, g5, g6, g7⟩ := he
  rw [hg]
  dsimp only
  have hoff : off = r.off := ho.next
  rw [if_neg (by simp [Run.holdsBack, hoff])]
  generalize hst : ((s.seen l p r).compute { st := s, out := [], reads := [], err := none } i).1.st = st at *
  generalize hx : (if (i.isSkip && decide (s.rd l R.RTE_CTRL_PRED = 1) &&
      ((s.eng l).predict (decide (s.rd l R.RTE_CTRL_HINT = 1)) p.desc.task off).2) = true then st.pmc l 3 8 .plain else st) = x1
  have hq1 : Quiet s l x1 := by
    rw [← hx]; split
    · exact h2.trans (State.pmc_counted ..).quiet
    · exact h2
  generalize (g.guards ++ s.exposedGuards l p r.window g).eraseDups = gs
  generalize hh : (if i.isSkip = true then
    { g with
      predicted := if decide (s.rd l R.RTE_CTRL_PRED = 1) = true then
        ((s.eng l).predict (decide (s.rd l R.RTE_CTRL_HINT = 1)) p.desc.task off).1 else g.taken
      guards := gs } else { g with guards := gs }) = g'
  generalize hpick : (fun y : Held => (dependents off (g'.entries.map Entry.ref ++ writesOf (s.taskImg p.desc.task) i) r.window).contains y.off || (i.isSkip && y.holds off)) = pick
  obtain ⟨q1, q2⟩ := Quiet.squash0 x1 l r pick ho.window
  generalize hqq : x1.squash l r pick = q at *
  rw [q2]
  have hin : insertHeld r.window g' = [g'] := by rw [ho.window]; rfl
  rw [hin]
  have hq2 : Quiet s l (q.1.peak l { r with window := [g'] }) := (hq1.trans q1).trans (Quiet.peak ..)
  have gg : g'.ins = i ∧ g'.off = off ∧ g'.size = i.size ∧ g'.err = none ∧ g'.entries = g.entries ∧ g'.folds = g.folds ∧ g'.taken = g.taken := by
    rw [← hh]; split <;> exact ⟨g1, g2, g3, g4, rfl, rfl, rfl⟩
  obtain ⟨a1, a2, a3, a4, a5, a6, a7⟩ := gg
  have hb := h3 g' a1 a2 a3 (a5.trans g5) (a6.trans g6) (a7.trans g7)
  generalize q.1.peak l { r with window := [g'] } = y at hq2
  have hw : y.eng l = s.eng l := hq2.eng l
  obtain ⟨rs, rfl⟩ := hq2
  refine ⟨_, g', rfl, ?_, ?_, ?_, ?_, ?_, ?_, by rw [a2, hoff], a4, hb⟩
  all_goals clear h3 hqq hin hx hst hpick hh hg hbad
  · cases l <;> rfl
  · intro m hm; cases l <;> cases m <;> first | rfl | exact absurd rfl hm
  · cases l <;> rfl
  · cases l <;> rfl
  · cases l <;> rfl
  · cases l <;> rfl
end Sys2Proof.Machine
end

