-- ==== Sys2Proof/WellFormed.lean ====
section
/-! DEFINITION. WellFormed.lean: which commands the tables of the spec allow: every operand within the range that its table,
register or encoding gives it. A meaning is defined for every command; the statements say where one rests on this. -/
namespace Sys2Proof

/-- The fields of a frame fit their widths (R308, R309). -/
def Frame.fits (f : Frame) : Bool :=
  decide (f.slot < 1024) && decide (f.node < 4096) && decide (f.payload.length ≤ 1500) && f.payload.all fun b => decide (b < 256)

/-- The events that no command of its own shows: core clocks, cache misses, clocks stalled, waiting or busy, XLE words (R538). -/
def PmcTick.fits (t : PmcTick) : Bool :=
  [(0, 1), (1, 3), (1, 4), (1, 6), (3, 6), (3, 10), (3, 11), (4, 0), (4, 1), (6, 3)].contains (t.cls, t.num) && decide (t.lvl < 3)

/-- An application record carries an application code and at most 20 bytes of DATA (R523, R524). -/
def LogReq.fits : LogReq → Bool
  | .submit => true
  | .application code rs t data =>
    decide (0xE000 ≤ code ∧ code ≤ 0xE0FF ∧ rs < 2 ^ 32 ∧ t < 2 ^ 64 ∧ data.length ≤ 20) && data.all fun b => decide (b < 256)
  | .chain lo hi => decide (lo ≤ hi ∧ hi < 2 ^ 32)

/-- The fields of SEM_CLAIM fit their widths (R580). -/
def ClaimReq.fits (q : ClaimReq) : Bool :=
  decide (q.feature < 256) && decide (q.resource < 65536) && decide (q.first < 4096) && decide (q.last < 4096)

/-- Whether a register has bits that a read clears (R15). -/
def readClears (a : Nat) : Bool := match Machine.rowOf a with | some r => decide (r.rc ≠ 0) | none => false

/-- A logic word with its opcode, IMM20, DST and slots is a legal encoding (R115). -/
def logicFits (o : Machine.Op) (imm : BitVec 20) (dst : Ref) (slots : List Ref) : Bool :=
  Machine.LogicIns.legal { op := o, imm := imm.toNat, dst := dst, slots := slots }

open Machine in
/-- Whether a command is well formed. -/
def Instr.wellFormed (i : Instr) : Bool :=
  match i with
  | .illegalInstruction _ _ word => decide (legalWord word = false)
  | .mov _ _ bd dst src => logicFits .mov bd dst ([src])
  | .ldi _ _ bd dst lit => logicFits .ldi bd dst ([lit])
  | .logicAdd _ _ bd dst s0 s1 => logicFits .add bd dst ([s0, s1])
  | .logicSub _ _ bd dst s0 s1 => logicFits .sub bd dst ([s0, s1])
  | .not _ _ bd dst src => logicFits .not bd dst ([src])
  | .sel _ _ bd dst cond t f => logicFits .sel bd dst ([cond, t, f])
  | .all _ _ bd dst slots => logicFits .all bd dst (slots)
  | .any _ _ bd dst slots => logicFits .any bd dst (slots)
  | .conf _ _ bd dst own slots => logicFits .conf bd dst (own :: slots)
  | .flank _ _ bd dst own slots => logicFits .flank bd dst (own :: slots)
  | .flreq _ _ own slots => logicFits .flreq 0 0 (own :: slots)
  | .lock _ _ bd dst own slots => logicFits .lock bd dst (own :: slots)
  | .unlock _ _ own slots => logicFits .unlock 0 0 (own :: slots)
  | .route _ _ own conds => logicFits .route 0 0 (own :: conds)
  | .rrel _ _ first own slots => logicFits .rrel first 0 (own :: slots)
  | .tmr _ _ dur dst run => logicFits .tmr dur dst ([run])
  | .edge _ _ bd dst src mem => logicFits .edge bd dst ([src, mem])
  | .carry _ _ recs => logicFits .carry 0 0 (recs)
  | .seal _ _ slots => logicFits .seal 0 0 (slots)
  | .skipf _ _ count cond => logicFits .skipf count 0 ([cond])
  | .skipt _ _ count cond => logicFits .skipt count 0 ([cond])
  | .endPass _ _ => logicFits .endp 0 0 ([])
  | .boundaryMarkerReceived l sender _ => decide (l ≠ sender)
  | .xleRecordReceived l sender _ => decide (l ≠ sender)
  | .vote canaryBad => decide (canaryBad < 8)
  | .outcomeRecord lost _ => decide (lost < 8)
  | .transmitSlot _ slot absent differ lead _ => decide (slot < 1024 ∧ absent < 8 ∧ differ < 8 ∧ 20000 ≤ lead)
  | .twinInputRecordSend absent differ => decide (absent < 8 ∧ differ < 8)
  | .compareRecordSend absent differ => decide (absent < 8 ∧ differ < 8)
  | .xleHeartbeatTimeout l sender => decide (l ≠ sender)
  | .xleLinkDown l1 l2 => decide (l1 ≠ l2)
  | .starFrameIngress _ port _ frame _ _ => decide (1 ≤ port ∧ port < 9 ∧ frame.fits = true)
  | .portUnblock _ port => decide (port < 9)
  | .coldFrameAtListeningCore _ port _ frame => decide (1 ≤ port ∧ port < 9 ∧ frame.fits = true)
  | .posteRestanteClaim _ port _ frame => decide (1 ≤ port ∧ port < 9 ∧ frame.fits = true)
  | .claimExpiry _ slot => decide (slot < 1024)
  | .laneFrameReceived _ slot => decide (slot < 1024)
  | .syncReceived _ slot => decide (slot < 2)
  | .linkDelayRequest _ port _ => decide (port < 9)
  | .markReceived _ port _ _ _ => decide (port < 9)
  | .linkDelayDiscard _ port => decide (port < 9)
  | .wanDatagramReceived port _ payload => decide (port < 65536 ∧ payload.all (fun b => decide (b < 256)) = true)
  | .twinFunctionProof fn _ => decide (fn < 4)
  | .roundTick _ ticks => decide (ticks.all (fun t => t.2.fits) = true)
  | .cutOffNotice _ groups _ => decide (groups < 8)
  | .downlinkFrameReceived _ _ mids => decide (mids.length = 27)
  | .inputDebounced _ input _ => decide (input < 81)
  | .currentLimitTrip _ cell branch => decide (cell < 27 ∧ branch < 3)
  | .feedbackSettle group => decide (group < 3)
  | .cellClear _ _ cell => decide (cell < 27)
  | .holdupCharged charge => decide (charge ≤ 100)
  | .startSequence inp => decide (inp.lanesBad < 8)
  | .fillComplete _ _ sramUs dramMs => decide (sramUs < 65536 ∧ dramMs < 65536)
  | .selfTestBlock block _ _ => decide (block < 17)
  | .selfTestAbort block _ => decide (block < 17)
  | .stampRequest _ _ v => decide (R.PWR_STAMP_REQ_REL.of v = 0)
  | .stampRelease _ _ v => decide (R.PWR_STAMP_REQ_REL.of v = 1)
  | .groupOnStampTimeout tag => decide (tag < 8)
  | .acquire _ _ n lease => decide (n < 64 ∧ lease < 65536)
  | .release _ _ n => decide (n < 64)
  | .renew _ _ n lease => decide (n < 64 ∧ lease < 65536)
  | .hand _ _ n ticket lease => decide (n < 64 ∧ ticket < 65536 ∧ lease < 65536)
  | .recover _ _ n => decide (n < 64)
  | .leaseExpiry _ n => decide (n < 64)
  | .claim _ _ req => decide (req.fits = true)
  | .claimRelease _ _ req => decide (req.fits = true)
  | .getCert _ addr len => decide (addr < 2 ^ 24 ∧ addr % 64 = 0 ∧ len < 65536)
  | .attest _ addr len => decide (addr < 2 ^ 24 ∧ addr % 64 = 0 ∧ len < 65536)
  | .imgCheck _ addr len _ => decide (addr < 2 ^ 24 ∧ addr % 64 = 0 ∧ len < 65536)
  | .imgApply _ addr len _ => decide (addr < 2 ^ 24 ∧ addr % 64 = 0 ∧ len < 65536)
  | .gcmSeal _ addr len _ => decide (addr < 2 ^ 24 ∧ addr % 64 = 0 ∧ len < 65536)
  | .gcmOpen _ addr len => decide (addr < 2 ^ 24 ∧ addr % 64 = 0 ∧ len < 65536)
  | .keyInstall _ addr len _ => decide (addr < 2 ^ 24 ∧ addr % 64 = 0 ∧ len < 65536)
  | .ownerCmd _ addr len _ => decide (addr < 2 ^ 24 ∧ addr % 64 = 0 ∧ len < 65536)
  | .logMac _ addr len req => decide (addr < 2 ^ 24 ∧ addr % 64 = 0 ∧ len < 65536 ∧ req.fits = true)
  | .logRateSelect _ _ v => decide (R.LOG_RATE_WR.of v = 0)
  | .logRateApply _ _ v => decide (R.LOG_RATE_WR.of v = 1)
  | .pmcSelWrite _ _ n _ => decide (n < 32)
  | .crcInit _ _ u _ => decide (u < 8)
  | .crcValWrite _ _ u _ => decide (u < 8)
  | .crcEnable _ _ u _ => decide (u < 8)
  | .memoryInject _ _ v => decide (R.TST_INJ_KIND.of v = 1 ∨ R.TST_INJ_KIND.of v = 2)
  | .comparatorInject _ _ v => decide (R.TST_INJ_KIND.of v = 3)
  | .taskConfigWrite _ _ addr _ => decide (addr = R.TSK_RSET ∨ addr ∈ (List.range 16).map R.TSK_CFG)
  | .flush _ _ v => decide (R.RTE_CTRL_FLUSH.of v = 1)
  | .engineEnable _ _ v => decide (R.RTE_CTRL_FLUSH.of v = 0)
  | .dprevWrite _ _ task _ => decide (task < 16)
  | .votedWrite _ _ addr _ => decide (isVoted addr = true)
  | .rcRead _ _ _ addr => decide (readClears addr = true)
  | .registerWrite _ _ addr _ => decide ((rowOf (busKey addr)).isSome = true)
  | .add _ _ _ _ _ | .sub _ _ _ _ _ | .adds _ _ _ _ _ | .subs _ _ _ _ _ | .addv _ _ _ _ _ | .subv _ _ _ _ _
  | .cmp _ _ _ _ | .and _ _ _ _ _ | .or _ _ _ _ _ | .xor _ _ _ _ _ | .andn _ _ _ _ _ | .slt _ _ _ _ _ | .sltu _ _ _ _ _
  | .sll _ _ _ _ _ | .srl _ _ _ _ _ | .sra _ _ _ _ _ | .ror _ _ _ _ _ | .mul _ _ _ _ _ | .mulh _ _ _ _ _
  | .mulhu _ _ _ _ _ | .mulv _ _ _ _ _ | .div _ _ _ _ _ | .divu _ _ _ _ _ | .rem _ _ _ _ _ | .remu _ _ _ _ _
  | .clz _ _ _ _ | .popc _ _ _ _ | .addi _ _ _ _ _ | .andi _ _ _ _ _ | .ori _ _ _ _ _ | .xori _ _ _ _ _
  | .slti _ _ _ _ _ | .sltiu _ _ _ _ _ | .qset _ _ _ _ _ | .qins _ _ _ _ _ | .shi _ _ _ _ _ _ | .cmpi _ _ _ _
  | .ld _ _ _ _ _ | .lw _ _ _ _ _ | .lws _ _ _ _ _ | .lh _ _ _ _ _ | .lhs _ _ _ _ _ | .lb _ _ _ _ _ | .lbs _ _ _ _ _
  | .sd _ _ _ _ _ | .sw _ _ _ _ _ | .sh _ _ _ _ _ | .sb _ _ _ _ _ | .ll _ _ _ _ | .sc _ _ _ _ _ | .beq _ _ _ _ _
  | .bne _ _ _ _ _ | .blt _ _ _ _ _ | .bge _ _ _ _ _ | .bltu _ _ _ _ _ | .bgeu _ _ _ _ _ | .bc _ _ _ _ | .j _ _ _
  | .jal _ _ _ | .jalr _ _ _ _ _ | .fence _ _ | .fenceio _ _ | .ifence _ _ | .syscall _ _ | .brk _ _ | .eret _ _
  | .wfi _ _ | .wfiWake _ _ | .mfc _ _ _ _ | .mtc _ _ _ _ | .interruptTaken _ _ | .epass _ _ _ _ | .ewait _ _ _ _
  | .ewaitReturn _ _ | .epoll _ _ _ _ | .ecancel _ _ _ _ | .passStart _ | .lookaheadBudgetReached _
  | .instructionCommit _ | .engineCheckFailure _ _ | .preemption _ | .passResume _ | .passAgeing _ _ | .mgmtReceived _ | .coldReceived
  | .roundSetBoundary _ | .gatherClose _ | .sortingExchange | .frameCopy | .agreement | .heldFlag | .inputPosting
  | .twinInputRecord _ | .pairCombination | .sealDeadline _ | .dispatchStart | .writeClose _
  | .stateCopyComplete _ | .cat3TelegramSend | .configRecordCompare _ | .compareRecord _
  | .twinCompare _ | .listenTimeout _ | .syncLoss | .silentTimeout | .leaderTakeover | .protocolEnable _ _ _
  | .scheduleRequest _ _ _ | .slotClaimRequest _ _ | .slotClaimRelease _ _ | .scheduleTableWrite _ _ _
  | .guardianStreamWrite _ _ _ | .holdoverEntry | .ppsEdge _ _ | .ppsLoss | .extTimeInvalid | .ppsOutPulse
  | .ptpMessage _ | .timExtWrite _ _ _ | .helloReceived _ | .helloTimeout | .taskTransfer _ | .roleSwapRequest
  | .updateRecord _ | .handover _ | .twinDetach _ _ | .twinSwapRequest _ _ | .downlinkFrameSend
  | .configFrameReceived _ _ | .uplinkFrameReceived _ _ _ | .controllerLinkWatchdog _ | .fieldSupplyUnknown _ _
  | .fieldSupplyRecovered _ _ | .sagLatchSet _ _ | .sagLatchRelease _ _ | .controllerSupplyLoss _ | .testPulseStart
  | .pulseEvaluation _ | .darkPulseEnd | .lightPulseEnd _ | .laneEnableWrite _ _ _ | .d6SafeSwitchOff
  | .vinInterruptionBegin _ | .vinInterruptionEnd _ _ | .powerFail | .storeExhausted | .vinAppear _
  | .standbyToStarting | .imageLoad _ _ | .regulatorFault _ | .stampGrant | .domainOffRequest _ _ _
  | .shutdownRestart _ _ | .shutdownStandby _ _ | .orderlyShutdown _ | .rstNLow | .rstNHeldLong | .rstNRelease _
  | .operatingMinute | .tamperSample _ _ _ | .scrubBurst _ | .sramScrubStep _ | .scrubPassLate _ _
  | .grantRevocation _ _ _ | .dramCutOff _ | .engineCutOff _ | .arbPrioWrite _ _ _ | .takeOwnership _ _
  | .releaseOwnership _ | .setUpdateLock _ | .clearUpdateLock _ | .installConnectionKey _ | .commitChangeOver _
  | .enterCommissioning _ | .leaveCommissioning _ | .commissioningCommandDrop | .mailboxResponse _ | .updLoad _ _
  | .updCommit _ _ | .updAbort _ _ | .changeOverTimeout | .firmwareMinimumRaise | .starFirmwareApply _ _ | .loneRecord
  | .recordWrite | .rateWindowEnd | .logClear _ _ | .eraseComplete | .logFreezeWrite _ _ _ | .freezeTimeout
  | .logWin0Read _ _ _ | .logWin7Read _ _ _ | .pmcUacWrite _ _ _ | .tstToken _ _ _ | .tstDelayWrite _ _ _
  | .tstBpWrite _ _ _ | .cmpInjectWrite _ _ _ | .cmpScopeWrite _ _ _ | .xleRetrain _ _ _ _ | .haltRequest _ _
  | .haltResume _ _ | .tskForceWrite _ _ _ | .imgBaseWrite _ _ _ | .ctxBaseWrite _ _ _ | .twinLinkChange _ _
  | .selfTestResume _ | .low90Change _ => true

end Sys2Proof
end

