-- ==== Sys2Proof/Tests/Slice0.lean ====
section
/-! SUPPORT. Tests/Slice0.lean: what the well-formedness check refuses, logic words written out from the encodings of chapter 03, and,
for every statement with hypotheses, a state and operands that meet them. Expected results come from the spec, by hand. -/
open Sys2Proof Sys2Proof.Machine
namespace Sys2Proof.Tests

/-! ## Small states -/

/-- A lane whose cores have been released. -/
def tLane : LaneState := { resetLane with running := true }

/-- Every lane runs, and nothing else has happened since reset. -/
def tS : State := { State.reset with lanes := .all tLane }

/-- The state with core 0 of lane A changed. -/
def tCore (f : Core → Core) : State := tS.onCore .a .c0 f

/-- `Core.Ok` as a computation. -/
def coreOk (x : Core) : Bool := decide (x.g 0 = 0) && decide (bits x.psw.toNat 1 0 ≠ 3)

/-- `LaneState.Ok` as a computation. -/
def laneOk (x : LaneState) : Bool :=
  coreOk x.core0 && coreOk x.core1 && mapWf memDefault x.mem && mapWf memDefault x.chk && mapWf resetOf x.regs
    && decide (x.eng.queue.length ≤ 4)

theorem laneOk_ok {x : LaneState} (h : laneOk x = true) : x.Ok := by
  simp only [laneOk, coreOk, Bool.and_eq_true, decide_eq_true_eq] at h
  exact ⟨⟨h.1.1.1.1.1.1, h.1.1.1.1.1.2⟩, ⟨h.1.1.1.1.2.1, h.1.1.1.1.2.2⟩, h.1.1.1.2, h.1.1.2, h.1.2, h.2⟩

/-- A state meets the invariant when the computation says so. -/
theorem inv_of {s : State} (h : (laneOk s.lanes.a && laneOk s.lanes.b && laneOk s.lanes.c && mapWf resetOf s.modRegs) = true) :
    s.Inv := by
  simp only [Bool.and_eq_true] at h
  exact ⟨fun l => match l with | .a => laneOk_ok h.1.1.1 | .b => laneOk_ok h.1.1.2 | .c => laneOk_ok h.1.2, h.2⟩

/-- What holds of every listed lane holds of every lane. -/
theorem lanes_of {p : Lane → Prop} (h : p .a ∧ p .b ∧ p .c) : ∀ l, p l := fun l =>
  match l with | .a => h.1 | .b => h.2.1 | .c => h.2.2

theorem ready_of {s : State} {l : Lane} {c : CoreId} {v : Level}
    (h : (s.canIssue l c && !(s.core l c).takesInterrupt && (s.fetch l c).1.isNone && v.le (s.core l c).level) = true) :
    Ready s l c v := by
  simp only [Bool.and_eq_true, Bool.not_eq_true', Option.isNone_iff_eq_none] at h
  exact ⟨h.1.1.1, h.1.1.2, h.1.2, h.2⟩

/-! ## Witnesses: control cores -/

/-- A lane's core 0 with g1 and g2 as given. -/
def tG (a b : Word) : State := tCore fun x => (x.setG 1 a).setG 2 b

/-- The core's level, interrupt enable, EXL and flags as given. -/
def tPsw (v : Word) : State := tCore fun x => { x with psw := v }

/-- Every address readable, writable and executable at S and U. -/
def openCore (x : Core) : Core := { x with rgnB := x.rgnB.set 0 0x3F, rgnL := x.rgnL.set 0 0xFFFFFFC1 }

/-- The core at level U with every region open. -/
def tUser : State := tCore fun x => { openCore x with psw := 0 }

theorem tS_ready (v : Level) (h : v = .u ∨ v = .s ∨ v = .k) : Ready tS .a .c0 v := by
  rcases h with rfl | rfl | rfl <;> exact ready_of (by decide)

theorem witness_RegisterArithmetic : (∃ (s : State) (l : Lane) (c : CoreId), Ready s l c .u ∧ s.core l c ≠ s.core l c.other ∧ (s.core l c).level = .u) :=
  ⟨tUser, .a, .c0, ready_of (by decide), by decide, by decide⟩

theorem witness_ShiftsImmediatesCounts : ∃ (s : State) (l : Lane) (c : CoreId) (ga : GReg), Ready s l c .u ∧ (s.core l c).g ga = 0 :=
  ⟨tS, .a, .c0, 3, ready_of (by decide), by decide⟩

/-- The trapping arithmetic at both ends of its range: one state with the exact result the largest or the least, one just beyond. -/
theorem witness_TrappingArithmetic :
    (let x := (tG 0x7FFFFFFFFFFFFFFE 1).core .a .c0;
      Ready (tG 0x7FFFFFFFFFFFFFFE 1) .a .c0 .u ∧ (x.g 1).toInt + (x.g 2).toInt = 2 ^ 63 - 1)
    ∧ (let x := (tG 0x7FFFFFFFFFFFFFFF 1).core .a .c0;
      Ready (tG 0x7FFFFFFFFFFFFFFF 1) .a .c0 .u ∧ x.exl = false ∧ 2 ^ 63 ≤ (x.g 1).toInt + (x.g 2).toInt)
    ∧ (let x := (tG 0x8000000000000000 1).core .a .c0;
      Ready (tG 0x8000000000000000 1) .a .c0 .u ∧ x.exl = false ∧ (x.g 1).toInt - (x.g 2).toInt < -(2 ^ 63)
        ∧ (x.g 1).toInt * (x.g 2).toInt = -(2 ^ 63) ∧ (x.g 1).toInt.tdiv (x.g 2).toInt = -(2 ^ 63))
    ∧ (let x := (tG 0x8000000000000000 0xFFFFFFFFFFFFFFFF).core .a .c0;
      Ready (tG 0x8000000000000000 0xFFFFFFFFFFFFFFFF) .a .c0 .u ∧ x.exl = false ∧ (x.g 2).toInt ≠ 0 ∧ 2 ^ 63 ≤ (x.g 1).toInt * (x.g 2).toInt
        ∧ 2 ^ 63 ≤ (x.g 1).toInt.tdiv (x.g 2).toInt)
    ∧ (let x := (tG 5 0).core .a .c0;
      Ready (tG 5 0) .a .c0 .u ∧ x.exl = false ∧ (x.g 2).toInt = 0) := by
  refine ⟨⟨ready_of ?_, ?_⟩, ⟨ready_of ?_, ?_⟩, ⟨ready_of ?_, ?_⟩, ⟨ready_of ?_, ?_⟩, ⟨ready_of ?_, ?_⟩⟩ <;> decide

theorem witness_BranchesAndConditions : ∃ (s : State) (l : Lane) (c : CoreId) (ga gb : GReg) (cond : BitVec 4),
    Ready s l c .u ∧ cond ≠ 15 ∧ (s.core l c).g ga ≠ (s.core l c).g gb :=
  ⟨tG 5 7, .a, .c0, 1, 2, 14, ready_of (by decide), by decide, by decide⟩

theorem witness_JumpsAndFences :
    (∃ (s : State) (l : Lane) (c : CoreId) (ga : GReg) (imm : BitVec 16), Ready s l c .u
      ∧ ((s.core l c).g ga + BitVec.ofInt 64 imm.toInt).toNat % 4 = 0)
    ∧ (∃ (s : State) (l : Lane) (c : CoreId) (ga : GReg) (imm : BitVec 16), Ready s l c .u
      ∧ ((s.core l c).g ga + BitVec.ofInt 64 imm.toInt).toNat % 4 ≠ 0 ∧ (s.core l c).exl = false)
    ∧ (∃ (s : State) (l : Lane) (c : CoreId), Ready s l c .u ∧ (s.core l c).level = .k) :=
  ⟨⟨tG 8 0, .a, .c0, 1, 0xFFFC, ready_of (by decide), by decide⟩,
   ⟨tG 8 0, .a, .c0, 1, 0xFFFE, ready_of (by decide), by decide, by decide⟩,
   ⟨tS, .a, .c0, ready_of (by decide), by decide⟩⟩

theorem witness_ExceptionEntry :
    (∃ (s : State) (l : Lane) (c : CoreId), Ready s l c .u ∧ (s.core l c).exl = false ∧ (s.core l c).level = .k)
    ∧ (∃ word : BitVec 32, legalWord word = false)
    ∧ (∃ (s : State) (l : Lane) (c : CoreId), s.Inv ∧ Ready s l c .u ∧ (s.core l c).exl = true) :=
  ⟨⟨tS, .a, .c0, ready_of (by decide), by decide, by decide⟩, ⟨0, by decide⟩,
   ⟨tPsw 0xA, .a, .c0, inv_of (by decide), ready_of (by decide), by decide⟩⟩

theorem witness_PrivilegeAndReturn :
    (∃ (s : State) (l : Lane) (c : CoreId), Ready s l c .u ∧ (s.core l c).exl = false ∧ (s.core l c).level ≠ .k
      ∧ (s.core l c).level = .u)
    ∧ (∃ (s : State) (l : Lane) (c : CoreId), Ready s l c .k ∧ bits (s.core l c).epsw.toNat 1 0 ≠ 3)
    ∧ (∃ (s : State) (l : Lane) (c : CoreId), Ready s l c .k ∧ bits (s.core l c).epsw.toNat 1 0 = 3 ∧ (s.core l c).exl = false) :=
  ⟨⟨tUser, .a, .c0, ready_of (by decide), by decide, by decide, by decide⟩,
   ⟨tS, .a, .c0, ready_of (by decide), by decide⟩,
   ⟨tCore fun x => { x with epsw := 3 }, .a, .c0, ready_of (by decide), by decide, by decide⟩⟩

/-- Sources 2 and 5 pending and enabled, IE as given, the core waiting or not. -/
def tIrq (ie : Bool) (w : Wait) : State :=
  tCore fun x => { x with ipend := 0x24, imask := 0x3F, psw := if ie then 6 else 2, wait := w }

theorem witness_InterruptsAndWaiting :
    ((tIrq true .none).canIssue .a .c0 = true ∧ ((tIrq true .none).core .a .c0).takesInterrupt = true
      ∧ ((tIrq true .none).core .a .c0).pendingSource = some 2)
    ∧ (tS.canIssue .a .c0 = true ∧ Ready tS .a .c0 .s ∧ (tS.core .a .c0).pendingSource = none)
    ∧ (Ready (tIrq false .none) .a .c0 .s ∧ ((tIrq false .none).core .a .c0).pendingSource ≠ none)
    ∧ (((tIrq false .wfi).lane .a).running = true ∧ ((tIrq false .wfi).core .a .c0).wait = .wfi
      ∧ ((tIrq false .wfi).core .a .c0).pendingSource = some 2 ∧ ((tIrq false .wfi).core .a .c0).takesInterrupt = false)
    ∧ (((tIrq true .wfi).core .a .c0).wait = .wfi ∧ ((tIrq true .wfi).core .a .c0).pendingSource = some 2
      ∧ ((tIrq true .wfi).core .a .c0).takesInterrupt = true) := by
  refine ⟨⟨?_, ?_, ?_⟩, ⟨?_, ready_of ?_, ?_⟩, ⟨ready_of ?_, ?_⟩, ⟨?_, ?_, ?_, ?_⟩, ⟨?_, ?_, ?_⟩⟩ <;> decide

theorem witness_ControlRegisterMoves :
    (∃ (s : State) (l : Lane) (c : CoreId) (n : Nat), Ready s l c .u ∧ (s.core l c).level = .k ∧ ctlListed n = true ∧ n ≠ 9 ∧ n ≠ 0xA)
    ∧ (∃ (s : State) (l : Lane) (c : CoreId) (g : GReg) (n : Nat), Ready s l c .u ∧ (s.core l c).level = .k ∧ ctlListed n = true
      ∧ n ≠ 0xA ∧ n ≠ 8 ∧ (s.core l c).g g &&& BitVec.ofNat 64 (ctlReserved n) = 0 ∧ n = 0 ∧ bits ((s.core l c).g g).toNat 1 0 ≠ 3)
    ∧ (∃ (s : State) (l : Lane) (c : CoreId), Ready s l c .u ∧ (s.core l c).level ≠ .k)
    ∧ (∃ (s : State) (l : Lane) (c : CoreId) (n : Nat), Ready s l c .u ∧ (s.core l c).exl = false ∧ ctlListed n = false ∧ n < 4096)
    ∧ (∃ (s : State) (l : Lane) (c : CoreId) (n : Nat), Ready s l c .u ∧ (s.core l c).exl = false ∧ (s.core l c).level ≠ .k
      ∧ ctlListed n = true ∧ n ≠ 0 ∧ n ≠ 8 ∧ n ≠ 9) :=
  ⟨⟨tS, .a, .c0, 0, ready_of (by decide), by decide, by decide, by decide, by decide⟩,
   ⟨tG 0xF00E 0, .a, .c0, 1, 0, ready_of (by decide), by decide, by decide, by decide, by decide, by decide, by decide, by decide⟩,
   ⟨tUser, .a, .c0, ready_of (by decide), by decide⟩,
   ⟨tS, .a, .c0, 4095, ready_of (by decide), by decide, by decide, by decide⟩,
   ⟨tUser, .a, .c0, 1, ready_of (by decide), by decide, by decide, by decide, by decide, by decide, by decide⟩⟩

/-- The last word of SRAM holds 0x8877665544332211, good; g1 is its address. -/
def tWord : State := (tG 0xFFFFF8 0x1122334455667788).onLane .a fun x => x.putWord 0xFFFFF8 0x8877665544332211

theorem witness_Loads :
    (∃ (s : State) (l : Lane) (c : CoreId) (ga : GReg) (imm : BitVec 16) (w : Word), Ready s l c .u ∧
      let a := ((s.core l c).g ga + BitVec.ofInt 64 imm.toInt).toNat
      a % 8 = 0 ∧ (s.core l c).regionOk a .read = true ∧ isSram a = true
        ∧ rsDecode (((s.fetched l c).lane l).data (a / 8 * 8)) (((s.fetched l c).lane l).check (a / 8 * 8)) = .clean w
        ∧ ∀ h ∈ ((s.fetched l c).lane l).bus, h.path ≠ .load c)
    ∧ (∃ (s : State) (l : Lane) (c : CoreId) (ga : GReg) (imm : BitVec 16) (w : Word), Ready s l c .u ∧
      let a := ((s.core l c).g ga + BitVec.ofInt 64 imm.toInt).toNat
      a % 8 = 7 ∧ (s.core l c).regionOk a .read = true ∧ isDram a = true
        ∧ rsDecode (((s.fetched l c).lane l).data (a / 8 * 8)) (((s.fetched l c).lane l).check (a / 8 * 8)) = .clean w
        ∧ ∀ h ∈ ((s.fetched l c).lane l).bus, h.path ≠ .load c)
    ∧ (∃ (s : State) (l : Lane) (c : CoreId) (ga : GReg) (imm : BitVec 16), Ready s l c .u ∧
      let a := ((s.core l c).g ga + BitVec.ofInt 64 imm.toInt).toNat
      a % 8 = 0 ∧ isBlock a = true ∧ (s.fetched l c).regRefusal l c a false = none) :=
  ⟨⟨tWord, .a, .c0, 1, 0, 0x8877665544332211, ready_of (by decide), by decide, by decide, by decide, by decide, by decide⟩,
   ⟨tG 0xC0000000 0, .a, .c0, 1, 0xFFFF, 0, ready_of (by decide), by decide, by decide, by decide, by decide, by decide⟩,
   ⟨tG 0xF0000000 0, .a, .c0, 1, 0, ready_of (by decide), by decide, by decide, by decide⟩⟩

theorem witness_MemoryStores :
    ∃ (s : State) (l : Lane) (c : CoreId) (ga : GReg) (imm : BitVec 16), s.Inv ∧ Ready s l c .u ∧
      let a := ((s.core l c).g ga + BitVec.ofInt 64 imm.toInt).toNat
      a % 8 = 0 ∧ (s.core l c).regionOk a .write = true ∧ isSram a = true ∧ (s.fetched l c).storeBarred l a = false
        ∧ (∀ h ∈ ((s.fetched l c).lane l).bus, h.path ≠ .store c) ∧ ∃ w, rsDecode (((s.fetched l c).lane l).data (a / 8 * 8)) (((s.fetched l c).lane l).check (a / 8 * 8)) = .clean w :=
  ⟨tWord, .a, .c0, 1, 0, inv_of (by decide), ready_of (by decide), by decide, by decide, by decide, by decide, by decide,
    0x8877665544332211, by decide⟩

/-- The same word, reserved by core 0. -/
def tResv : State := tWord.onCore .a .c0 fun x => { x with resv := some 0xFFFFF8 }

theorem witness_ReservedAccesses :
    (∃ (s : State) (l : Lane) (c : CoreId) (ga : GReg) (w : Word), s.Inv ∧ Ready s l c .u ∧
      let a := ((s.core l c).g ga).toNat
      a % 8 = 0 ∧ isSram a = true ∧ (s.core l c).regionOk a .read = true
        ∧ rsDecode (((s.fetched l c).lane l).data a) (((s.fetched l c).lane l).check a) = .clean w
        ∧ (s.core l c).regionOk a .write = true ∧ (s.core l c).resv = some ((s.core l c).g ga) ∧ (s.fetched l c).storeBarred l a = false
        ∧ ∀ h ∈ ((s.fetched l c).lane l).bus, h.path ≠ .load c ∧ h.path ≠ .store c)
    ∧ (∃ (s : State) (l : Lane) (c : CoreId) (ga : GReg), s.Inv ∧ Ready s l c .u ∧
      let a := ((s.core l c).g ga).toNat
      a % 8 = 0 ∧ isSram a = true ∧ (s.core l c).regionOk a .write = true ∧ (s.core l c).resv ≠ some ((s.core l c).g ga)
        ∧ ∀ h ∈ ((s.fetched l c).lane l).bus, h.path ≠ .load c ∧ h.path ≠ .store c)
    ∧ (∃ (s : State) (l : Lane) (c : CoreId) (ga : GReg), s.Inv ∧ Ready s l c .u ∧
      let a := ((s.core l c).g ga).toNat
      (s.core l c).exl = false ∧ a % 8 = 0 ∧ isBlock a = true ∧ (s.fetched l c).regRefusal l c a false = none) :=
  ⟨⟨tResv, .a, .c0, 1, 0x8877665544332211, inv_of (by decide), ready_of (by decide), by decide, by decide, by decide, by decide,
    by decide, by decide, by decide, by decide⟩,
   ⟨tWord, .a, .c0, 1, inv_of (by decide), ready_of (by decide), by decide, by decide, by decide, by decide, by decide⟩,
   ⟨tG 0xF0000000 0, .a, .c0, 1, inv_of (by decide), ready_of (by decide), by decide, by decide, by decide, by decide⟩⟩

/-- Core 0 of lane A at level U with one executable region, the first 64 bytes; g1 is 0x1000. -/
def tTight : State := tCore fun x =>
  { x.setG 1 0x1000 with psw := 0, rgnB := x.rgnB.set 0 0x4, rgnL := x.rgnL.set 0 0x1 }

/-- Damage that waits for the next word on its way to core 0 of lane A. -/
def tBus (pat : BitVec 88) : State := tWord.onLane .a fun x => { x with bus := [⟨.load .c0, pat⟩] }

/-- One symbol damaged is corrected, two are detected (R277). -/
theorem witness_DataChecks_bus : ∀ pat, pat = 1 ∨ pat = 0x101 →
    let s := tBus pat
    let a := ((s.core .a .c0).g 1 + BitVec.ofInt 64 (0 : BitVec 16).toInt).toNat
    s.Inv ∧ Ready s .a .c0 .u ∧ a % 8 = 0 ∧ (s.core .a .c0).regionOk a .read = true ∧ isSram a = true
      ∧ rsDecode (((s.fetched .a .c0).lane .a).data a) (((s.fetched .a .c0).lane .a).check a) = .clean 0x8877665544332211
      ∧ ((s.fetched .a .c0).lane .a).bus = [⟨.load .c0, pat⟩] ∧ (s.core .a .c0).exl = false
      ∧ busArrive 0x8877665544332211 pat = (if pat = 1 then .corrected 0x8877665544332211 else .detected) := by
  rintro pat (rfl | rfl) <;>
    exact ⟨inv_of (by decide), ready_of (by decide), by decide, by decide, by decide, by decide, by decide, by decide, by decide⟩

theorem witness_DataChecks :
    (∃ (s : State) (l : Lane) (c : CoreId) (ga : GReg) (imm : BitVec 16), Ready s l c .u ∧ (s.core l c).exl = false ∧
      ((s.core l c).g ga + BitVec.ofInt 64 imm.toInt).toNat % 2 ≠ 0)
    ∧ (∃ (s : State) (l : Lane) (c : CoreId) (ga : GReg), Ready s l c .u ∧ (s.core l c).exl = false ∧
      let a := ((s.core l c).g ga + BitVec.ofInt 64 (0 : BitVec 16).toInt).toNat
      a % 8 = 0 ∧ (s.core l c).regionOk a .read = false ∧ (s.core l c).regionOk a .write = false)
    ∧ (∃ (s : State) (l : Lane) (c : CoreId) (ga : GReg), Ready s l c .u ∧ (s.core l c).exl = false ∧
      let a := ((s.core l c).g ga + BitVec.ofInt 64 (0 : BitVec 16).toInt).toNat
      a % 4 = 0 ∧ (s.core l c).regionOk a .read = true ∧ (s.core l c).regionOk a .write = true ∧ isSram a = false ∧ isDram a = false
        ∧ (s.fetched l c).levelRefusal l c a false = none ∧ (s.fetched l c).levelRefusal l c a true = none) :=
  ⟨⟨tS, .a, .c0, 0, 1, ready_of (by decide), by decide, by decide⟩,
   ⟨tTight, .a, .c0, 1, ready_of (by decide), by decide, by decide, by decide, by decide⟩,
   ⟨tG 0xF0000000 0, .a, .c0, 1, ready_of (by decide), by decide, by decide, by decide, by decide, by decide, by decide,
     by decide, by decide⟩⟩

/-! ## Witnesses: the engine and element logic -/

/-- The next state of an outcome. -/
def after (o : Host.Outcome State Fault Refusal) : State := match o with | .next t => t | _ => State.reset

/-- A task whose footprint is elements 0 to 2 (all words of element 2 but the first are scratch) and routes 0 and 1. -/
def tTask : TaskImage :=
  { noTask 0 with
    footprint := [⟨false, 0, 0⟩, ⟨false, 1, 0⟩, ⟨false, 2, 0xFFFE⟩, ⟨true, 0, 0⟩, ⟨true, 1, 0⟩]
    words := [(mkRef 0 0 2, 0, 5), (mkRef 0 0 3, 0, 6)] }

/-- A station image with the given tasks. -/
def tBody (ts : List TaskImage) : StationBody :=
  { node0 := 1, node1 := 0, period := 20, codingA := ⟨0x40000001, 0x40000003, 0x40000007⟩, tasks := ts, inputMap := [], inbound := []
    outbound := [], cells := [], approach := [], schedules := [], wanPort := 0, ppsIn := false, ptpEn := false, appCodes := [] }

/-- An image that holds a body. -/
def tImage (b : StationBody) : Image :=
  { magic := 0x4B4F4C53, fmt := 1, kind := 2, amend := false, serialBound := false, hwtype := 0xCB730001, secver := 1, serial := 0
    base := 0, length := 0, bodyHash := 7, twinProto := 1, nsec := 0, sections := [], sectionCrcs := [], header := [], body := []
    sigs := [], station := some b }

/-- A run at its first word with the given temporaries. -/
def tRun (temps : List (Nat × Val)) : Run :=
  { off := 0, window := [], temps := temps, written := [], acc := accZero, bank := false, dprev := 0, streamed := 0, idone := 0
    nhints := 0, look := (0, 0, 0) }

/-- A pass of task 0 of a kind, in a phase. -/
def tPass (kind prio : Nat) (ph : Phase) : Pass :=
  { ticket := BitVec.ofNat 64 (2 ^ 48 + kind), core := .c0, seq := 1, raised := 0, phase := ph
    desc := { prio := prio, task := 0, kindRaw := kind, logicBase := 0x40000000, logicEnd := 0x40001000, stateBase := 0
              dsig := if kind = 2 then 3 else 0, sealOut := 0x800000, hintOut := if kind = 3 then 0x900000 else 0, reservedOk := true } }

/-- A state with the task's image in force, the passes held by lane A's engine, and words of memory as listed. -/
def tEng (ps : List Pass) (mem : List (Nat × Nat)) : State :=
  mem.foldl (fun s m => s.onLane .a fun x => x.putWord m.1 (BitVec.ofNat 64 m.2))
    ({ ((tS.wr .a (R.TSK_CFG_MULT 0) 1).wr .a R.TSK_RSET_PERIOD 20) with
      upd := { tS.upd with active := some (tImage (tBody [tTask])) } }.onEng .a fun e => { e with queue := ps, submitted := 1 })

/-- The words of an instruction at the first logic word. -/
def tCode (i : LogicIns) : List (Nat × Nat) := i.encode.zipIdx.map fun w => (0x40000000 + 8 * w.2, w.1.toNat)

/-- A plain pass runs with the temporaries; the plain words hold the values, and the words of an instruction stand in DRAM. -/
def tLogic (temps : List (Nat × Nat)) (mem : List (Ref × Nat)) (i : LogicIns) : State :=
  tEng [tPass 1 3 (.running (tRun (temps.map fun t => (t.1, ⟨BitVec.ofNat 64 t.2, 1⟩))))] ((mem.map fun m => (refOffset m.1, m.2)) ++ tCode i)

/-- The words in memory change no image. -/
theorem tLogic_taskImg (ts : List (Nat × Nat)) (mem : List (Ref × Nat)) (i : LogicIns) (t : Nat) :
    (tLogic ts mem i).taskImg t = (tEng [] []).taskImg t := by
  have h : (tLogic ts mem i).upd = (tEng [] []).upd := by
    unfold tLogic tEng
    exact (foldl_same State.upd (fun _ _ => State.onLane_upd ..) _).trans rfl
  unfold State.taskImg State.taskImage State.station
  rw [h]

/-- END. -/
def tEnd : LogicIns := { op := .endp, imm := 0, dst := 0, slots := [] }

/-- The run of that pass. -/
def tR (temps : List (Nat × Nat)) : Run := tRun (temps.map fun t => (t.1, ⟨BitVec.ofNat 64 t.2, 1⟩))

/-- The pass itself. -/
def tP (temps : List (Nat × Nat)) : Pass := tPass 1 3 (.running (tR temps))

/-- A temporary. -/
def tT (n : Nat) : Ref := mkRef 2 n 0

theorem holds_temp {s : State} {l : Lane} {p : Pass} {r : Run} {ref : Ref} {n : Nat} (v : Val) (hs : n < 2 ^ 32)
    (ht : refTemp ref = true) (ha : assoc r.temps (refId ref) = some v) (hv : v.raw = (s.seen l p r).enc n v.sig) :
    Holds s l p r ref n := ⟨hs, fun _ => ⟨v, ha, hv⟩, fun h => absurd (ht.symm.trans h) (by decide)⟩

theorem holds_word {s : State} {l : Lane} {p : Pass} {r : Run} {ref : Ref} {n : Nat} (w : Word) (hs : n < 2 ^ 32)
    (ht : refTemp ref = false) (hf : inFoot (s.taskImg p.desc.task) (refBare ref) = true)
    (hd : (let a := p.desc.stateBase + refOffset (refBare ref) + (if p.desc.kindRaw = 2 then 8 else 0)
      rsDecode ((s.lane l).data (a / 8 * 8)) ((s.lane l).check (a / 8 * 8))) = .clean w)
    (hv : (if p.desc.kindRaw = 2 ∧ !r.written.contains (refBare ref) then
      w + BitVec.ofNat 64 p.desc.dsig - BitVec.ofNat 64 r.dprev else w) = (s.seen l p r).enc n ((s.seen l p r).sig (refBare ref))) :
    Holds s l p r ref n := ⟨hs, fun h => absurd (ht.symm.trans h) (by decide), fun _ => ⟨hf, w, hd, hv⟩⟩

theorem oldest_of {s : State} {l : Lane} {p : Pass} {r : Run} {off : Nat} (h1 : (s.eng l).running = some (p, r))
    (h2 : p.desc.kindRaw = 1 ∨ p.desc.kindRaw = 2 ∧ 0 < s.codingA l ∧ s.codingA l < 2 ^ 31) (h3 : r.window = []) (h4 : off = r.off)
    (h5 : p.desc.logicBase + 8 * off < p.desc.logicEnd) (h6 : (s.lane l).streamWaits = false)
    (h7 : (s.lane l).bus.find? (fun h => h.path == .engineRead) = none) : Oldest s l p r off :=
  ⟨h1, h2.imp id And.left, fun h => (h2.resolve_left (by omega)).2, h3, h4, h5, h6, h7⟩

theorem stands_of {s : State} {l : Lane} {p : Pass} {off : Nat} {i : LogicIns} (h : (i.legal
    && decide (p.desc.logicBase + 8 * (off + i.size) ≤ p.desc.logicEnd) && s.spells l p off i) = true) : Stands s l p off i := by
  simp only [Bool.and_eq_true, decide_eq_true_eq] at h
  exact ⟨⟨h.1.1, h.1.2⟩, h.2⟩

theorem forall_one {α : Type} {p : α → Prop} {a : α} (h : p a) : ∀ q ∈ [a], p q := by
  intro q hq; rw [List.mem_singleton] at hq; exact hq ▸ h

theorem forall_two {α : Type} {p : α → Prop} {a b : α} (h : p a) (k : p b) : ∀ q ∈ [a, b], p q := by
  intro q hq; rcases List.mem_cons.1 hq with rfl | hq
  · exact h
  · rw [List.mem_singleton] at hq; exact hq ▸ k

/-- A look-ahead pass that is held, waiting. -/
def tLook (prio : Nat) : Pass := tPass 3 prio .waiting

/-- The tickets of the passes of task 0. -/
def tTicket (kind : Nat) : Word := BitVec.ofNat 64 (2 ^ 48 + kind)

/-- The same state with core 0's g1 and what it waits for. -/
def tCall (s : State) (g1 : Word) (w : Wait) : State := s.onCore .a .c0 fun x => { x.setG 1 g1 with wait := w }

/-- A descriptor of a plain pass of task 0, at SRAM address 0x400: its first two words are not zero. -/
def tDesc : List (Nat × Nat) := [(0x400, 0x30001), (0x408, 0x40000000)]

theorem witness_EngineInstructions :
    (∃ (s : State) (l : Lane) (c : CoreId), s.Inv ∧ Ready s l c .s ∧ (s.fetched l c).rd l R.RTE_CTRL_EN = 0)
    ∧ (∃ (s : State) (l : Lane) (c : CoreId), s.Inv ∧ Ready s l c .s ∧ (s.eng l).queue.length = 4)
    ∧ (∃ (s : State) (l : Lane) (c : CoreId) (ga : GReg) (ws : List Word), s.Inv ∧ Ready s l c .s ∧
      let f := s.fetched l c
      let a := (((f.core l c).g ga)).toNat
      f.rd l R.RTE_CTRL_EN = 1 ∧ (s.eng l).queue.length < 4 ∧ (f.core l c).regionOk a .read = true ∧ a % 64 = 0 ∧ isSram a = true
        ∧ ws.length = 8
        ∧ (∀ k, k < 8 → rsDecode ((f.lane l).data (a + 8 * k)) ((f.lane l).check (a + 8 * k)) = .clean (ws.getD k 0))
        ∧ (∀ h ∈ (f.lane l).bus, h.path ≠ .load c)
        ∧ (descOfWords ws true).kindRaw = 1 ∧ (∀ q ∈ (s.eng l).queue, q.desc.kindRaw = 3 → q.desc.task ≠ (descOfWords ws true).task))
    ∧ (∃ (s : State) (l : Lane) (c : CoreId) (ga : GReg), s.Inv ∧ Ready s l c .s
      ∧ (s.eng l).status (((s.fetched l c).core l c).g ga) = 0
      ∧ (∀ q ∈ (s.eng l).queue, q.ticket = ((s.fetched l c).core l c).g ga → q.desc.kindRaw ≠ 3))
    ∧ (∃ (s : State) (l : Lane) (c : CoreId) (ga : GReg), s.Inv ∧ Ready s l c .s
      ∧ (s.eng l).status (((s.fetched l c).core l c).g ga) ≠ 0)
    ∧ (∃ (s : State) (l : Lane) (c : CoreId) (g : GReg) (k : Word), s.Inv ∧ (s.lane l).running = true
      ∧ (s.core l c).wait = .ewait g k ∧ (s.eng l).status k ≠ 0)
    ∧ (∃ (s : State) (l : Lane) (c : CoreId) (ga : GReg), s.Inv ∧ Ready s l c .s ∧
      let tk := ((s.fetched l c).core l c).g ga
      (∃ q ∈ (s.eng l).queue, q.ticket = tk ∧ q.desc.kindRaw = 3) ∧ (∀ q ∈ (s.eng l).results, q.1 ≠ tk)) :=
  ⟨⟨tS, .a, .c0, inv_of (by decide), ready_of (by decide), by decide⟩,
   ⟨tEng [tLook 1, tLook 1, tLook 1, tLook 1] [], .a, .c0, inv_of (by decide), ready_of (by decide), by decide⟩,
   ⟨tCall ((tEng [] tDesc).wr .a R.RTE_CTRL_EN 1) 0x400 .none, .a, .c0, 1, [0x30001, 0x40000000, 0, 0, 0, 0, 0, 0],
     inv_of (by decide), ready_of (by decide), by decide, by decide, by decide, by decide, by decide, by decide, by decide, by decide,
     by decide, by decide⟩,
   ⟨tCall (tLogic [] [] tEnd) (tTicket 1) .none, .a, .c0, 1, inv_of (by decide), ready_of (by decide), by decide, by decide⟩,
   ⟨tCall tS 5 .none, .a, .c0, 1, inv_of (by decide), ready_of (by decide), by decide⟩,
   ⟨tCall tS 5 (.ewait 2 5), .a, .c0, 2, 5, inv_of (by decide), by decide, by decide, by decide⟩,
   ⟨tCall (tEng [tLook 1] []) (tTicket 3) .none, .a, .c0, 1, inv_of (by decide), ready_of (by decide), by decide, by decide⟩⟩

/-- Passes may start and be preempted: the image area holds the logic, and context slots are placed. -/
def tArmed (ps : List Pass) : State :=
  ((((tEng ps []).wr .a R.RTE_IMG_BASE_BASE 0x400).wr .a R.RTE_IMG_BASE_SIZE 1).wr .a R.RTE_CTRL_PREEMPT 1).wr .a R.RTE_CTX_BASE_VALID 1

theorem witness_PassLife :
    (∃ (s : State) (l : Lane) (p : Pass), s.Inv ∧ (s.eng l).next = some p ∧ p.phase = .waiting ∧ s.descOk l p.desc = true
      ∧ p.desc.kindRaw = 1)
    ∧ (∃ (s : State) (l : Lane) (p : Pass), s.Inv ∧ (s.eng l).next = some p ∧ p.phase = .waiting ∧ s.descOk l p.desc = false)
    ∧ (∃ (s : State) (l : Lane) (p : Pass) (r : Run), s.Inv ∧ (s.eng l).running = some (p, r) ∧ p.desc.kindRaw = 1 ∧ p.desc.task < 16
      ∧ busArrive 0 1 ≠ .detected ∧ busArrive 0 0x101 = .detected)
    ∧ (∃ (s : State) (l : Lane) (p : Pass) (r : Run), s.Inv ∧ (s.eng l).running = some (p, r) ∧ p.desc.kindRaw = 3
      ∧ r.look.2.1 ≤ r.streamed ∧ r.look.2.2 ≤ r.idone)
    ∧ (∃ (s : State) (l : Lane) (p : Pass) (r : Run), s.Inv ∧ (s.eng l).running = some (p, r) ∧ p.desc.kindRaw = 3
      ∧ (s.eng l).preempter p ≠ none)
    ∧ (∃ (s : State) (l : Lane) (p : Pass) (r : Run) (q : Pass) (i : Fin 3), s.Inv ∧ (s.eng l).running = some (p, r)
      ∧ p.desc.kindRaw ≠ 3 ∧ (s.eng l).preempter p = some q ∧ (s.eng l).slots[i] = false
      ∧ (∀ j : Fin 3, j < i → (s.eng l).slots[j] = true) ∧ s.rd l R.RTE_CTRL_PREEMPT = 1 ∧ s.rd l R.RTE_CTX_BASE_VALID = 1
      ∧ q.desc.kindRaw = 3)
    ∧ (∃ (s : State) (l : Lane) (t : Word), s.Inv ∧ s.rd l R.ARB_PRIO_AGE ≠ 0 ∧ (∃ p ∈ (s.eng l).queue, p.ticket = t)) :=
  ⟨⟨tArmed [tPass 1 3 .waiting, tLook 3], .a, tPass 1 3 .waiting, inv_of (by decide), by decide, by decide, by decide, by decide⟩,
   ⟨tEng [tPass 1 3 .waiting] [], .a, tPass 1 3 .waiting, inv_of (by decide), by decide, by decide, by decide⟩,
   ⟨tLogic [] [] tEnd, .a, tP [], tR [], inv_of (by decide), by decide, by decide, by decide, by decide, by decide⟩,
   ⟨tEng [tPass 3 3 (.running (tRun []))] [], .a, tPass 3 3 (.running (tRun [])), tRun [], inv_of (by decide), by decide, by decide,
     by decide, by decide⟩,
   ⟨tEng [tPass 3 3 (.running (tRun [])), tPass 1 4 .waiting] [], .a, tPass 3 3 (.running (tRun [])), tRun [], inv_of (by decide),
     by decide, by decide, by decide⟩,
   ⟨(tArmed [tP [], tLook 4]).onEng .a fun e => { e with slots := e.slots.set 0 true }, .a, tP [], tR [], tLook 4, 1,
     inv_of (by decide), by decide, by decide, by decide, by decide, by decide, by decide, by decide, by decide⟩,
   ⟨(tEng [tLook 3] []).wr .a R.ARB_PRIO_AGE 1, .a, tTicket 3, inv_of (by decide), by decide, by decide⟩⟩

/-- A preempted pass whose context record is all zero, which is a good record. -/
def tSlot : State := tEng [tPass 1 3 (.preempted (some 2) (tRun []))] []

theorem empty_data {x : LaneState} (h : x.mem = []) (k : x.chk = []) (a : Nat) :
    rsDecode (x.data a) (x.check a) = .clean 0 := by
  have h1 : x.data a = 0 := by unfold LaneState.data LaneState.byte; rw [h]; simp [mapGet, memDefault]
  have h2 : x.check a = 0 := by unfold LaneState.check; rw [k]; simp [mapGet, memDefault]
  rw [h1, h2]; decide

theorem Quiet.empty {s t : State} {l : Lane} (h : Quiet s l t) (k : (s.lane l).mem = [] ∧ (s.lane l).chk = [] ∧ (s.lane l).bus = []) :
    (t.lane l).mem = [] ∧ (t.lane l).chk = [] ∧ (t.lane l).bus = [] := by
  obtain ⟨rs, rfl⟩ := h
  cases l <;> exact k

/-- Empty memory reads as good words. -/
theorem engRead_empty (l : Lane) (n : Nat) : ∀ (s : State) (a : Nat), (s.lane l).mem = [] ∧ (s.lane l).chk = [] ∧ (s.lane l).bus = [] →
    (∃ ws, (s.engRead l a n).1 = some ws) ∧ ((s.engRead l a n).2.lane l).mem = []
      ∧ ((s.engRead l a n).2.lane l).chk = [] ∧ ((s.engRead l a n).2.lane l).bus = [] := by
  unfold State.engRead
  induction n with
  | zero => exact fun s a h => ⟨⟨[], rfl⟩, h⟩
  | succ n ih =>
    intro s a h
    have c := readMem_clean (s := s) (l := l) (a := a) (by unfold Sound; rw [h.2.2]; rfl) (empty_data h.1 h.2.1 (a / 8 * 8))
    rw [State.readWords]
    dsimp only
    obtain ⟨⟨ws, hw⟩, i⟩ := ih (s.readMem l mEngine none 1 a 8).2 (a + 8) (Quiet.empty c.2 h)
    rw [c.1, hw]
    exact ⟨⟨_, rfl⟩, i⟩

theorem loadCtx_empty {l : Lane} {s : State} {n : Nat} {r : Run} (h : (s.lane l).mem = []) (k : (s.lane l).chk = [])
    (b : (s.lane l).bus = []) :
    ∃ r1, (s.loadCtx l n r).1 = some r1 := by
  unfold State.loadCtx
  dsimp only
  obtain ⟨⟨a, ha⟩, h1⟩ := engRead_empty l 17 s (s.rd l R.RTE_CTX_BASE_BASE * 0x10000 + 0xC000 * n) ⟨h, k, b⟩
  obtain ⟨⟨b, hb⟩, h2⟩ := engRead_empty l 128 _ (s.rd l R.RTE_CTX_BASE_BASE * 0x10000 + 0xC000 * n + 0x400) h1
  obtain ⟨⟨c, hc⟩, -⟩ := engRead_empty l 5120 _ (s.rd l R.RTE_CTX_BASE_BASE * 0x10000 + 0xC000 * n + 0x800) h2
  rw [ha, hb, hc]
  exact ⟨_, rfl⟩

theorem witness_PassLife_resume : tSlot.Inv ∧ (tSlot.eng .a).next = some (tPass 1 3 (.preempted (some 2) (tRun [])))
    ∧ ∃ r1, (tSlot.loadCtx .a 2 (tRun [])).1 = some r1 :=
  ⟨inv_of (by decide), by decide, loadCtx_empty (by decide) (by decide) (by decide)⟩

theorem witness_InstructionCommits :
    let h (o : Op) (ents : List Entry) (err : Option Nat) : Held :=
      { off := 0, size := 1, ins := { op := o, imm := 0, dst := 0, slots := [] }, entries := ents, folds := [], reads := [], err := err
        predicted := false, taken := false, guards := [] }
    let r (x : Held) : Run := { tRun [] with window := [x], acc := { accZero with wpos := 4094 } }
    let s (x : Held) : State := tEng [tPass 1 3 (.running (r x))] []
    let temp : Entry := { ref := tT 5, val := ⟨9, 1⟩, plain := 9, null := false }
    let word : Entry := { ref := mkRef 0 1 2, val := ⟨9, 0⟩, plain := 9, null := false }
    (∀ x ∈ [h .mov [temp] none, h .mov [word] none, h .mov [] (some 15), h .endp [] none],
      (∀ y ∈ ((s x).lane .a).bus, y.path ≠ .engineRead) ∧ (tPass 1 3 .waiting).desc.logicBase = 0x40000000
        ∧ x.off + x.size ≤ 512 ∧ (s x).Inv ∧ ((s x).eng .a).running = some (tPass 1 3 (.running (r x)), r x) ∧ (r x).window = [x] ∧ x.off = (r x).off
        ∧ x.ins.isSkip = false ∧ (∀ j, j < x.size → rsDecode (((s x).lane .a).data (0x40000000 + 8 * (x.off + j)))
          (((s x).lane .a).check (0x40000000 + 8 * (x.off + j))) = .clean 0) ∧ (r x).acc.wpos < 4095 ∧ ((s x).lane .a).inject = none)
    ∧ refTemp temp.ref = true ∧ refTemp word.ref = false ∧ refOffset word.ref % 8 = 0 := by
  refine ⟨?_, by decide, by decide, by decide⟩
  intro x hx
  simp only [List.mem_cons, List.not_mem_nil, or_false] at hx
  rcases hx with rfl | rfl | rfl | rfl <;>
    exact ⟨by decide, by decide, by decide, inv_of (by decide), by decide, by decide, by decide, by decide, by decide, by decide, by decide⟩

/-- Values of temporaries for the arithmetic: 2 ^ 32 − 2 and 1, TRUE and FALSE. -/
def tVals : List (Nat × Nat) := [(1, 0xFFFFFFFE), (2, 1), (3, codeTrue), (4, codeFalse)]

/-- An instruction into temporary 9 with immediate 1, and one that is no legal encoding. -/
def tI (op : Op) (slots : List Ref) : LogicIns := { op := op, imm := 1, dst := tT 9, slots := slots }
def tBad : LogicIns := { op := .mov, imm := 0, dst := tT 9, slots := [tT 1] }

/-- A coded pass of task 0 with D = 3 over D_prev = 0 and one temporary; its instruction subtracts a word from it. -/
def tCr : Run := tRun [(1, ⟨encodeWord 0x40000001 0xFFFFFFFF 9 3, 9⟩)]
def tSub : LogicIns := { op := .sub, imm := 0, dst := mkRef 0 0 3, slots := [tT 1, mkRef 0 0 2] }
def tCs : State := (tEng [tPass 2 3 (.running tCr)] (tCode tSub)).onLane .a fun x =>
  x.putWord (refOffset (mkRef 0 0 2) + 8) (encodeWord 0x40000001 7 5 0)

theorem witness_LogicValues :
    (let s := tLogic tVals [] tBad;
      Oldest s .a (tP tVals) (tR tVals) 0 ∧ s.spells .a (tP tVals) 0 tBad = true
      ∧ ¬ (LegalAt (tP tVals) 0 tBad ∧ Target s (tP tVals) (tT 9) ∧ Target s (tP tVals) (tT 1)))
    ∧ (∀ i ∈ [tI .mov [tT 1], tI .ldi [0xFFFFFFFF], tI .add [tT 1, tT 2], tI .sub [tT 2, tT 2], tI .not [tT 3], tI .not [tT 4]
        , tI .sel [tT 3, tT 1, tT 2], tI .sel [tT 4, tT 1, tT 2]],
      let s := tLogic tVals [] i;
      Oldest s .a (tP tVals) (tR tVals) 0 ∧ Stands s .a (tP tVals) 0 i ∧ Target s (tP tVals) (tT 9)
        ∧ Holds s .a (tP tVals) (tR tVals) (tT 1) 0xFFFFFFFE ∧ Holds s .a (tP tVals) (tR tVals) (tT 2) 1
        ∧ Holds s .a (tP tVals) (tR tVals) (tT 3) codeTrue ∧ Holds s .a (tP tVals) (tR tVals) (tT 4) codeFalse ∧ 0xFFFFFFFE + 1 < 2 ^ 32)
    ∧ (Oldest tCs .a (tPass 2 3 (.running tCr)) tCr 0 ∧ Target tCs (tPass 2 3 (.running tCr)) (mkRef 0 0 3)
      ∧ Holds tCs .a (tPass 2 3 (.running tCr)) tCr (tT 1) 0xFFFFFFFF ∧ Holds tCs .a (tPass 2 3 (.running tCr)) tCr (mkRef 0 0 2) 7
      ∧ Stands tCs .a (tPass 2 3 (.running tCr)) 0 tSub) := by
  refine ⟨⟨oldest_of (by decide) (.inl (by decide)) (by decide) (by decide) (by decide) (by decide) (by decide), by decide,
    fun h => absurd h.1.1 (by decide)⟩, ?_,
    ⟨oldest_of (by decide) (.inr (by decide)) (by decide) (by decide) (by decide) (by decide) (by decide), .inr (by decide), ?_, ?_,
      stands_of (by decide)⟩⟩
  · intro i hi
    simp only [List.mem_cons, List.not_mem_nil, or_false] at hi
    rcases hi with rfl | rfl | rfl | rfl | rfl | rfl | rfl | rfl <;>
      exact ⟨oldest_of (by decide) (.inl (by decide)) (by decide) (by decide) (by decide) (by decide) (by decide), stands_of (by decide),
        .inl (by decide), holds_temp ⟨0xFFFFFFFE, 1⟩ (by decide) (by decide) (by decide) (by decide),
        holds_temp ⟨1, 1⟩ (by decide) (by decide) (by decide) (by decide),
        holds_temp ⟨BitVec.ofNat 64 codeTrue, 1⟩ (by decide) (by decide) (by decide) (by decide),
        holds_temp ⟨BitVec.ofNat 64 codeFalse, 1⟩ (by decide) (by decide) (by decide) (by decide), by decide⟩
  · exact holds_temp ⟨encodeWord 0x40000001 0xFFFFFFFF 9 3, 9⟩ (by decide) (by decide) (by decide) (by decide)
  · exact holds_word (encodeWord 0x40000001 7 5 0) (by decide) (by decide) (by decide) (by decide) (by decide)

/-- A reference with EXP and MODE. -/
def withExp (r : Ref) (exp mode : Nat) : Ref := BitVec.ofNat 32 (r.toNat + 64 * exp + mode)

/-- The pass is at its first instruction, which stands in DRAM. -/
theorem mem_oldest {ts : List (Nat × Nat)} {mem : List (Ref × Nat)} {i : LogicIns} (h : ((tLogic ts mem i).eng .a).running = some (tP ts, tR ts)
    ∧ ((tLogic ts mem i).lane .a).streamWaits = false ∧ ((tLogic ts mem i).lane .a).bus.find? (fun h => h.path == .engineRead) = none
    ∧ i.legal = true ∧ i.size ≤ 512 ∧ (tLogic ts mem i).spells .a (tP ts) 0 i = true) :
    Oldest (tLogic ts mem i) .a (tP ts) (tR ts) 0 ∧ Stands (tLogic ts mem i) .a (tP ts) 0 i := by
  obtain ⟨h, w, b, k, z, m⟩ := h
  refine ⟨oldest_of h (.inl rfl) rfl rfl (show 0x40000000 + 8 * 0 < 0x40001000 by decide) w b, ⟨k, ?_⟩, m⟩
  show 0x40000000 + 8 * (0 + i.size) ≤ 0x40001000
  omega

/-- What a plain pass reads of a word of memory. -/
theorem mem_holds {ts : List (Nat × Nat)} {mem : List (Ref × Nat)} {i : LogicIns} {ref : Ref} (n : Nat) (h : n < 2 ^ 32
    ∧ refTemp ref = false ∧ inFoot ((tLogic ts mem i).taskImg 0) (refBare ref) = true
    ∧ rsDecode (((tLogic ts mem i).lane .a).data (refOffset (refBare ref) / 8 * 8))
      (((tLogic ts mem i).lane .a).check (refOffset (refBare ref) / 8 * 8)) = .clean (BitVec.ofNat 64 n)) :
    Holds (tLogic ts mem i) .a (tP ts) (tR ts) ref n := by
  refine holds_word (BitVec.ofNat 64 n) h.1 h.2.1 h.2.2.1 ?_ rfl
  have : (tP ts).desc.stateBase + refOffset (refBare ref) + (if (tP ts).desc.kindRaw = 2 then 8 else 0) = refOffset (refBare ref) := by
    show 0 + _ + 0 = _; omega
  simpa only [this] using h.2.2.2

/-- Both, for a list of words at once. -/
theorem mem_all {ts : List (Nat × Nat)} {mem : List (Ref × Nat)} {i : LogicIns} {P : Prop} (ws : List (Ref × Nat))
    (h : (((tLogic ts mem i).eng .a).running == some (tP ts, tR ts) && !((tLogic ts mem i).lane .a).streamWaits
      && ((tLogic ts mem i).lane .a).bus.isEmpty && i.legal && decide (i.size ≤ 512) && (tLogic ts mem i).spells .a (tP ts) 0 i
      && ws.all fun w => decide (w.2 < 2 ^ 32) && !refTemp w.1 && inFoot ((tLogic ts mem i).taskImg 0) (refBare w.1)
        && (rsDecode (((tLogic ts mem i).lane .a).data (refOffset (refBare w.1) / 8 * 8))
          (((tLogic ts mem i).lane .a).check (refOffset (refBare w.1) / 8 * 8)) == .clean (BitVec.ofNat 64 w.2))) = true)
    (k : (∀ w ∈ ws, Holds (tLogic ts mem i) .a (tP ts) (tR ts) w.1 w.2) → P) :
    (Oldest (tLogic ts mem i) .a (tP ts) (tR ts) 0 ∧ Stands (tLogic ts mem i) .a (tP ts) 0 i) ∧ P := by
  simp only [Bool.and_eq_true, beq_iff_eq, Bool.not_eq_true', List.isEmpty_iff, decide_eq_true_eq, List.all_eq_true] at h
  obtain ⟨⟨⟨⟨⟨⟨h, w⟩, b⟩, l⟩, z⟩, m⟩, e⟩ := h
  exact ⟨mem_oldest ⟨h, w, by rw [b]; rfl, l, z, m⟩,
    k fun x hx => mem_holds _ ⟨(e x hx).1.1.1, (e x hx).1.1.2, (e x hx).1.2, (e x hx).2⟩⟩

/-- The first, second, third, … of what holds of every word of a list. -/
abbrev at0 {p : Ref × Nat → Prop} {a} {as : List (Ref × Nat)} (h : ∀ w ∈ a :: as, p w) : p a := h _ (.head _)
abbrev at1 {p : Ref × Nat → Prop} {a b} {as : List (Ref × Nat)} (h : ∀ w ∈ a :: b :: as, p w) : p b := h _ (.tail _ (.head _))
abbrev from2 {p : Ref × Nat → Prop} {a b} {as : List (Ref × Nat)} (h : ∀ w ∈ a :: b :: as, p w) : ∀ w ∈ as, p w :=
  fun w m => h w (.tail _ (.tail _ m))

/-- Elements 0 and 1: word 2 CLEAR and OCCUPIED, word 6 free and required; routes 0 and 1: idle and requested. -/
def tMem : List (Ref × Nat) :=
  [(mkRef 0 0 2, stateCode 1), (mkRef 0 0 6, stateCode 1), (mkRef 0 1 2, stateCode 4), (mkRef 0 1 6, stateCode 4)
   , (mkRef 1 0 0, stateCode 1), (mkRef 1 1 0, stateCode 3)]

/-- Two elements under a condition: word 2 with EXP, and route states. -/
def tQ1 (e : Nat) : Ref := withExp (mkRef 0 0 2) e 0
def tQ2 (e : Nat) : Ref := withExp (mkRef 0 1 2) e 0

theorem witness_LogicConditions :
    (∀ i ∈ [tI .all [tQ1 1, tQ2 63], tI .any [tQ1 1, tQ2 63]],
      let s := tLogic [] tMem i
      (Oldest s .a (tP []) (tR []) 0 ∧ Stands s .a (tP []) 0 i) ∧ Target s (tP []) (mkRef 1 0 0)
      ∧ ∀ q ∈ [tQ1 1, tQ2 63], Holds s .a (tP []) (tR []) q (if refId q = 0 then stateCode 1 else stateCode 4))
    ∧ (let i := tI .conf [mkRef 1 0 0, mkRef 1 0 0, mkRef 1 1 0]; let s := tLogic [] tMem i
      (Oldest s .a (tP []) (tR []) 0 ∧ Stands s .a (tP []) 0 i) ∧ Target s (tP []) (mkRef 1 0 0)
      ∧ ∀ q ∈ [mkRef 1 0 0, mkRef 1 1 0], Holds s .a (tP []) (tR []) q (if refId q = 0 then stateCode 1 else stateCode 3))
    ∧ (let i := tI .flank [mkRef 1 0 0, tQ1 3, tQ2 4]; let s := tLogic [] tMem i
      (Oldest s .a (tP []) (tR []) 0 ∧ Stands s .a (tP []) 0 i) ∧ Target s (tP []) (mkRef 1 0 0)
      ∧ (∀ q ∈ [tQ1 3, tQ2 4], Holds s .a (tP []) (tR []) q (if refId q = 0 then stateCode 1 else stateCode 4))
      ∧ ∀ q ∈ [tQ1 3, tQ2 4], Holds s .a (tP []) (tR []) (refAt q 6) (if refId q = 0 then stateCode 1 else stateCode 4)) := by
  refine ⟨?_, ?_, ?_⟩
  · intro i hi
    simp only [List.mem_cons, List.not_mem_nil, or_false] at hi
    rcases hi with rfl | rfl <;>
      · exact mem_all [(tQ1 1, stateCode 1), (tQ2 63, stateCode 4)] (by decide +kernel)
          fun h => ⟨.inr (by decide +kernel), forall_two (at0 h) (at1 h)⟩
  · exact mem_all [(mkRef 1 0 0, stateCode 1), (mkRef 1 1 0, stateCode 3)] (by decide +kernel)
      fun h => ⟨.inr (by decide +kernel), forall_two (at0 h) (at1 h)⟩
  · exact mem_all [(tQ1 3, stateCode 1), (tQ2 4, stateCode 4), (refAt (tQ1 3) 6, stateCode 1), (refAt (tQ2 4) 6, stateCode 4)] (by decide +kernel)
      fun h => ⟨.inr (by decide +kernel), forall_two (at0 h) (at1 h), forall_two (at0 (from2 h)) (at1 (from2 h))⟩

/-- Elements 0 and 1 locked: by nobody and by route 0, as a route; route 0 requested (state code 3) and then locked (5). -/
def tLocks (route : Nat) : List (Ref × Nat) :=
  [(mkRef 0 0 4, stateCode 1), (mkRef 0 0 5, 0x2000), (mkRef 0 1 4, stateCode 3), (mkRef 0 0 6, stateCode 1), (mkRef 0 1 6, stateCode 4)
   , (mkRef 1 0 0, stateCode route)]

/-- The lock words of the two elements. -/
def tK1 : Ref := mkRef 0 0 4
def tK2 : Ref := mkRef 0 1 4

theorem witness_LogicLocks :
    -- an overlap lock (MODE 1) too, which finds element 1 held as a route
    (∀ i ∈ [tI .lock [mkRef 1 0 0, tK1, tK2], tI .lock [withExp (mkRef 1 0 0) 0 1, tK1, tK2]
        , ({ op := .unlock, imm := 0, dst := 0, slots := [mkRef 1 0 0, tK1, tK2] } : LogicIns)],
      let s := tLogic [] (tLocks 5) i
      (Oldest s .a (tP []) (tR []) 0 ∧ Stands s .a (tP []) 0 i) ∧ Target s (tP []) (mkRef 1 0 0)
      ∧ (∀ q ∈ [tK1, tK2], Target s (tP []) q)
      ∧ (∀ q ∈ [tK1, tK2], Holds s .a (tP []) (tR []) (refAt q 4) (if refId q = 0 then stateCode 1 else stateCode 3)
        ∧ Holds s .a (tP []) (tR []) (refAt q 5) (if refId q = 0 then 0x2000 else 0)))
    ∧ (∀ route, route = 3 ∨ route = 5 →
      let i : LogicIns := { op := .flreq, imm := 0, dst := 0, slots := [mkRef 1 0 0, tQ1 3, tQ2 4] }
      let s := tLogic [] (tLocks route) i
      (Oldest s .a (tP []) (tR []) 0 ∧ Stands s .a (tP []) 0 i) ∧ Target s (tP []) (mkRef 1 0 0)
      ∧ (∀ q ∈ [tQ1 3, tQ2 4], Target s (tP []) q) ∧ Holds s .a (tP []) (tR []) (mkRef 1 0 0) (stateCode route)
      ∧ (∀ q ∈ [tQ1 3, tQ2 4], Holds s .a (tP []) (tR []) (refAt q 6) (if refId q = 0 then stateCode 1 else stateCode 4))
      ∧ ([tQ1 3, tQ2 4].map fun q => refAt q 6).Nodup) := by
  constructor
  · intro i hi
    simp only [List.mem_cons, List.not_mem_nil, or_false] at hi
    rcases hi with rfl | rfl | rfl <;>
      · exact mem_all [(refAt tK1 4, stateCode 1), (refAt tK1 5, 0x2000), (refAt tK2 4, stateCode 3), (refAt tK2 5, 0)] (by decide +kernel)
          fun h => ⟨.inr (by decide +kernel), forall_two (.inr (by decide +kernel)) (.inr (by decide +kernel)),
          forall_two ⟨at0 h, at1 h⟩ ⟨at0 (from2 h), at1 (from2 h)⟩⟩
  · rintro route (rfl | rfl) <;>
    · exact mem_all [(refAt (tQ1 3) 6, stateCode 1), (refAt (tQ2 4) 6, stateCode 4), (mkRef 1 0 0, _)] (by decide +kernel)
        fun h => ⟨.inr (by decide), forall_two (.inr (by decide)) (.inr (by decide)), at0 (from2 h), forall_two (at0 h) (at1 h), by decide +kernel⟩

/-- Temporaries 1 TRUE and 2 FALSE. -/
def tTF : List (Nat × Nat) := [(1, codeTrue), (2, codeFalse)]

/-- Route 0 with its state, REQ, RELPTR and count of sections; section 0 CLEAR after use, section 1 OCCUPIED. -/
def tRoute (st q i n : Nat) : List (Ref × Nat) :=
  [(mkRef 1 0 0, st), (mkRef 1 0 1, q), (mkRef 1 0 2, i), (mkRef 1 0 3, n), (mkRef 0 0 2, stateCode 1), (mkRef 0 0 6, stateCode 3)
   , (mkRef 0 1 2, stateCode 3)]

theorem tf_holds {mem : List (Ref × Nat)} {i : LogicIns} (b : Bool) :
    Holds (tLogic tTF mem i) .a (tP tTF) (tR tTF) (tT (if b then 1 else 2)) (boolCode b) := by
  cases b
  · exact holds_temp ⟨BitVec.ofNat 64 codeFalse, 1⟩ (by decide) (by decide) (by decide) rfl
  · exact holds_temp ⟨BitVec.ofNat 64 codeTrue, 1⟩ (by decide) (by decide) (by decide) rfl

theorem witness_Routes :
    ∀ st ∈ [1, 3, 4, 5, 6, 7, 8], ∀ q ∈ [3, 4],
      let own := mkRef 1 0 0
      let i : LogicIns := { op := .route, imm := 0, dst := 0, slots := [own, tT 1, tT 2, tT 1, tT 2, tT 1, tT 2] }
      let s := tLogic tTF (tRoute (stateCode st) (stateCode q) 0 1) i
      (Oldest s .a (tP tTF) (tR tTF) 0 ∧ Stands s .a (tP tTF) 0 i)
      ∧ Holds s .a (tP tTF) (tR tTF) own (stateCode st) ∧ Holds s .a (tP tTF) (tR tTF) (refAt own 1) (stateCode q)
      ∧ Holds s .a (tP tTF) (tR tTF) (tT 1) (boolCode true) ∧ Holds s .a (tP tTF) (tR tTF) (tT 2) (boolCode false) := by
  intro st hs q hq
  simp only [List.mem_cons, List.not_mem_nil, or_false] at hs hq
  rcases hs with rfl | rfl | rfl | rfl | rfl | rfl | rfl <;> rcases hq with rfl | rfl <;>
    · exact mem_all [(mkRef 1 0 0, _), (refAt (mkRef 1 0 0) 1, _)] (by decide +kernel)
        fun h => ⟨at0 h, at1 h, tf_holds true, tf_holds false⟩

theorem witness_Routes_release (st n : Nat) (slots : List Ref) :
    (let own := mkRef 1 0 0; let j := mkRef 0 0 2; let nxt := withExp (mkRef 0 1 2) 0 1
      (st, n) ∈ [(7, 1), (7, 2), (1, 1)] → slots ∈ [[own, j, nxt], [own, j]] →
      let i : LogicIns := { op := .rrel, imm := 0, dst := 0, slots := slots }
      let s := tLogic [] (tRoute (stateCode st) (stateCode 1) 0 n) i
      (Oldest s .a (tP []) (tR []) 0 ∧ Stands s .a (tP []) 0 i) ∧ Target s (tP []) own ∧ Holds s .a (tP []) (tR []) own (stateCode st)
      ∧ Holds s .a (tP []) (tR []) (refAt own 2) 0 ∧ Holds s .a (tP []) (tR []) (refAt own 3) n
      ∧ (∀ q ∈ [j, nxt], Target s (tP []) q)
      ∧ refMode j = 0 ∧ refMode nxt = 1 ∧ refBare j ≠ refBare nxt
      ∧ Holds s .a (tP []) (tR []) j (stateCode 1) ∧ Holds s .a (tP []) (tR []) nxt (stateCode 3)
      ∧ Holds s .a (tP []) (tR []) (refAt j 6) (stateCode 3)) := by
  intro own j nxt h hl
  simp only [List.mem_cons, List.not_mem_nil, or_false, Prod.mk.injEq] at h hl
  rcases h with ⟨rfl, rfl⟩ | ⟨rfl, rfl⟩ | ⟨rfl, rfl⟩ <;> rcases hl with rfl | rfl <;>
    · exact mem_all [(own, _), (refAt own 2, 0), (refAt own 3, _), (j, stateCode 1), (nxt, stateCode 3), (refAt j 6, stateCode 3)] (by decide +kernel)
        fun h => ⟨.inr (by decide +kernel), at0 h, at1 h, at0 (from2 h), forall_two (.inr (by decide +kernel)) (.inr (by decide +kernel)),
        by decide, by decide, by decide, at1 (from2 h), at0 (from2 (from2 h)), at1 (from2 (from2 h))⟩

/-- Element 0 with a timer in a state with a remainder, and an edge memory that holds state code 3. -/
def tTimer (st rem : Nat) : List (Ref × Nat) :=
  [(mkRef 0 0 10, st), (mkRef 0 0 11, rem), (mkRef 0 0 2, stateCode 4), (mkRef 0 0 14, stateCode 3)]

/-- The task period of the test state is 20 ms: a timer with 21 ms left runs on, one with 20 ms expires. -/
theorem witness_TimersEdgesAndControl :
    (∀ st rem, (st, rem) ∈ [(1, 0), (3, 21), (3, 20), (4, 0)] → ∀ run : Bool,
      let dst := mkRef 0 0 10
      let i : LogicIns := { op := .tmr, imm := if run then 0xFFFFF else 0, dst := dst, slots := [tT (if run then 1 else 2)] }
      let s := tLogic tTF (tTimer (stateCode st) rem) i
      (Oldest s .a (tP tTF) (tR tTF) 0 ∧ Stands s .a (tP tTF) 0 i) ∧ Target s (tP tTF) dst ∧ (s.seen .a (tP tTF) (tR tTF)).period = 20
      ∧ Holds s .a (tP tTF) (tR tTF) (tT (if run then 1 else 2)) (boolCode run)
      ∧ Holds s .a (tP tTF) (tR tTF) dst (stateCode st) ∧ Holds s .a (tP tTF) (tR tTF) (refAt dst (refWord dst + 1)) rem)
    ∧ (∀ m ∈ [1, 2, 3, 4],
      let x := withExp (mkRef 0 0 2) (if m = 4 then 0 else 3) 0; let mem := withExp (mkRef 0 0 14) 0 m
      let i := tI .edge [x, mem]; let s := tLogic tTF (tTimer (stateCode 1) 0) i
      (Oldest s .a (tP tTF) (tR tTF) 0 ∧ Stands s .a (tP tTF) 0 i) ∧ Target s (tP tTF) (tT 9) ∧ refMode mem = m
      ∧ Holds s .a (tP tTF) (tR tTF) x (stateCode 4) ∧ Holds s .a (tP tTF) (tR tTF) mem (stateCode 3))
    ∧ (let f : FootRec := ⟨false, 2, 0xFFFE⟩; let w := mkRef 0 2 0
      ∀ i ∈ [({ op := .carry, imm := 0, dst := 0, slots := [w] } : LogicIns), { op := .seal, imm := 0, dst := 0, slots := [w] }
        , { op := .skipf, imm := 0xFFFFF, dst := 0, slots := [tT 1] }, { op := .skipt, imm := 0, dst := 0, slots := [tT 2] }, tEnd],
      let s := tLogic tTF [] i
      let img := s.taskImg (tP tTF).desc.task
      (Oldest s .a (tP tTF) (tR tTF) 0 ∧ Stands s .a (tP tTF) 0 i) ∧ f ∈ img.footprint ∧ (∀ q ∈ [w], footRec img q = some f)
      ∧ (∀ x ∈ footWords f, isScratch img x = false → Holds s .a (tP tTF) (tR tTF) x 0)
      ∧ (∀ q ∈ [w], Holds s .a (tP tTF) (tR tTF) q 0)
      ∧ Holds s .a (tP tTF) (tR tTF) (tT 1) (boolCode true) ∧ Holds s .a (tP tTF) (tR tTF) (tT 2) (boolCode false))
    ∧ (Oldest (tLogic tTF [] tSub) .a (tP tTF) (tR tTF) 0 ∧ (tLogic tTF [] tSub).spells .a (tP tTF) 0 tEnd = false) := by
  refine ⟨?_, ?_, ?_, oldest_of (by decide) (.inl (by decide)) (by decide) (by decide) (by decide) (by decide) (by decide), by decide⟩
  · intro st rem h run
    simp only [List.mem_cons, List.not_mem_nil, or_false, Prod.mk.injEq] at h
    rcases h with ⟨rfl, rfl⟩ | ⟨rfl, rfl⟩ | ⟨rfl, rfl⟩ | ⟨rfl, rfl⟩ <;> cases run <;>
      · exact mem_all [(mkRef 0 0 10, _), (refAt (mkRef 0 0 10) (refWord (mkRef 0 0 10) + 1), _)] (by decide +kernel)
          fun h => ⟨.inr (by decide), by decide, tf_holds _, at0 h, at1 h⟩
  · intro m h
    simp only [List.mem_cons, List.not_mem_nil, or_false] at h
    rcases h with rfl | rfl | rfl | rfl <;>
      · exact mem_all [(_, stateCode 4), (_, stateCode 3)] (by decide +kernel)
          fun h => ⟨.inl (by decide), by decide, at0 h, at1 h⟩
  · intro f w i hi
    have scratch : ∀ x ∈ footWords f, x ≠ w → isScratch ((tLogic tTF [] i).taskImg (tP tTF).desc.task) x = true := by
      have h : ((footWords ⟨false, 2, 0xFFFE⟩).all fun x => x == mkRef 0 2 0 || isScratch ((tEng [] []).taskImg 0) x) = true := by decide
      intro x hx n
      rw [tLogic_taskImg]
      exact (Bool.or_eq_true_iff.1 (List.all_eq_true.1 h x hx)).resolve_left fun e => n (eq_of_beq e)
    have own : (Oldest (tLogic tTF [] i) .a (tP tTF) (tR tTF) 0 ∧ Stands (tLogic tTF [] i) .a (tP tTF) 0 i)
        ∧ f ∈ ((tLogic tTF [] i).taskImg (tP tTF).desc.task).footprint
        ∧ footRec ((tLogic tTF [] i).taskImg (tP tTF).desc.task) w = some f
        ∧ Holds (tLogic tTF [] i) .a (tP tTF) (tR tTF) w 0 := by
      simp only [List.mem_cons, List.not_mem_nil, or_false] at hi
      rcases hi with rfl | rfl | rfl | rfl | rfl <;>
        exact ⟨mem_oldest (by decide +kernel), by decide, by decide, mem_holds 0 (by decide +kernel)⟩
    refine ⟨own.1, own.2.1, forall_one own.2.2.1, fun x hx h => ?_, forall_one own.2.2.2, tf_holds true, tf_holds false⟩
    rcases eq_or_ne x w with rfl | n
    · exact own.2.2.2
    · exact absurd (scratch x hx n) (by rw [h]; decide)

/-! ## Witnesses: lanes, votes, DRAM, locks, field interface -/

/-- One field of a lane's register, as a state. -/
def tW (f : RField) (v : Nat) : State := tS.wr .a f v

/-- One field of a module register, as a state. -/
def tM (f : RField) (v : Nat) : State := tS.wrM f v

theorem turn_of {s : State} {before : List Nat} {ph : Nat} (h : (s.cyc.active && before.all s.did && !s.did ph) = true) :
    Turn s before ph := by
  simp only [Bool.and_eq_true, Bool.not_eq_true'] at h
  exact ⟨h.1.1, h.1.2, h.2⟩

/-- A lane other than two of the three. -/
theorem other_of {p : Lane → Prop} {l v : Lane} (h : ∀ w ∈ Lane.list, w ≠ l → w ≠ v → p w) : ∀ w, w ≠ l → w ≠ v → p w :=
  fun w => h w (by cases w <;> decide)

theorem witness_LaneAbsenceAndLinks :
    (∃ (s : State) (l v : Lane), s.Inv ∧ l ≠ v ∧ (s.lane l).running = true
      ∧ ∃ w, w ≠ l ∧ bit (s.rd w R.XLE_STAT_ABS_OWN) v.bit = true)
    ∧ (∃ (s : State) (l v : Lane), s.Inv ∧ l ≠ v ∧ bit (s.rd l R.XLE_STAT_ABS_OWN) v.bit = true
      ∧ ∀ w, w ≠ l → w ≠ v → ¬ bit (s.rd w R.XLE_STAT_ABS_OWN) l.bit = true ∧ ¬ bit (s.rd w R.XLE_STAT_ABS_OWN) v.bit = true)
    ∧ (∃ (s : State) (l v : Lane), s.Inv ∧ l ≠ v ∧ (s.lane l).running = true ∧ mapGet (fun _ => 0) (s.lane l).chkFails v.code = 1)
    ∧ (∃ (s : State) (l v : Lane), s.Inv ∧ l ≠ v ∧ (s.lane l).running = true ∧ mapGet (fun _ => 0) (s.lane l).chkFails v.code = 2) :=
  ⟨⟨tS.wr .c R.XLE_STAT_ABS_OWN 2, .a, .b, inv_of (by decide), by decide, by decide, .c, by decide, by decide⟩,
   ⟨tW R.XLE_STAT_ABS_OWN 2, .a, .b, inv_of (by decide), by decide, by decide, other_of (by decide)⟩,
   ⟨tS.onLane .a fun x => { x with chkFails := [(2, 1)] }, .a, .b, inv_of (by decide), by decide, by decide, by decide⟩,
   ⟨tS.onLane .a fun x => { x with chkFails := [(2, 2)] }, .a, .b, inv_of (by decide), by decide, by decide, by decide⟩⟩

theorem witness_VoteTables :
    let all (x y z : SealOutcome) := [(Lane.a, x), (Lane.b, y), (Lane.c, z)]
    (∀ o ∈ all (.value 1) (.value 1) (.value 1), o.2 = .value 1)
    ∧ ((Lane.b, SealOutcome.late) ∈ all (.value 1) .late (.value 1) ∧ SealOutcome.late ≠ .value 1
      ∧ ∀ q ∈ all (.value 1) .late (.value 1), q.1 ≠ .b → q.2 = .value 1)
    ∧ ((valuesOf (all (.value 1) (.value 2) .late)).length = 2 ∧ ((valuesOf (all (.value 1) (.value 2) .late)).map (·.2)).Nodup)
    ∧ ((valuesOf (all (.value 1) (.failed 2) .late)).length = 1) :=
  by refine ⟨?_, ⟨?_, ?_, ?_⟩, ⟨?_, ?_⟩, ?_⟩ <;> decide

/-- A round set in which the phases of the mask have acted, three lanes vote and task 0 is due. -/
def tRs (phase : Nat) : State :=
  let s := ((((tS.wrM R.CMP_VOTE_VSET 7).setSt .a 3).setSt .b 3).setSt .c 3).wrM R.TSK_STAT_DUE 1
  { s with cyc := { s.cyc with active := true, kind := .normal, phase := phase } }

/-- The seal outcome V of task 0 in one lane, sent before the close marker. -/
def tSent (s : State) (l : Lane) (v : Word) : State :=
  s.onLane l fun x => { x with closed := true, tasks := x.tasks.set 0 { resetTask with sent := some (0, v, 1), counted := true } }

/-- Lanes B and C send 5, lane A sends w. -/
def tVote (w : Word) : State := tSent (tSent (tSent (tRs 0x20) .a w) .b 5) .c 5

theorem witness_SealsAndVote :
    ((tRs 0).Inv ∧ (tRs 0).cyc.active = true ∧ ((tRs 0).lane .a).running = true ∧ ((tRs 0).lane .a).closed = false)
    ∧ (∀ w ∈ [(5 : Word), 6], let s := tVote w
      s.Inv ∧ s.cyc.active = true ∧ s.cyc.kind = .normal ∧ s.did phPost = true ∧ s.did phVote = false
        ∧ (∀ x ∈ s.voters, (s.lane x).closed = true) ∧ s.overReady = [] ∧ s.probation = none ∧ (∀ x, (s.lane x).inject = none)
        ∧ 2 ≤ s.voters.length ∧ s.vset = 7 ∧ s.dueTasks = [0]
        ∧ (∀ x ∈ [Lane.b, .c], ((s.lane x).task 0).counted = true ∧ ((s.lane x).task 0).sent = some (0, 5, 1))
        ∧ ((s.lane .a).task 0).counted = true ∧ ((s.lane .a).task 0).sent = some (0, w, 1))
    ∧ (let s := tRs 0xA0
      s.Inv ∧ Turn s [phVote] phOutcome ∧ s.probation = none ∧ (∀ x, (s.lane x).inject = none) ∧ 2 ≤ s.voters.length
        ∧ (∀ x ∈ s.voters, ∀ y ∈ s.voters, s.rd x R.CMP_VOTE_VIEW = s.rd y R.CMP_VOTE_VIEW) ∧ s.vset = 7 ∧ s.safe = false) := by
  refine ⟨⟨inv_of (by decide), by decide, by decide, by decide⟩, ?_, inv_of (by decide), turn_of (by decide), by decide,
    lanes_of (by decide), by decide, by decide, by decide, by decide⟩
  intro w hw
  simp only [List.mem_cons, List.not_mem_nil, or_false] at hw
  rcases hw with rfl | rfl <;>
    exact ⟨inv_of (by decide), by decide, by decide, by decide, by decide, by decide, by decide, by decide, lanes_of (by decide),
      by decide, by decide, by decide, by decide, by decide, by decide⟩

/-- A DRAM grant of lane A, and the requester that revoked it. -/
def tGrant (h q : Option Requester) (s : State) : State := s.onLane .a fun x => { x with grant := h, revoked := q }

/-- ARB_PRIO with CORE1 and SCRUB_U exchanged: 7, 6, 2, 4, 3, 5, 1. -/
def tPrio : Word := 0x1F28E9

/-- A priority word whose SCRUB_U lies below ENGINE is not applied (R561). -/
theorem test_prio_order : prioOk tPrio = false ∧ R.ARB_PRIO_SCRUB_U.of tPrio = 2 ∧ R.ARB_PRIO_CORE1.of tPrio = 5 := by decide

theorem witness_DramGrantsAndCutOffs :
    ((tGrant none none tS).Inv ∧ ((tGrant none none tS).lane .a).running = true ∧ ((tGrant none none tS).lane .a).grant = none
      ∧ ((tGrant none none tS).lane .a).revoked = none)
    ∧ (let s := tGrant (some .core1) none tS
      s.Inv ∧ (s.lane .a).running = true ∧ (s.lane .a).grant = some .core1 ∧ (s.lane .a).revoked = none
      ∧ s.dramPrio .a .core1 (s.rd .a R.MEM_SCRUB_STAT_URGENT = 1) < s.dramPrio .a .mac false
      ∧ ¬ s.dramPrio .a .core1 (s.rd .a R.MEM_SCRUB_STAT_URGENT = 1) < s.dramPrio .a .core1 false)
    ∧ (let s := tGrant (some .core1) (some .mac) tS
      s.Inv ∧ (s.lane .a).grant = some .core1 ∧ (s.lane .a).revoked = some .mac ∧ (s.lane .a).core1.exl = false)
    ∧ (let s := tGrant (some .engine) (some .mac) (tLogic [] [] tEnd)
      s.Inv ∧ (s.lane .a).grant = some .engine ∧ (s.lane .a).revoked = some .mac ∧ (s.eng .a).running = some (tP [], tR []))
    ∧ (let s := tGrant (some .engine) none (tLogic [] [] tEnd)
      s.Inv ∧ (s.lane .a).grant = some .engine ∧ (s.lane .a).revoked = none ∧ (s.lane .a).waiting = []
        ∧ (s.eng .a).running = some (tP [], tR []))
    ∧ (Allowed tS .a .c0 R.ARB_PRIO true ∧ setsReserved R.ARB_PRIO tPrio = false ∧ ¬ R.ARB_PRIO_ENGINE.of tPrio < R.ARB_PRIO_SCRUB_U.of tPrio ∧
      setsReserved R.ARB_PRIO (resetOf R.ARB_PRIO) = false ∧ prioOk (resetOf R.ARB_PRIO) = true) := by
  refine ⟨⟨inv_of ?_, ?_, ?_, ?_⟩, ⟨inv_of ?_, ?_, ?_, ?_, ?_, ?_⟩, ⟨inv_of ?_, ?_, ?_, ?_⟩, ⟨inv_of ?_, ?_, ?_, ?_⟩,
    ⟨inv_of ?_, ?_, ?_, ?_, ?_⟩, ⟨⟨?_, ?_⟩, ?_, ?_, ?_, ?_⟩⟩ <;> decide

/-- Lock 63 of lane A: owner, DIRTY, LEFT. -/
def tLock (s : State) (o d left : Nat) : State :=
  ((s.wr .a (R.SEM_LOCK_OWNER 63) o).wr .a (R.SEM_LOCK_DIRTY 63) d).wr .a (R.SEM_LOCK_LEFT 63) left

/-- The core at level S with every region open. -/
def tSup : State := tCore fun x => { openCore x with psw := 1 }

/-- A granted claim of resource 0x0107 by feature 3. -/
def tClaim : State := tS.onLane .a fun x => { x with claims := [⟨3, 0x107, 0, 0, false⟩] }

theorem witness_LocksAndClaims :
    (∀ o d left, (o, d, left) ∈ [(0, 0, 0), (1, 0, 1), (0, 1, 0), (4, 1, 1), (2, 0, 1)] →
      let s := tLock (tLogic [] [] tEnd) o d left
      s.Inv ∧ Allowed s .a .c0 (R.SEM_LOCK 63) true ∧ s.rd .a (R.SEM_LOCK_OWNER 63) = o ∧ s.rd .a (R.SEM_LOCK_DIRTY 63) = d
        ∧ s.ownsLock .a .c0 63 = decide (o = 1) ∧ ((s.eng .a).queue.any fun p => decide (bits p.ticket.toNat 63 48 = 1)) = true
        ∧ (s.core .a .c0).level = .k ∧ (o ≠ 0 → s.rd .a (R.SEM_LOCK_LEFT 63) ≠ 0) ∧ s.mode ≠ mHalted)
    ∧ (∃ (s : State), s.Inv ∧ Allowed s .a .c0 (R.SEM_LOCK 63) true ∧ (s.core .a .c0).level ≠ .k)
    ∧ (tS.Inv ∧ Allowed tS .a .c0 R.SEM_CLAIM true ∧ mayClaim 3 0x107 = true ∧ tS.fitted = true ∧ (tS.lane .a).claims.length < 64
      ∧ (∀ r ∈ (tS.lane .a).claims, r.resource ≠ 0x107) ∧ mayClaim 255 0x107 = false
      ∧ (∀ r ∈ (tS.lane .a).claims, ¬ (r.feature = 3 ∧ r.resource = 0x107)) ∧ 0x107 ≠ resBuffer ∧ 0x107 ≠ resPps ∧ (3 : Nat) ≠ 10)
    ∧ (tClaim.Inv ∧ Allowed tClaim .a .c0 R.SEM_CLAIM true ∧ mayClaim 4 0x107 = true ∧ tClaim.fitted = true
      ∧ (∃ r ∈ (tClaim.lane .a).claims, r.resource = 0x107)
      ∧ (∀ r ∈ (tClaim.lane .a).claims, r.resource = 0x107 → r.feature ≠ 4 ∧ r.dflt = false)
      ∧ (∃ r ∈ (tClaim.lane .a).claims, r.feature = 3 ∧ r.resource = 0x107)) := by
  refine ⟨?_, ⟨tSup, inv_of (by decide), ⟨by decide, by decide⟩, by decide⟩, ?_, ?_⟩
  · intro o d left h
    simp only [List.mem_cons, List.not_mem_nil, or_false, Prod.mk.injEq] at h
    rcases h with ⟨rfl, rfl, rfl⟩ | ⟨rfl, rfl, rfl⟩ | ⟨rfl, rfl, rfl⟩ | ⟨rfl, rfl, rfl⟩ | ⟨rfl, rfl, rfl⟩ <;>
      exact ⟨inv_of (by decide), ⟨by decide, by decide⟩, by decide, by decide, by decide, by decide, by decide, by decide, by decide⟩
  · refine ⟨inv_of ?_, ⟨?_, ?_⟩, ?_, ?_, ?_, ?_, ?_, ?_, ?_, ?_, ?_⟩ <;> decide
  · refine ⟨inv_of ?_, ⟨?_, ?_⟩, ?_, ?_, ?_, ?_, ?_⟩ <;> decide

/-- A frame that lane A's controller expects: the counts follow (3, 7), SAFE zero, REQ, EN and RS as given. -/
def tDown (sof body : Nat) : BitVec 128 := downFrame sof 4 0 0 0 0 body 0x7FFFFFF 9 8

/-- Domain D6 and the lanes' domains on; lane A's controller has seen the counts (3, 7) and is not tripped. -/
def tField (f : Ctrl → Ctrl) : State :=
  let s := tM R.PWR_DOM_STAT_STATE 0x2AAA
  { s with field := { s.field with ctrl := { s.field.ctrl with
    a := f { s.field.ctrl.a with last := some (3, 7), tripped := false, need := 0 } } } }

/-- A CB-TX3-N: no field interface is fitted. -/
def tBare : State := tM R.SYS_ID_FIO_FITTED 0

theorem witness_FieldLinks :
    (tBare.fitted = false ∧ Allowed tBare .a .c0 R.FIO_LEN true)
    ∧ (let s := tField id;
      s.Inv ∧ s.fitted = true ∧ s.dom 6 = 2 ∧ s.dom (laneDom .a) = 2 ∧ s.field.cfgOut = [])
    ∧ (Allowed tS .a .c0 R.FIO_LEN true ∧ setsReserved R.FIO_LEN 0x700000007FFFFFF = false
      ∧ (tS.core .a .c0).level = .k)
    ∧ (Allowed tSup .a .c0 R.FIO_LEN true ∧ R.FIO_LEN_COMASK.of 0x700000007FFFFFF ≠ 0 ∧ R.FIO_LEN_COMASK.of 0x7FFFFFF = 0
      ∧ (tSup.core .a .c0).level ≠ .k ∧ setsReserved R.FIO_LEN 0x7FFFFFF = false)
    ∧ (let n := (tDown 0xA5 0x4000001).toNat; let s := tField id
      s.Inv ∧ bits n 127 120 ≠ 0xC3 ∧ ((s.field.ctrl.get .a).judge n).2 = true ∧ ((tS.field.ctrl.get .a).judge n).2 = false)
    ∧ (let n := (tDown 0xC3 (47 * 2 ^ 21 + 0x11388 * 2 ^ 4)).toNat; let s := tField id
      bits n 127 120 = 0xC3 ∧ ((s.field.ctrl.get .a).judge n).2 = true ∧ bits n 101 96 = 47
        ∧ mapWf cfgReset (s.field.ctrl.get .a).cfg = true)
    ∧ (let s := { tField id with field := { (tField id).field with down := ⟨some (tDown 0xA5 1), none, none⟩ } }
      let u : Nat := 0x5A * 2 ^ 120 + 4 * 2 ^ 114 + 2 * 2 ^ 112 + 7 * 2 ^ 16
      let n := (BitVec.ofNat 128 (u + frameCrc u)).toNat
      s.Inv ∧ s.dom (laneDom .a) = 2 ∧ bits n 127 120 = 0x5A ∧ bits n 15 0 = frameCrc n ∧ s.field.down.get .a = some (tDown 0xA5 1)
        ∧ bits (tDown 0xA5 1).toNat 119 114 = bits n 119 114 ∧ bits n 113 112 = 2 ∧ bits (n + 1) 15 0 ≠ frameCrc (n + 1)) := by
  refine ⟨⟨?_, ?_, ?_⟩, ⟨inv_of ?_, ?_, ?_, ?_, ?_⟩, ⟨⟨?_, ?_⟩, ?_, ?_⟩, ⟨⟨?_, ?_⟩, ?_, ?_, ?_, ?_⟩, ⟨inv_of ?_, ?_, ?_, ?_⟩, ⟨?_, ?_, ?_, ?_⟩,
    ⟨inv_of ?_, ?_, ?_, ?_, ?_, ?_, ?_, ?_⟩⟩ <;> decide +kernel

/-- A field state with a pulse running. -/
def tPulse (p : Option (Bool × Nat × Nat × Bool)) : State :=
  let s := (tM R.PWR_DOM_STAT_STATE 0x2AAA).wrM R.FIO_PULSE_EN 1
  { s with field := { s.field with pulse := p, next := 161 } }

theorem witness_FieldSupplyAndPulses :
    (vfBeyond 601 = true ∧ vfBeyond (-301) = true ∧ vfBeyond 600 = false ∧ vfBeyond (-300) = false)
    ∧ ((tField fun x => { x with vf := 191 }).Inv ∧ (tField id).fitted = true ∧ ((tField fun x => { x with vf := 191 }).field.ctrl.get .a).vf < 192
      ∧ 300 < ((tField fun x => { x with vf := 301 }).field.ctrl.get .a).vf ∧ vfBeyond 194 = false ∧ vfBeyond 298 = false)
    ∧ (let x := (tField fun x => { x with req := 0x4000000 }).field.ctrl.get .a
      ownsBranch .a 2 = true ∧ bit x.req 26 = true ∧ x.light = none)
    ∧ ((tPulse none).Inv ∧ (tPulse none).fitted = true ∧ (tPulse none).rdM R.FIO_PULSE_EN = 1 ∧ (tPulse none).field.pulse = none ∧ (tPulse none).dom 6 = 2
      ∧ (tPulse none).safe = false
      ∧ ∀ m, bit ((tPulse none).field.ctrl.get m).vg (groupOf ((tPulse none).field.next % 27)) = true)
    ∧ (tPulse (some (true, 26, 5, false))).field.pulse = some (true, 26, 5, false)
    ∧ ((tPulse (some (false, 26, 5, false))).field.pulse = some (false, 26, 5, false) ∧ posOwner 5 = .a)
    -- the dark-end frame for cell 26, which is REQ
    ∧ (let n := (downFrame 0xA5 4 0 3 26 5 0x4000000 0x7FFFFFF 9 8).toNat; let x := (tField fun x => { x with pend := some (26, 2, true) }).field.ctrl.get .a
      x.pend = some (26, 2, true) ∧ bits n 127 120 ≠ 0xC3 ∧ (x.judge n).2 = true ∧ bits n 111 110 = 3 ∧ bit n 113 = false
        ∧ bit (bits n 101 75) 26 = true)
    ∧ (∃ s : State, s.Inv ∧ s.power.safe1 = true) := by
  refine ⟨⟨?_, ?_, ?_, ?_⟩, ⟨inv_of ?_, ?_, ?_, ?_, ?_, ?_⟩, ⟨?_, ?_, ?_⟩, ⟨inv_of ?_, ?_, ?_, ?_, ?_, ?_, lanes_of ?_⟩, ?_, ⟨?_, ?_⟩,
    ⟨?_, ?_, ?_, ?_, ?_, ?_⟩, { tS with power := { tS.power with safe1 := true } }, inv_of ?_, ?_⟩ <;> decide +kernel

/-! ## Witnesses: sorting, posting, Denras -/

theorem witness_InputAgreementTable : (Tri.zero ≠ .one) ∧ (Tri.one ≠ .unknown) ∧ (Tri.zero ≠ .unknown) := by decide

/-- A frame of a gather set. -/
def tG1 : GFrame := { slot := 3, postmark := 999999, crc := 5, wan := false, chanY := false, port := 1, node := 2, len := 1, payload := [1] }

/-- A round set of three lanes that has reached a phase, in which two lanes hold the frame and offsets stand at the skew limit. -/
def tSort (phase : Nat) : State :=
  let s := (tRs phase).onLane .a fun x => { x with offsets := [(2, 2000), (3, -2000)], inbox := [tG1], gather := [tG1] }
  { s.onLane .b fun x => { x with gather := [tG1] } with cyc := { s.cyc with bPrev := 999999, b := 1000000 } }

theorem witness_Sorting :
    ((tSort 0).Inv ∧ (tSort 0).cyc.active = true ∧ ((tSort 0).lane .a).running = true ∧ Turn (tSort 0) [] (phGather .a)
      ∧ (tSort 0).cyc.kind ≠ .halted ∧ (tSort 0).cyc.kind ≠ .test ∧ ∃ f ∈ ((tSort 0).lane .a).inbox, (tSort 0).cyc.bPrev ≤ f.postmark ∧ f.postmark < (tSort 0).cyc.b)
    ∧ (let s := tSort 0x70000; Turn s (s.voters.map phGather) phSort ∧ s.voters.length = 3
      ∧ (∀ x ∈ s.voters, s.rd x R.TSK_FORCE_COUNT = 0))
    ∧ (let s := tSort 0x70001; Turn s [phSort] phCopy ∧ (s.holders tG1).length = 2 ∧ .a ∈ s.voters ∧ tG1 ∈ (s.lane .a).gather)
    ∧ (let s := tSort 0x70003; Turn s [phCopy] phAgree ∧ s.outOfStep = [] ∧ ∀ x y, s.far x y = false)
    ∧ (tSort 0x70003).did phSort = true := by
  refine ⟨⟨inv_of ?_, ?_, ?_, turn_of ?_, ?_, ?_, tG1, ?_⟩, ⟨turn_of ?_, ?_, ?_⟩, ⟨turn_of ?_, ?_, ?_, ?_⟩, ⟨turn_of ?_, ?_,
    lanes_of ⟨lanes_of ?_, lanes_of ?_, lanes_of ?_⟩⟩, ?_⟩ <;> decide

/-- A round set that runs task 0 of the test image; STATE_BASE of the image is zero. -/
def tDue (phase : Nat) : State := { tRs phase with upd := { tS.upd with active := some (tImage (tBody [tTask])) } }

/-- Cell 23 FAILED, at rest, clean twice, in COMMISSIONING. -/
def tCell : State :=
  let s := (tM R.FIO_OUT_STAT_FAILED 0x800000).setMode mCommissioning
  { s with field := { s.field with clean := [(23, 2)], restRun := List.replicate 27 50 } }

theorem witness_PostingDispatchAndCells :
    (let s := tDue 4; s.Inv ∧ Turn s [phAgree] phHeld ∧ s.runs = true)
    ∧ (let s := tDue 0xC; Turn s [phHeld] phPost ∧ s.runs = true ∧ s.dueTasks = [0] ∧ .a ∈ s.postingLanes
      ∧ (Lane.a.code, 0) ∉ s.cyc.heldFlags ∧ (s.eng .a).areas = [])
    ∧ (let s := { tDue 0x1AC with cyc := { (tDue 0x1AC).cyc with voted := 1 } }
      s.Inv ∧ Turn s [phOutcome] phDispatch ∧ s.cyc.kind = .normal ∧ s.safe = false ∧ s.cyc.third = 0 ∧ s.fitted = true ∧ s.freshTasks = [0])
    ∧ (tCell.Inv ∧ Allowed tCell .a .c0 (fioCellAddr 23) true ∧ tCell.mode = mCommissioning ∧ tCell.cellFailed 23 = true
      ∧ tCell.atRest 23 = true ∧ mapGet (fun _ => 0) tCell.field.clean 23 = 2 ∧ tCell.fitted = true)
    ∧ (Allowed tS .a .c0 (fioCellAddr 23) true ∧ tS.mode ≠ mCommissioning)
    ∧ ((tM R.TWN_ROLE_STATE 5).Inv ∧ (tM R.TWN_ROLE_STATE 5).paired = true) := by
  refine ⟨⟨inv_of ?_, turn_of ?_, ?_⟩, ⟨turn_of ?_, ?_, ?_, ?_, ?_, ?_⟩, ⟨inv_of ?_, turn_of ?_, ?_, ?_, ?_, ?_, ?_⟩,
    ⟨inv_of ?_, ⟨?_, ?_⟩, ?_, ?_, ?_, ?_, ?_⟩, ⟨⟨?_, ?_⟩, ?_⟩, ⟨inv_of ?_, ?_⟩⟩ <;> decide

/-- A schedule entry (R311): KIND, SLOT, PEXP, PHASE, the ports of X and Y, NODE, USE. -/
def tEntry (kind slot px py node : Nat) : Word :=
  BitVec.ofNat 64 (kind * 2 ^ 62 + slot * 2 ^ 52 + px * 2 ^ 39 + py * 2 ^ 35 + node * 2 ^ 23 + 2 ^ 22)

/-- Star core X as ROOT in a state: node 5 sends in slot 10 through port 8, slot 587 is poste restante; window 1,000 ns each way. -/
def tStar (st : Nat) (f : StarCore → StarCore) : State :=
  let n := portN .x 8
  let s := (((((((tM R.STR_STAT_STATE_X st).wrM R.STR_CTRL_ROLE_X 1).wrM (R.STR_PORT_CTRL_EN n) 1).wrM (R.STR_PORT_CTRL_CS n) 1).wrM
    (R.STR_PORT_CTRL_PR n) 1).wrM R.STR_WINDOW_EARLY 100).wrM R.STR_WINDOW_LATE 100)
  s.onStar .x fun x => f { x with tables := x.tables.set 0 [tEntry 0 10 8 8 5, tEntry 3 587 0 0 0] }

/-- A good frame to channel X. -/
def tFrame (kind node slot : Nat) (p : List Nat) : Frame :=
  { destX := true, chan := .x, etherOk := true, hcrcOk := true, kind := kind, node := node, slot := slot, sched := 0, req := 0
    reqv := false, ack := false, round := 0, state := 0, len := p.length, payload := p }

theorem witness_StarGuardian :
    let n := portN .x 8
    let open' (s : State) (st : Nat) : Prop := s.coreState .x = st ∧ s.coreRole .x = 1 ∧ s.rdM (R.STR_PORT_CTRL_EN n) = 1
      ∧ s.rdM (R.STR_BLOCK_CNT_BLOCKED n) = 0
    let s := tStar 2 id
    let alone (s : State) (t : Nat) (f : Frame) : Prop := s.coldTie .x 8 t f = false ∧ (s.claimTie .x 8 t f).isNone = true
    let f := tFrame fkData 5 10 [1]
    let claim (v : Nat) : Frame := tFrame fkClaim 5 587 (v :: List.replicate 95 0)
    (s.Inv ∧ open' s 2 ∧ alone s 16100 f ∧ s.judge .x 8 16100 f true = .accept 10 ∧ (s.lane .a).running = true
      ∧ ((s.lane .a).rx.get .x).length < 588)
    ∧ (alone s 16101 f ∧ s.judge .x 8 16101 f true = .violation 10 2 ∧ s.judge .x 8 16100 f false = .violation 10 6
      ∧ s.rdM (R.STR_BLOCK_CNT_CONSEC n) < 2 ∧ 2 ≤ (s.wrM (R.STR_BLOCK_CNT_CONSEC n) 2).rdM (R.STR_BLOCK_CNT_CONSEC n)
      ∧ (s.wrM (R.STR_BLOCK_CNT_CONSEC n) 2).Inv ∧ (s.wrM (R.STR_BLOCK_CNT_CONSEC n) 2).judge .x 8 16101 f true = .violation 10 2)
    ∧ (open' (tStar 1 id) 1 ∧ (tStar 1 id).rdM (R.STR_PORT_CTRL_CS n) = 1 ∧ frameFormatOk .x (tFrame fkCold 5 0 []) = true)
    ∧ (s.judge .x 8 (587 * 1600) (claim 0) true = .accept 587 ∧ numAt (claim 0).payload 0 1 % 2 = 0
      ∧ (∀ c ∈ (s.star .x).claims, c.slot ≠ 587) ∧ alone s (587 * 1600) (claim 0))
    ∧ (let s := tStar 2 fun x => { x with claims := [⟨587, 8, 5, 64, false⟩] }
      s.Inv ∧ s.judge .x 8 (587 * 1600) (claim 1) true = .accept 587 ∧ numAt (claim 1).payload 0 1 % 2 = 1 ∧ alone s (587 * 1600) (claim 1)
      ∧ ∃ c ∈ (s.star .x).claims, c.slot = 587 ∧ 64 ≤ c.idle)
    ∧ (let s := (s.wrM R.STR_CTRL_ROLE_X 2).wrM R.STR_CTRL_UP_X 8
      s.Inv ∧ s.coreState .x = 2 ∧ s.coreRole .x = 2 ∧ s.upPort .x = 8 ∧ s.rdM (R.STR_PORT_CTRL_EN n) = 1 ∧ (1 : Nat) ≠ s.upPort .x
        ∧ s.coldTie .x 1 16100 f = false ∧ (s.claimTie .x 1 16100 f).isNone = true)
    ∧ (let s := (s.wrM (R.STR_BLOCK_CNT_BLOCKED n) 1).wrM (R.STR_BLOCK_CNT_SILENT n) 8
      s.Inv ∧ s.rdM (R.STR_BLOCK_CNT_BLOCKED n) = 1 ∧ 8 ≤ s.rdM (R.STR_BLOCK_CNT_SILENT n)) := by
  refine ⟨⟨inv_of ?_, ?_, ?_, ?_, ?_, ?_⟩, ⟨?_, ?_, ?_, ?_, ?_, inv_of ?_, ?_⟩, ⟨?_, ?_, ?_⟩, ⟨?_, ?_, ?_, ?_⟩, ⟨inv_of ?_, ?_, ?_, ?_, ?_⟩,
    ⟨inv_of ?_, ?_, ?_, ?_, ?_, ?_, ?_, ?_⟩, ⟨inv_of ?_, ?_, ?_⟩⟩ <;> decide +kernel

/-- Copies that star core X, a ROOT, delivered in this round; channel X is enabled in two lanes. -/
def tInner (s : State) (cs : List RxCopy) : State :=
  let s := ((s.wrM R.STR_CTRL_ROLE_X 1).wr .a R.DNR_CTRL_EN_X 1).wr .b R.DNR_CTRL_EN_X 1
  s.onStar .x fun x => { x with inner := cs }

/-- A whole copy of a frame that arrived in its slot through port 8 with a postmark. -/
def tRx (f : Frame) (t : Nat) : RxCopy := { slot := f.slot, frame := f, complete := true, truncated := false, postmark := t, port := 8 }

/-- The module's protocol in a state. -/
def tDnr (st : Nat) (f : Net → Net) : State :=
  let s := tM R.DNR_STAT_STATE st
  { s with net := f s.net }

theorem witness_NetworkProtocol :
    (tS.Inv ∧ Allowed tS .a .c0 R.DNR_CTRL true ∧ setsReserved R.DNR_CTRL 0x140017 = false ∧ tS.dnr = dnOff)
    ∧ (let s := (tW R.DNR_NODE_VALID 1).wr .b R.DNR_CTRL_EN 1
      s.Inv ∧ Allowed s .a .c0 R.DNR_CTRL true ∧ s.dnr = dnOff ∧ (after (exec (.protocolEnable .a .c0 0x140017) s)).dnrEnabled = true)
    ∧ (let f := tFrame fkCold 5 0 []; let s := tInner (tDnr dnListen fun n => { n with heard := 1, listen := some 7 }) [tRx f 0]
      s.Inv ∧ s.dnr = dnListen ∧ s.coldOn .x = some f ∧ s.coldOn .y = none ∧ s.net.listen = some 7)
    ∧ (let f := tFrame fkCold 5 0 []; let s := tInner (tDnr dnCold id) [tRx f 0]
      let s := (((s.wrM R.STR_CTRL_ROLE_Y 1).wr .a R.DNR_CTRL_EN_Y 1).wr .b R.DNR_CTRL_EN_Y 1).onStar .y fun x => { x with inner := [tRx f 0] }
      s.Inv ∧ s.dnr = dnCold ∧ 5 ≠ s.nodeId ∧ s.coldOn .x = some f ∧ s.coldOn .y = some f)
    ∧ (let s := tDnr dnCold id; s.Inv ∧ s.dnr = dnCold ∧ s.coldOn .x = none ∧ s.coldOn .y = none)
    ∧ (let s := tDnr dnActive fun n => { n with noSync := ⟨9, 9⟩, activeFor := 8, slot0Empty := 2 }
      s.Inv ∧ s.dnr = dnActive ∧ 9 ≤ s.net.noSync.x ∧ 9 ≤ s.net.noSync.y ∧ 8 ≤ s.net.activeFor ∧ 2 ≤ s.net.slot0Empty
      ∧ (s.wrM R.DNR_STAT_TWINSYNC 1).dnr = dnActive ∧ (s.wrM R.DNR_STAT_TWINSYNC 1).rdM R.DNR_STAT_TWINSYNC = 1)
    ∧ (let s := tDnr dnSilent id; s.Inv ∧ s.dnr = dnSilent ∧ s.net.silent = 0) := by
  refine ⟨⟨inv_of ?_, ⟨?_, ?_⟩, ?_, ?_⟩, ⟨inv_of ?_, ⟨?_, ?_⟩, ?_, ?_⟩, ⟨inv_of ?_, ?_, ?_, ?_, ?_⟩, ⟨inv_of ?_, ?_, ?_, ?_, ?_⟩, ⟨inv_of ?_, ?_, ?_, ?_⟩,
    ⟨inv_of ?_, ?_, ?_, ?_, ?_, ?_, ?_, ?_⟩, ⟨inv_of ?_, ?_, ?_⟩⟩ <;> decide

/-- An ACTIVE module with both channels enabled in two lanes, whose nodes are 1. -/
def tActive (f : State → State) : State :=
  let w (s : State) (l : Lane) : State := ((s.wr l R.DNR_CTRL_EN_X 1).wr l R.DNR_CTRL_EN_Y 1).wr l R.DNR_NODE_NODE 1
  let s := f (w (w (tM R.DNR_STAT_STATE dnActive) .a) .b)
  { s with upd := { s.upd with active := some (tImage (tBody [tTask])) } }

theorem witness_SyncAndRounds :
    (let k := tRx (tFrame fkSync 5 0 (List.replicate 32 0)) 700; let s := tInner (tActive id) [k]
      s.Inv ∧ s.dnr = dnActive ∧ k.frame.node ≠ s.nodeId ∧ (s.domainOf k.frame).1 = 0
        ∧ s.heardOn .x (fun c => decide (c.frame.kind = fkSync) && decide (c.slot = 0) && decide (0 < 2)) = some k)
    ∧ (let k := tRx (tFrame fkMgmt 5 2 [0, 5, 0, 0, 0x3C, 0, 0, 0, 0, 0, 0, 9]) 0; let s := tInner (tActive id) [k]
      s.heardOn .x (fun c => decide (c.frame.kind = fkMgmt)) = some k ∧ s.rdM R.DNR_STAT_LEADER = 0 ∧ s.rdM R.DNR_SCHED_SEL_CONF = 0
        ∧ bit (numAt k.frame.payload 4 1) 4 = true)
    ∧ (let s := tActive fun s => ((s.wrM R.DNR_SCHED_SEL_PEND 1).wrM R.DNR_SCHED_SEL_CONF 1).wrM R.DNR_ROUND_ROUND 0xFFFFFFFF
      s.Inv ∧ s.dnr = dnActive ∧ (s.lane .a).running = true ∧ s.rdM R.DNR_STAT_LEADER = 0 ∧ s.rdM R.DNR_SCHED_SEL_PEND = 1
      ∧ s.rdM R.DNR_SCHED_SEL_CONF = 1 ∧ (s.round + 1) % 2 ^ 32 = s.rdM R.DNR_SCHED_SEL_SWITCH_ROUND) := by
  refine ⟨⟨inv_of ?_, ?_, ?_, ?_, ?_⟩, ⟨?_, ?_, ?_, ?_⟩, ⟨inv_of ?_, ?_, ?_, ?_, ?_, ?_, ?_⟩⟩ <;> decide +kernel

theorem witness_NetworkRegisters :
    (tS.Inv ∧ Allowed tS .a .c0 R.DNR_SCHED_SEL true ∧ setsReserved R.DNR_SCHED_SEL 0xB00 = false)
    ∧ (Allowed tS .a .c0 R.DNR_SLOT_CLAIM true ∧ tS.rdM R.DNR_SLOT_CLAIM_STATE = 0 ∧ tS.net.freeSlots = [])
    ∧ (let s := tDnr 0 fun n => { n with freeSlots := [1023] }
      s.Inv ∧ Allowed s .a .c0 R.DNR_SLOT_CLAIM true ∧ s.rdM R.DNR_SLOT_CLAIM_STATE = 0 ∧ s.net.freeSlots = [1023])
    ∧ (let s := tM R.DNR_SLOT_CLAIM_STATE 2
      s.Inv ∧ Allowed s .a .c0 R.DNR_SLOT_CLAIM true ∧ s.rdM R.DNR_SLOT_CLAIM_STATE = 2)
    ∧ (let s := tS.setMode mStarting
      s.Inv ∧ Allowed s .a .c0 R.DNR_TBL_DATA true ∧ s.mode = mStarting ∧ s.dnr = dnOff)
    ∧ (let s := (tM R.DNR_STAT_STATE dnActive).setMode mRunning
      s.Inv ∧ Allowed s .a .c0 R.DNR_TBL_DATA true ∧ s.mode ≠ mStarting ∧ s.cyc.kind ≠ .conversion ∧ s.dnr ≠ dnOff
      ∧ s.rdM R.DNR_SCHED_SEL_NOW = s.rd .a R.DNR_TBL_ADDR_SCHED)
    ∧ (Allowed tS .a .c0 R.STR_GT_DATA true ∧ tS.cyc.active = false ∧ Allowed (tRs 0) .a .c0 R.STR_GT_DATA true
      ∧ (tRs 0).cyc.active = true) := by
  refine ⟨⟨inv_of ?_, ⟨?_, ?_⟩, ?_⟩, ⟨⟨?_, ?_⟩, ?_, ?_⟩, ⟨inv_of ?_, ⟨?_, ?_⟩, ?_, ?_⟩, ⟨inv_of ?_, ⟨?_, ?_⟩, ?_⟩,
    ⟨inv_of ?_, ⟨?_, ?_⟩, ?_, ?_⟩, ⟨inv_of ?_, ⟨?_, ?_⟩, ?_, ?_, ?_, ?_⟩, ⟨⟨?_, ?_⟩, ?_, ⟨?_, ?_⟩, ?_⟩⟩ <;> decide

/-- A good copy of a telegram to node 1. -/
def tCopy : RxCopy := tRx (tFrame fkData 5 10 [1, 0, 0, 0, 0, 0, 1, 0]) 0

theorem witness_FramesOfTheLanes :
    (∀ y : Bool, let s := (tActive id).onLane .a fun x => { x with rx := if y then ⟨[], [tCopy]⟩ else ⟨[tCopy], []⟩ }
      s.Inv ∧ (s.lane .a).running = true ∧ s.rd .a R.DNR_CTRL_EN_X = 1 ∧ s.rd .a R.DNR_CTRL_EN_Y = 1 ∧ tCopy.complete = true
        ∧ tCopy.truncated = false ∧ ((s.lane .a).rx.x.find? fun c => c.slot == 10) = (if y then none else some tCopy)
        ∧ ((s.lane .a).rx.y.find? fun c => c.slot == 10) = (if y then some tCopy else none)
        ∧ 10 ∉ s.net.sent.x ∧ 10 ∉ s.net.sent.y ∧ (s.lane .a).bus = [] ∧ s.addressed tCopy.frame = true)
    ∧ (∀ late : Bool,
      let s := tActive fun s => (((s.wrM R.DNR_STAT_LEADER 1).wrM R.STR_STAT_STATE_X 2).wrM R.CMP_VOTE_VSET 7).wr .a R.TST_DELAY_DNR (if late then 1 else 0)
      s.Inv ∧ s.cyc.kind ≠ .test ∧ s.mayTransmit .x = true ∧ s.dnr = dnActive ∧ s.rdM R.DNR_STAT_LEADER = 1 ∧ s.net.tx = none
        ∧ (∀ x, (s.lane x).inject = none) ∧ 2 ≤ s.voters.length ∧ (∀ x ∈ s.voters, (s.lane x).running = true) ∧ s.vset = 7
        ∧ (∀ x, (s.lane x).running = true) ∧ (∀ x ∈ [Lane.b, .c], 20000 + s.rd x R.TST_DELAY_DNR ≤ 20000)
        ∧ (20000 + s.rd .a R.TST_DELAY_DNR ≤ 20000 ↔ late = false)) := by
  refine ⟨fun y => ?_, fun late => ?_⟩
  · cases y <;> refine ⟨inv_of ?_, ?_, ?_, ?_, ?_, ?_, ?_, ?_, ?_, ?_, ?_, ?_⟩ <;> decide
  · cases late <;> refine ⟨inv_of ?_, ?_, ?_, ?_, ?_, ?_, lanes_of ?_, ?_, ?_, ?_, lanes_of ?_, ?_, ?_⟩ <;> decide

/-! ## Witnesses: time, recorder, power, change-over -/

/-- Star core X is ROOT and carries marks on port 8. -/
def tLink (k : LinkMeas) (valid delay : Nat) : State :=
  let n := portN .x 8
  let s := (((tM R.STR_CTRL_ROLE_X 1).wrM (R.STR_PORT_CTRL_EN n) 1).wrM (R.TIM_LDLY_VALID n) valid).wrM (R.TIM_LDLY_DELAY n) delay
  s.onStar .x fun x => { x with links := x.links.set 8 k }

/-- A state with the time unit changed; the module is LEAD, and PPS_IN and PPS_OUT are on in lane A. -/
def tTime (f : Time → Time) : State :=
  let s := (((tM R.TWN_ROLE_ROLE 1).wr .a R.TIM_PPS_IN_EN 1).wr .a R.TIM_PPS_OUT_EN 1).wr .a R.TIM_PPS_PTP_EN 1
  { s with time := f s.time }

/-- Four edges accepted, the last at 1 s; the next is due at 2 s and has TAI 7 s. -/
def tPps : State := tTime fun t => { t with pin := 1, edgeRun := 3, edges := [1000000000], extRate := 0, ptp := none, setTai := some 7000000000 }

theorem witness_TimeAndWideArea :
    (∀ t0, t0 = 2500 ∨ t0 = 2436 →
      let s := tLink ⟨some 0, [], 9, none⟩ 1 234
      s.Inv ∧ s.linkOpen .x 8 = true ∧ (s.link .x 8).t1 = some 0 ∧ s.rdM (R.TIM_LDLY_VALID (portN .x 8)) = 1
        ∧ 0 + 2000 ≤ t0 ∧ t0 ≤ 0 + 12000
        ∧ (((t0 : Int) - (0 : Nat) - 2000) - 2 * (s.rdM (R.TIM_LDLY_DELAY (portN .x 8)))).natAbs ≤ 64 ∧ 9 ≤ (s.link .x 8).bad)
    ∧ (1999 < 0 + 2000 ∧ 0 + 12000 < 12001)
    ∧ (let s := tTime fun t => { t with dom := 1, missed := 3 }
      s.Inv ∧ s.time.dom < 2 ∧ 3 ≤ s.time.missed ∧ s.rdM R.DNR_STAT_LEADER = 0)
    ∧ (let s := tPps
      s.Inv ∧ s.ppsIn = true ∧ s.rd s.mainLane R.TIM_PPS_POL = 0 ∧ 3 ≤ s.time.edgeRun ∧ s.time.edges = [1000000000]
        ∧ s.time.extRate = 0 ∧ s.rd s.mainLane R.TIM_PPS_CABLE ≤ 1999990000
        ∧ 1000000000 + 999990000 ≤ 1999990000 - s.rd s.mainLane R.TIM_PPS_CABLE
        ∧ 1999990000 - s.rd s.mainLane R.TIM_PPS_CABLE ≤ 1000000000 + 1000010000 ∧ s.time.ptp = none
        ∧ s.time.setTai = some 7000000000 ∧ s.extDuty = true ∧ s.rd s.mainLane R.TIM_PPS_OUT_EN = 1 ∧ s.rdM R.TIM_STAT_EXT_VALID = 0)
    ∧ (let s := tTime fun t => { t with edgeRun := 3, edges := [0], now := 2000000000 }
      s.Inv ∧ s.extDuty = true ∧ 3 ≤ s.time.edgeRun ∧ s.time.edges = [0] ∧ 0 + 2000000000 ≤ s.time.now)
    ∧ (let s := (tTime fun t => { t with holdFrom := some 0, now := 3600000000000 }).wrM R.TIM_STAT_EXT_VALID 1
      s.Inv ∧ s.time.holdFrom = some 0 ∧ 0 + 3600000000000 ≤ s.time.now ∧ s.rdM R.TIM_STAT_EXT_VALID = 1)
    ∧ (let s := (tTime id).wr .a R.TIM_PPS_IN_EN 0
      s.extDuty = true ∧ s.rd s.mainLane R.TIM_PPS_PTP_EN = 1 ∧ s.rd s.mainLane R.TIM_PPS_PTP_DOM ≤ 127 ∧ s.rd s.mainLane R.TIM_PPS_IN_EN = 0)
    ∧ Allowed tS .a .c0 R.TIM_EXT true
    ∧ (let s := { tEng [] [] with power := { tS.power with safe1 := true } }
      s.station = some (tBody [tTask]) ∧ (s.lane .a).running = true ∧ s.safe = true ∧ (tEng [] []).safe = false)
    ∧ ((tRs 0x400).safe = false ∧ (tRs 0x400).did phClose = true) := by
  refine ⟨?_, by decide, ⟨inv_of ?_, ?_, ?_, ?_⟩, ⟨inv_of ?_, ?_, ?_, ?_, ?_, ?_, ?_, ?_, ?_, ?_, ?_, ?_, ?_, ?_⟩, ⟨inv_of ?_, ?_, ?_, ?_, ?_⟩,
    ⟨inv_of ?_, ?_, ?_, ?_⟩, ⟨?_, ?_, ?_, ?_⟩, ⟨?_, ?_⟩, ⟨?_, ?_, ?_, ?_⟩, ⟨?_, ?_⟩⟩
  · rintro t0 (rfl | rfl) <;>
      exact ⟨inv_of (by decide), by decide, by decide, by decide, by decide, by decide, by decide, by decide⟩
  all_goals decide

/-- A record with a code. -/
def tRec (code flags : Nat) : Rec := { code := code, flags := flags, pcyc := 0, opmin := 0, rs := 0, t := 0, data := [] }

/-- A log changed; D7 is on. -/
def tLog (f : Log → Log) : State :=
  let s := tM R.PWR_DOM_STAT_STATE 0x8000
  { s with log := f s.log }

theorem witness_EventRecorder :
    (let s := tLog fun x => { x with buffer := [tRec 0x1234 0], window := [(0x1234, 9)] };
      s.Inv ∧ s.log.buffer = [tRec 0x1234 0] ∧ s.dom 7 = 2 ∧ s.log.closed = false ∧ s.rdM R.LOG_FREEZE_FROZEN = 0 ∧ s.log.erasing = false
        ∧ mapGet (fun _ => 0) s.log.window 0x1234 < (s.rate 0x1234).1 ∧ s.log.store.length + 1 < 471860 ∧ winOf (tRec 0x1234 0).t ≤ s.log.winIdx)
    ∧ (let s := (tLog fun x => { x with buffer := [tRec 0xB002 0] }).wrM R.LOG_FREEZE_FROZEN 1
      s.Inv ∧ s.log.buffer = [tRec 0xB002 0] ∧ s.dom 7 = 2 ∧ s.log.closed = false ∧ s.rdM R.LOG_FREEZE_FROZEN = 1 ∧ codeFixed 0xB002 = true
        ∧ s.log.held.length < 1024 ∧ winOf (tRec 0xB002 0).t ≤ s.log.winIdx)
    ∧ (let s := tLog fun x => { x with buffer := [tRec 0x1234 0], window := [(0x1234, 10)], deadWin := [(0x1234, 1, 0, 0)] }
      s.Inv ∧ codeFixed 0x1234 = false ∧ bit (tRec 0x1234 0).flags 3 = false ∧ bit (tRec 0x1234 0).flags 2 = false
        ∧ (s.rate 0x1234).1 ≤ mapGet (fun _ => 0) s.log.window 0x1234 ∧ winOf (tRec 0x1234 0).t ≤ s.log.winIdx
        ∧ s.log.buffer.length + s.log.open_.length ≤ 4096)
    ∧ (let r : Rec := { tRec 0x1234 0 with t := 1000000000 }; let s := tLog fun x => { x with buffer := [r] }
      s.Inv ∧ s.log.buffer = [r] ∧ s.dom 7 = 2 ∧ s.log.closed = false ∧ s.log.winIdx < winOf r.t)
    ∧ (∀ ds, ds = [] ∨ ds = [(0x1234, 1, 0, 0)] → let s := tLog fun x => { x with deadWin := ds }
      let s := { s with time := { s.time with now := 1000000000 } }
      s.Inv ∧ s.dom 7 = 2 ∧ s.log.closed = false ∧ s.log.buffer = [] ∧ winOf s.time.now ≠ s.log.winIdx ∧ s.log.deadWin = ds
        ∧ s.rdM R.LOG_FREEZE_FROZEN = 0 ∧ s.log.erasing = false ∧ s.log.store.length + 1 < 471860)
    ∧ (let s := (tRs 0).wr .b R.LOG_FREEZE_FREEZE 1
      s.Inv ∧ Allowed s .a .c0 R.LOG_FREEZE true ∧ setsReserved R.LOG_FREEZE 0x100 = false ∧ R.LOG_FREEZE_FREEZE.of 0x100 = 1 ∧ .a ∈ s.voters
        ∧ .b ∈ s.voters ∧ s.rd .b R.LOG_FREEZE_FREEZE = 1 ∧ s.freezers < 2 ∧ R.LOG_FREEZE_FREEZE.of 0 = 0 ∧ setsReserved R.LOG_FREEZE 0 = false)
    ∧ (∃ s : State, s.Inv ∧ s.rdM R.LOG_FREEZE_FROZEN = 1 ∧ s.freezeOver = true)
    ∧ (let s := ((tRs 0).setMode mCommissioning).onLane .b fun x => { x with clearReq := true }
      s.Inv ∧ Allowed s .a .c0 R.LOG_CTRL true ∧ s.mode = mCommissioning ∧ (s.lane .b).clearReq = true ∧ .a ∈ s.voters ∧ .b ∈ s.voters)
    ∧ (Allowed tS .a .c0 R.LOG_CTRL true ∧ tS.mode ≠ mCommissioning)
    ∧ (let s := tLog fun x => { x with erasing := true }
      s.Inv ∧ s.log.erasing = true ∧ s.log.held = [] ∧ s.rdM R.LOG_FREEZE_FROZEN = 0)
    ∧ (Allowed tS .a .c0 R.LOG_RATE true ∧ setsReserved R.LOG_RATE 0 = false ∧ codeKnown 0x1001 = true ∧ codeFixed 0x1001 = false
      ∧ codeKnown 0x1234 = false) := by
  refine ⟨⟨inv_of ?_, ?_, ?_, ?_, ?_, ?_, ?_, ?_, ?_⟩, ⟨inv_of ?_, ?_, ?_, ?_, ?_, ?_, ?_, ?_⟩, ⟨inv_of ?_, ?_, ?_, ?_, ?_, ?_, ?_⟩,
    ⟨inv_of ?_, ?_, ?_, ?_, ?_⟩, fun ds h => by
      rcases h with rfl | rfl <;>
        exact ⟨inv_of (by decide), by decide, by decide, by decide, by decide, by decide, by decide, by decide, by decide⟩,
    ⟨inv_of ?_, ⟨?_, ?_⟩, ?_, ?_, ?_, ?_, ?_, ?_, ?_, ?_⟩, ⟨{ ((tRs 0).wr .a R.LOG_FREEZE_FREEZE 1).wrM R.LOG_FREEZE_FROZEN 1 with time := { tS.time with now := 600000000000 } }, inv_of ?_, ?_, ?_⟩,
    ⟨inv_of ?_, ⟨?_, ?_⟩, ?_, ?_, ?_, ?_⟩, ⟨⟨?_, ?_⟩, ?_⟩, ⟨inv_of ?_, ?_, ?_, ?_⟩, ⟨⟨?_, ?_⟩, ?_, ?_, ?_, ?_⟩⟩ <;> decide

/-- A stamp of lane A with a tag and a kind. -/
def tStamp (tag kind : Nat) (held : Bool) : Stamp := { lane := .a, tag := tag, kind := kind, arg := 0, held := held, order := tag }

/-- The stamps pending and held; HOLD as given. -/
def tStamps (xs : List Stamp) (hold : Nat) : State :=
  let s := tM R.PWR_SUPPLY_HOLD hold
  { s with power := { s.power with stamps := xs } }

theorem tStamps_queue (h : Nat) : (tStamps [tStamp 7 1 false] h).stampQueue = [tStamp 7 1 false] := by
  unfold State.stampQueue
  have : ∀ p : Stamp → Bool, p (tStamp 7 1 false) = true → [tStamp 7 1 false].filter p = [tStamp 7 1 false] := by
    intro p hp; simp [hp]
  show (List.filter _ [tStamp 7 1 false]).mergeSort _ = _
  rw [this _ rfl]
  simp

theorem witness_Stamps :
    (let v : Word := BitVec.ofNat 64 (R.PWR_STAMP_REQ_KIND.put (R.PWR_STAMP_REQ_TAG.put 0 7) 4).toNat;
      tS.Inv ∧ Allowed tS .a .c0 R.PWR_STAMP_REQ true ∧ setsReserved R.PWR_STAMP_REQ v = false ∧ R.PWR_STAMP_REQ_KIND.of v = 4
        ∧ R.PWR_STAMP_REQ_ARG.of v < 3 ∧ R.PWR_STAMP_REQ_TAG.of v = 7 ∧ ∀ x ∈ tS.power.stamps, ¬ (x.lane = .a ∧ x.tag = 7))
    ∧ (let s := tStamps [tStamp 6 1 true, tStamp 7 1 true] 0
      s.Inv ∧ Allowed s .a .c0 R.PWR_STAMP_REQ true ∧ s.power.stamps = [tStamp 6 1 true] ++ tStamp 7 1 true :: []
        ∧ ∀ y ∈ [tStamp 6 1 true], ¬ (y.lane = Lane.a ∧ y.tag = 7))
    ∧ (∀ h, h = 0 ∨ h = 1 → let s := tStamps [tStamp 7 1 false] h
      s.Inv ∧ s.stampQueue = [tStamp 7 1 false] ∧ s.rdM R.PWR_SUPPLY_HOLD = h ∧ stampAmount 1 ≤ s.headroom) := by
  have grant (h : Nat) (hh : h = 0 ∨ h = 1) : let s := tStamps [tStamp 7 1 false] h
      s.Inv ∧ s.stampQueue = [tStamp 7 1 false] ∧ s.rdM R.PWR_SUPPLY_HOLD = h ∧ stampAmount 1 ≤ s.headroom := by
    rcases hh with rfl | rfl <;> exact ⟨inv_of (by decide), tStamps_queue _, by decide, by decide⟩
  refine ⟨⟨inv_of ?_, ⟨?_, ?_⟩, ?_, ?_, ?_, ?_, ?_⟩, ⟨inv_of ?_, ⟨?_, ?_⟩, ?_, ?_⟩, grant⟩ <;> decide

/-- The supply in a state, with HOLD and RST_N as given. -/
def tSupply (p : Supply) (hold : Nat) (low : Bool) : State :=
  let s := tM R.PWR_SUPPLY_HOLD hold
  { s with power := { s.power with supply := p, rstLow := low } }

theorem witness_InputSupply :
    (vinBeyond 1541 = true ∧ vinBeyond (-1401) = true ∧ vinBeyond 167 = false ∧ vinInBand 167 = false ∧ vinInBand 168 = true
      ∧ vinInBand 1375 = true ∧ vinBeyond 1376 = false ∧ vinInBand 1376 = false)
    ∧ (let s := tSupply .on 0 false; s.Inv ∧ s.power.supply ≠ .off ∧ s.rdM R.PWR_SUPPLY_HOLD = 0 ∧ (s.lane .a).running = true)
    ∧ (let s := tSupply .on 1 false; s.Inv ∧ s.rdM R.PWR_SUPPLY_HOLD = 1 ∧ s.power.supply = .on)
    ∧ (let s := tSupply .standby 1 false; s.Inv ∧ s.rdM R.PWR_SUPPLY_HOLD = 1 ∧ s.power.supply = .standby)
    ∧ ((9999 : Nat) < 10000 ∧ (10000 : Nat) ≤ 10000)
    ∧ (∃ s : State, s.Inv ∧ s.safe = true ∧ s.power.lampTest = false ∧ s.power.supply ≠ .off)
    ∧ (let s := tSupply .powerFail 1 true; s.Inv ∧ s.rdM R.PWR_SUPPLY_HOLD = 1 ∧ s.power.supply = .powerFail ∧ s.power.rstLow = true)
    ∧ (let s := tSupply .off 0 false; s.Inv ∧ s.power.supply = .off) := by
  refine ⟨by decide, ⟨inv_of ?_, ?_, ?_, ?_⟩, ⟨inv_of ?_, ?_, ?_⟩, ⟨inv_of ?_, ?_, ?_⟩, by decide,
    ⟨{ tSupply .on 0 false with power := { (tSupply .on 0 false).power with safe1 := true, lampTest := false } }, inv_of ?_, ?_, ?_, ?_⟩,
    ⟨inv_of ?_, ?_, ?_, ?_⟩, ⟨inv_of ?_, ?_⟩⟩ <;> decide

/-- RST_N low after the resets listed by operating minute. -/
def tReset (rs : List Nat) : State :=
  let s := tSupply .resetHeld 0 true
  { s with power := { s.power with resets := rs } }

theorem witness_ResetInputAndDomains :
    (let s := tSupply .on 0 false; s.Inv ∧ s.power.supply ≠ .off ∧ s.power.supply ≠ .powerFail ∧ s.power.rstLow = false)
    ∧ (let s := tSupply .powerFail 0 false; s.Inv ∧ s.power.supply = .powerFail ∧ s.power.rstLow = false)
    ∧ ((tReset [0, 0, 0]).Inv ∧ (tReset [0, 0, 0]).power.rstLow = true ∧ (tReset [0, 0, 0]).chattering = false)
    ∧ ((tReset [0, 0, 0, 0]).Inv ∧ (tReset [0, 0, 0, 0]).power.rstLow = true ∧ (tReset [0, 0, 0, 0]).chattering = true)
    ∧ (let s := tM R.PWR_DOM_STAT_STATE 0xAAAA
      s.Inv ∧ s.dom (laneDom .a) ≠ 0 ∧ s.dom 5 ≠ 0 ∧ s.dom 6 ≠ 0 ∧ s.dom 7 ≠ 0 ∧ (s.wrM R.PWR_DOM_STAT_REG_Y 1).rdM R.PWR_DOM_STAT_REG_Y = 1)
    ∧ (let s := tBare.wrM R.PWR_DOM_STAT_STATE 0xAAAA; s.Inv ∧ s.dom 6 ≠ 0 ∧ s.fitted = false)
    ∧ (Allowed tS .a .c0 R.PWR_DOM_CTRL true ∧ setsReserved R.PWR_DOM_CTRL 0 = false ∧ tS.cyc.active = false
      ∧ Allowed (tRs 0) .a .c0 R.PWR_DOM_CTRL true ∧ (tRs 0).cyc.active = true) := by
  refine ⟨⟨inv_of ?_, ?_, ?_, ?_⟩, ⟨inv_of ?_, ?_, ?_⟩, ⟨inv_of ?_, ?_, ?_⟩, ⟨inv_of ?_, ?_, ?_⟩, ⟨inv_of ?_, ?_, ?_, ?_, ?_, ?_⟩,
    ⟨inv_of ?_, ?_, ?_⟩, ⟨⟨?_, ?_⟩, ?_, ?_, ⟨?_, ?_⟩, ?_⟩⟩ <;> decide

/-- The module in STARTING with its domains on, a full start at step 5, the supply in order. -/
def tTest (f : Power → Power) : State :=
  let s := (((((tM R.PWR_DOM_STAT_STATE 0xAAAA).setMode mStarting).wrM R.PWR_SUPPLY_INBAND 1).wrM R.PWR_SUPPLY_HOLD 0).wrM
    R.PWR_SUPPLY_HOLDUP_OK 1)
  { s with power := f { s.power with full := true, step := 5 } }

theorem witness_SelfTestFillAndShutdown :
    (∀ b ∈ [0, 16], ∀ r ∈ [[], [b]], let s := tTest fun p => { p with retry := r }
      s.Inv ∧ s.testing b = true ∧ s.testSupply = true ∧ blockStamp b ≤ s.headroom ∧ s.power.stopping = false ∧ s.unusable b = false
        ∧ (b ∈ s.power.retry ↔ r = [b]))
    ∧ (let s := tTest fun p => { p with waiting := some 16 }
      s.Inv ∧ s.power.waiting = some 16 ∧ s.testSupply = true)
    ∧ (let s := { tTest (fun p => { p with full := false }) with lanes := .all resetLane }
      s.Inv ∧ s.mode = mStarting ∧ s.dom (laneDom .a) = 2 ∧ (s.lane .a).running = false ∧ s.rd .a R.MEM_FILL_DRAM_DONE = 0
        ∧ s.power.full = false ∧ s.unusable 3 = false)
    ∧ (let s := tTest fun p => { p with stopping := true }
      s.Inv ∧ s.power.stopping = true ∧ s.safe = false)
    ∧ (let s := { tBare with power := { tBare.power with stopping := true } }
      s.Inv ∧ s.power.stopping = true ∧ s.safe = false ∧ s.fitted = false) := by
  refine ⟨?_, ⟨inv_of ?_, ?_, ?_⟩, ⟨inv_of ?_, ?_, ?_, ?_, ?_, ?_, ?_⟩, ⟨inv_of ?_, ?_, ?_⟩, ⟨inv_of ?_, ?_, ?_, ?_⟩⟩
  · intro b hb r hr
    simp only [List.mem_cons, List.not_mem_nil, or_false] at hb hr
    rcases hb with rfl | rfl <;> rcases hr with rfl | rfl <;>
      exact ⟨inv_of (by decide), by decide, by decide, by decide, by decide, by decide, by decide⟩
  all_goals decide

/-- The change-over at a stage, with an inactive image of one task whose logic is one word. -/
def tUpd (stage : Nat) (f : Upd → Upd) : State :=
  let k := { tTask with logicBase := 0x40000000, logic := [0x3F00000000000000] }
  let s := (tM R.UPD_STAT_STAGE stage).wrM R.PWR_DOM_STAT_STATE 0xAAAA
  { s with upd := f { s.upd with inactive := some (tImage (tBody [k])) } }

theorem witness_ChangeOver :
    (let s := tUpd upReady id;
      s.Inv ∧ Allowed s .a .c0 R.UPD_CTRL true ∧ s.changing = false ∧ s.upd.inactive ≠ none)
    ∧ (Allowed tS .a .c0 R.UPD_CTRL true ∧ tS.upd.inactive = none ∧ tS.changing = false)
    ∧ (let s := (tUpd upReady fun u => { u with agreed := true }).wrM R.PWR_SUPPLY_HOLDUP_OK 1
      s.Inv ∧ Allowed s .a .c0 R.UPD_CTRL true ∧ s.upd.agreed = true ∧ s.stage = upReady ∧ (s.setMode mRunning).guards = 0
        ∧ (s.setMode mRunning).paired = false ∧ (s.setMode mRunning).stage = upReady ∧ (s.setMode mRunning).Inv
        ∧ Allowed (s.setMode mRunning) .a .c0 R.UPD_CTRL true ∧ (s.setMode mStarting).guards ≠ 0)
    ∧ (let s := (tUpd upCommitted id).wrM R.PWR_D0_OPMIN 0xFFFF
      s.Inv ∧ Allowed s .a .c0 R.UPD_CTRL true ∧ s.changing = true ∧ s.upd.since + s.rd s.mainLane R.UPD_CTRL_TIMEOUT ≤ s.opmin)
    ∧ (∃ s : State, s.Inv ∧ ¬ s.upd.since + s.rd s.mainLane R.UPD_CTRL_TIMEOUT ≤ s.opmin)
    ∧ (let s := tUpd upApply id
      s.Inv ∧ s.dom 7 = 2 ∧ s.stage = upApply ∧ (∃ i b, s.upd.inactive = some i ∧ i.station = some b ∧ ∃ k, b.tasks = [k] ∧ k.logic.length = 1)
        ∧ ∀ x, (s.lane x).running = true)
    ∧ (let s := { tM R.STR_STAT_STATE_Y 2 with sec := { tS.sec with booted := some (tImage (tBody [])) } }
      let s := (s.wrM R.DNR_STAT_INT_Y 1).wrM R.STR_STAT_STATE_X 1
      s.Inv ∧ s.round % 64 = 0 ∧ s.coreState .y = 2 ∧ s.rdM R.DNR_STAT_INT_Y = 1 ∧ s.coreState .x ≠ 0 ∧ s.sec.booted = some (tImage (tBody []))) := by
  refine ⟨⟨inv_of ?_, ⟨?_, ?_⟩, ?_, ?_⟩, ⟨⟨?_, ?_⟩, ?_, ?_⟩, ⟨inv_of ?_, ⟨?_, ?_⟩, ?_, ?_, ?_, ?_, ?_, inv_of ?_, ⟨?_, ?_⟩, ?_⟩,
    ⟨inv_of ?_, ⟨?_, ?_⟩, ?_, ?_⟩, ⟨tS, inv_of ?_, ?_⟩, ⟨inv_of ?_, ?_, ?_, ⟨_, _, rfl, rfl, _, rfl, rfl⟩, lanes_of ?_⟩, ⟨inv_of ?_, ?_, ?_, ?_, ?_, rfl⟩⟩
    <;> decide

/-! ## Witnesses: ownership, mailboxes, the twins

Which signatures verify and which wrapped keys open is not for the model to say, so no state with `ownerOk`, a passing image or an
opened key can be shown; the statements say what holds either way. -/

/-- The module's domains are on. -/
def tOn : State := tM R.PWR_DOM_STAT_STATE 0xAAAA

/-- An owner command, and a key package of generation 1. -/
def tAuth : OwnerAuth := ⟨1, 2, [3]⟩
def tKey : KeyPackage := ⟨tAuth, 0, 0, 1, 9⟩

theorem witness_OwnerCommands :
    (let s := tOn.setMode mCommissioning;
      s.Inv ∧ s.sec.anchor = none ∧ s.mode = mCommissioning ∧ s.dom 7 = 2 ∧ s.rdM R.SEC_STAT_OWNED = 0)
    ∧ (tS.Inv ∧ (tS.sec.anchor ≠ none ∨ tS.mode ≠ mCommissioning) ∧ ¬ (tS.dom 7 = 2 ∧ tS.ownerOk tAuth = true))
    ∧ (∀ m ∈ [mCommissioning, mRunning], let s := { tS.setMode m with cyc := { tS.cyc with commCmd := some true } }
      s.Inv ∧ s.stage ≠ upReady ∧ s.cyc.commCmd = some true ∧ (s.commFailed true = 0 ↔ m = mRunning))
    ∧ (tKey.keyRef < 64 ∧ tS.sec.gen < tKey.gen ∧ tKey.gen ≤ 4095)
    ∧ (let s := { tOn with sec := { tOn.sec with gen := 1 } }
      s.Inv ∧ tKey.gen ≤ s.sec.gen)
    ∧ (let s := { tOn with sec := { tOn.sec with epoch := some 5 } }
      s.Inv ∧ s.sec.epoch = some 5 ∧ s.sec.gen < tKey.gen) := by
  refine ⟨⟨inv_of ?_, ?_, ?_, ?_, ?_⟩, ⟨inv_of ?_, ?_, ?_⟩, forall_two ⟨inv_of ?_, ?_, rfl, ?_⟩ ⟨inv_of ?_, ?_, rfl, ?_⟩, ?_, ⟨inv_of ?_, ?_⟩, ⟨inv_of ?_, ?_, ?_⟩⟩ <;>
    decide

/-- A mailbox command of lane A is in progress. -/
def tMbox : State := tOn.onLane .a fun x => { x with mbox := some { cmd := 1, addr := 64, result := 0, response := [1, 2, 3] } }

theorem witness_MailboxCommands :
    (tOn.Inv ∧ (tOn.lane .a).running = true ∧ tOn.dom 7 = 2 ∧ (tOn.lane .a).mbox = none
      ∧ (64 % 64 = 0 ∧ 64 + 128 ≤ 0x1000000) ∧ ¬ (65 % 64 = 0) ∧ ¬ (0xFFFFC0 + 65 ≤ 0x1000000)
      ∧ tOn.holdsStamp 5 0 = false ∧ tOn.station = none ∧ tOn.rxKeys = [] ∧ tOn.ownerOk tAuth = false
      ∧ tOn.imageCheck (tImage (tBody [])) ≠ 1 ∧ (tOn.readBuffer .a 64 32).1 = some (List.replicate 32 0)
      ∧ (tOn.statement (List.replicate 32 0)).length ≤ 512)
    -- a poisoned word in the buffer
    ∧ (((tOn.onLane .a fun x => x.putStored 64 0 poisonMask).readBuffer .a 64 32).1 = none)
    ∧ (tMbox.Inv ∧ (tMbox.lane .a).mbox = some { cmd := 1, addr := 64, result := 0, response := [1, 2, 3] } ∧ 64 % 8 = 0)
    ∧ (let s := { tOn with power := { tOn.power with stamps := [tStamp 1 5 true] } }
      s.Inv ∧ s.holdsStamp 5 0 = true ∧ (s.lane .a).running = true ∧ s.dom 7 = 2 ∧ (s.lane .a).mbox = none)
    ∧ (let s := { tOn with sec := { tOn.sec with keys := [(0, 9, 0, 0)] } }
      s.Inv ∧ s.rxKeys ≠ [] ∧ (s.lane .a).running = true ∧ s.dom 7 = 2 ∧ (s.lane .a).mbox = none)
    ∧ (let s := tUpd upConvert id
      s.Inv ∧ s.changing = true ∧ (s.lane .a).running = true ∧ s.dom 7 = 2 ∧ (s.lane .a).mbox = none) := by
  refine ⟨⟨inv_of ?_, ?_, ?_, ?_, ?_, ?_, ?_, ?_, rfl, rfl, ?_, ?_, by decide +kernel, by decide +kernel⟩, by decide +kernel, ⟨inv_of ?_, rfl, ?_⟩, ⟨inv_of ?_, ?_, ?_, ?_, ?_⟩,
    ⟨inv_of ?_, ?_, ?_, ?_, ?_⟩, ⟨inv_of ?_, ?_, ?_, ?_, ?_⟩⟩ <;> decide

/-- A module with its twin link in use, in a twin state and a role, RUNNING, in a round set whose phases of the mask have acted. -/
def tTwin (st role phase : Nat) (f : Twin → Twin) : State :=
  let s := (((((tRs phase).wrM R.TWN_CTRL_EN 1).wrM R.TWN_ROLE_STATE st).wrM R.TWN_ROLE_ROLE role).setMode mRunning).wr .a R.DNR_NODE_TWIN 7
  { s with twin := f { s.twin with noLink := false } }

/-- A HELLO of node 7 in position PB. -/
def tHello : Hello := { wellFormed := true, position := 1, node := 7, serial := 0, hwtype := 0xCB730001, ident := 0, twinProto := 1
                        stage := 0, commissioning := false }

/-- An input record, a compare record and an update record of the twin. -/
def tInRec : InputRec := { rs := 0, att := false, alone := true, field := [.one], inst := 0, conns := [], chkOk := true }
def tCmp (clean safe : Bool) (outreq : Nat) : CompareRec :=
  { rs := 0, nextb := 0, clean := clean, safe := safe, conv := false, step := false, forced := false, unpaired := false, track := false
    swapreq := false, role := 1, due := 0, outreq := outreq, swapk := 0, vseal := [], telegrams := [], chkOk := true }

/-- Both compare records of the round set are held. -/
def tBoth (o r : CompareRec) : State := tTwin twPaired 1 0x400 fun x => { x with own := some o, theirs := some r }

theorem witness_TwinRecords :
    (∀ st ∈ [twHello, twAlone], let s := tTwin st 1 0 id
      s.Inv ∧ s.twinOn = true ∧ mStarting < s.mode ∧ s.safe = false ∧ s.mode ≠ mCommissioning ∧ tHello.commissioning = false
        ∧ s.helloCause tHello = 0 ∧ s.tw = st ∧ s.rdM R.TWN_ROLE_POS = 0 ∧ s.helloCause { tHello with position := 0 } = 1
        ∧ s.twin.twinComm = false)
    ∧ (∀ st ∈ [twTransfer, twTrack], let s := (tTwin st 1 0 id).wrM R.TWN_ROLE_LINK_A 1
      s.Inv ∧ s.rdM R.TWN_ROLE_LINK_A = 1 ∧ s.rdM R.TWN_ROLE_LINK_B = 0 ∧ s.tw = st)
    ∧ (let s := tTwin twPaired 1 4 id
      let good (absent : Nat) := s.voters.filter fun x => (s.lane x).running && !bit absent x.bit && !bit 0 x.bit
      s.Inv ∧ Turn s [phAgree] phTwinSend ∧ s.exchanges = true ∧ (good 1).length = 2 ∧ (good 3).length < 2 ∧ tInRec.chkOk = true ∧ tInRec.rs = s.k ∧ s.did phPair = false)
    ∧ (tS.exchanges = false)
    ∧ (let s := tTwin twPaired 1 0x20 fun x => { x with got := some tInRec }
      s.Inv ∧ Turn s [phPost] phPair ∧ s.exchanges = true ∧ s.twin.got = some tInRec ∧ tInRec.att = false ∧ s.role ≠ 0)
    ∧ (let s := tTwin twPaired 1 0x20 id
      s.Inv ∧ Turn s [phPost] phPair ∧ s.exchanges = true ∧ s.twin.got = none)
    ∧ (let s := tTwin twPaired 1 0x400 id
      s.Inv ∧ Turn s [phClose] phCompareSend ∧ (tCmp true false 0).chkOk = true ∧ (tCmp true false 0).rs = s.k ∧ s.did phTwin = false) := by
  refine ⟨?_, ?_, ⟨inv_of ?_, turn_of ?_, ?_, ?_, ?_, ?_, ?_, ?_⟩, ?_, ⟨inv_of ?_, turn_of ?_, ?_, rfl, ?_, ?_⟩, ⟨inv_of ?_, turn_of ?_, ?_, rfl⟩,
    ⟨inv_of ?_, turn_of ?_, ?_, ?_, ?_⟩⟩
  · refine forall_two ?_ ?_ <;> refine ⟨inv_of ?_, ?_, ?_, ?_, ?_, ?_, ?_, ?_, ?_, ?_, ?_⟩ <;> decide
  · refine forall_two ?_ ?_ <;> refine ⟨inv_of ?_, ?_, ?_, ?_⟩ <;> decide
  all_goals decide

theorem both_of {own r : Bool} {n : Nat} {safe : Bool} (h : (let o := tCmp own false 0; let c := tCmp r safe n; let s := tBoth o c
      laneOk s.lanes.a && laneOk s.lanes.b && laneOk s.lanes.c && mapWf resetOf s.modRegs && s.cyc.active && [phClose].all s.did
        && !s.did phTwin && s.exchanges && decide (s.stage ≠ upCompare) && (equalRecords o c == (n == 0)) && s.paired) = true) :
    let o := tCmp own false 0
    let c := tCmp r safe n
    let s := tBoth o c
    s.Inv ∧ Turn s [phClose] phTwin ∧ s.exchanges = true ∧ s.twin.own = some o ∧ s.twin.theirs = some c ∧ c.safe = safe
      ∧ o.step = false ∧ c.step = false ∧ o.conv = false ∧ c.conv = false ∧ s.stage ≠ upCompare
      ∧ equalRecords o c = (n == 0) ∧ s.paired = true ∧ o.clean = own ∧ c.clean = r := by
  simp only [Bool.and_eq_true, decide_eq_true_eq, beq_iff_eq] at h
  exact ⟨inv_of (by simp only [Bool.and_eq_true]; exact h.1.1.1.1.1.1.1), turn_of (by simp only [Bool.and_eq_true]; exact ⟨⟨h.1.1.1.1.1.1.2, h.1.1.1.1.1.2⟩, h.1.1.1.1.2⟩),
    h.1.1.1.2, rfl, rfl, rfl, rfl, rfl, rfl, rfl, h.1.1.2, h.1.2, h.2, rfl, rfl⟩

theorem witness_TwinRecords_decision :
    (∀ q ∈ [(true, true, 0), (true, true, 1), (true, false, 1), (false, true, 1), (false, false, 1)],
      let o := tCmp q.1 false 0
      let r := tCmp q.2.1 false q.2.2
      let s := tBoth o r
      s.Inv ∧ Turn s [phClose] phTwin ∧ s.exchanges = true ∧ s.twin.own = some o ∧ s.twin.theirs = some r ∧ r.safe = false
        ∧ o.step = false ∧ r.step = false ∧ o.conv = false ∧ r.conv = false ∧ s.stage ≠ upCompare
        ∧ equalRecords o r = (q.2.2 == 0) ∧ s.paired = true ∧ o.clean = q.1 ∧ r.clean = q.2.1)
    ∧ (let s := tBoth (tCmp true false 0) (tCmp true true 0)
      s.Inv ∧ Turn s [phClose] phTwin ∧ s.exchanges = true ∧ s.twin.theirs = some (tCmp true true 0) ∧ (tCmp true true 0).safe = true)
    ∧ (let r : CompareRec := { tCmp true false 0 with swapreq := true, swapk := 5 }
      let s := tTwin twPaired 2 0x400 fun x => { x with own := some (tCmp true false 0), theirs := some r }
      s.Inv ∧ Turn s [phClose] phTwin ∧ s.exchanges = true ∧ s.twin.theirs = some r ∧ s.role = 2 ∧ s.paired = true ∧ r.role = 1
        ∧ r.swapreq = true)
    ∧ (∀ n ∈ [0, 1], let s := tTwin twPaired 1 0x400 fun x => { x with missRun := n }
      s.Inv ∧ Turn s [phClose] phTwin ∧ s.exchanges = true ∧ s.twin.theirs = none ∧ s.twin.missRun = n ∧ s.paired = true) := by
  refine ⟨?_, ⟨inv_of ?_, turn_of ?_, ?_, rfl, ?_⟩, ⟨inv_of ?_, turn_of ?_, ?_, rfl, ?_, ?_, ?_, ?_⟩, forall_two ⟨inv_of ?_, turn_of ?_, ?_, rfl, ?_, ?_⟩ ⟨inv_of ?_, turn_of ?_, ?_, rfl, ?_, ?_⟩⟩
  · simp only [List.forall_mem_cons]
    exact ⟨both_of (by decide), both_of (by decide), both_of (by decide), both_of (by decide), both_of (by decide), fun _ h => absurd h List.not_mem_nil⟩
  all_goals decide

/-- One task, enabled; the twin's image holds it. -/
def tXfer (ts : List TaskImage) : State :=
  let s := tTwin twTransfer 0 0 id
  { s with upd := { s.upd with active := some (tImage (tBody ts)) } }

/-- The tasks enabled in the image. -/
def tEn (n : Nat) : TaskImage := { tTask with task := n, cfg := 0x8000000000000000 }

/-- Paired as LEAD for 168 hours, after eight equal records. -/
def tSwap (hours : Nat) : State :=
  (((tTwin twPaired 1 0 fun x => { x with equalRun := 8 }).wrM R.TWN_SWAP_HOURS hours).wrM R.PWR_D0_OPMIN (60 * hours))

/-- The SHADOW in a stage, with an image in its inactive slot. -/
def tShadow (stage : Nat) (f : Upd → Upd) : State :=
  let s := (tTwin twPaired 2 0 id).wrM R.UPD_STAT_STAGE stage
  { s with upd := f { s.upd with inactive := some (tImage (tBody [])) } }

def tUpdRec (rs : Nat) : UpdRec := { rs := rs, ident := identOf (some (tImage (tBody []))), stage := upCommitted, ready := true, kc := 5, chkOk := true }

theorem witness_TwinRoles :
    (∀ q ∈ [([tEn 0], ([] : List Nat)), ([tEn 0, tEn 1], [1])], let s := tXfer q.1
      s.Inv ∧ s.twinOn = true ∧ s.role = 0 ∧ s.tw = twTransfer ∧ s.toTransfer = 0 :: q.2 ∧ (s.lane .a).running = true
        ∧ inFoot (s.taskImg 0) (mkRef 0 0 2) = true)
    ∧ (tS.twinOn = false)
    ∧ (let s := tSwap 1
      s.Inv ∧ s.rdM R.TWN_SWAP_HOURS = 1 ∧ s.twin.since + 60 * 1 ≤ s.opmin ∧ s.swapOk = true ∧ s.twin.suspended = false ∧ s.role = 1
        ∧ s.rdM R.TWN_SWST_PEND = 0)
    ∧ ((tSwap 0).rdM R.TWN_SWAP_HOURS = 0)
    ∧ (let s := tTwin twPaired 1 0 fun x => { x with proofs := [0, 1] }
      s.Inv ∧ 0 ∈ s.twin.proofs ∧ 1 ∈ s.twin.proofs)
    ∧ (let s := tRs 0
      s.Inv ∧ Allowed s .a .c0 R.TWN_CTRL true ∧ s.cyc.active = true)
    ∧ (let s := tShadow upReady id
      s.Inv ∧ s.twinOn = true ∧ (tUpdRec 0).chkOk = true ∧ (tUpdRec 0).rs = s.k ∧ s.role = 2 ∧ s.paired = true ∧ s.stage = upReady
        ∧ (tUpdRec 0).stage = upCommitted ∧ s.upd.inactive ≠ none ∧ (tUpdRec 0).ident = identOf s.upd.inactive ∧ (tUpdRec 1).rs ≠ s.k)
    ∧ (let s := tShadow upCommitted fun u => { u with isS := true }
      s.Inv ∧ s.role = 2 ∧ s.paired = true ∧ s.stage = upCommitted ∧ s.upd.isS = true)
    ∧ (let s := tShadow upConvert fun u => { u with isS := true, active := some (tImage (tBody [])) }
      s.Inv ∧ s.twinOn = true ∧ s.upd.isS = true ∧ s.upd.alone = false ∧ s.stage = upConvert ∧ s.station = some (tBody []))
    ∧ (tS.stage ≠ upConvert ∧ (tTwin twPaired 1 0 id).role ≠ 2 ∧ (tTwin twPaired 1 0 id).disagrees (tUpdRec 0) = false ∧ tS.paired = false)
    ∧ (let s := tShadow upCompare fun u => { u with isS := true }
      s.Inv ∧ s.twinOn = true ∧ (tUpdRec 0).rs = s.k ∧ s.paired = true ∧ s.disagrees (tUpdRec 0) = true) := by
  refine ⟨?_, ?_, ⟨inv_of ?_, ?_, ?_, ?_, ?_, ?_, ?_⟩, ?_, ⟨inv_of ?_, ?_, ?_⟩, ⟨inv_of ?_, ⟨?_, ?_⟩, ?_⟩,
    ⟨inv_of ?_, ?_, ?_, ?_, ?_, ?_, ?_, ?_, ?_, ?_, ?_⟩, ⟨inv_of ?_, ?_, ?_, ?_, ?_⟩, ⟨inv_of ?_, ?_, ?_, ?_, ?_, ?_⟩, ?_, ⟨inv_of ?_, ?_, ?_, ?_, ?_⟩⟩
  · refine forall_two ?_ ?_ <;> refine ⟨inv_of ?_, ?_, ?_, ?_, ?_, ?_, ?_⟩ <;> decide
  all_goals decide

/-! ## Witnesses: the write close, lanes that come back, boundaries, the start, scrubbing -/

/-- The write close is next; the lanes have written TWN_SWAP as given, and the lanes of a set vote. -/
def tClose (vset : Nat) (f : Lane → Option Word) : State :=
  let s := (tRs 0x200).wrM R.CMP_VOTE_VSET vset
  let put (x : LaneState) (l : Lane) : LaneState := { x with pend := match f l with | some w => [(R.TWN_SWAP, w)] | none => [] }
  { s with lanes := ⟨put s.lanes.a .a, put s.lanes.b .b, put s.lanes.c .c⟩ }

/-- What each lane has written. -/
def tF (a b c : Option Word) : Lane → Option Word := fun l => match l with | .a => a | .b => b | .c => c

theorem close_of {n : Nat} {f : Lane → Option Word} (h : (let s := tClose n f
    laneOk s.lanes.a && laneOk s.lanes.b && laneOk s.lanes.c && mapWf resetOf s.modRegs && s.cyc.active && [phDispatch].all s.did
      && !s.did phClose) = true) :
    let s := tClose n f
    s.Inv ∧ Turn s [phDispatch] phClose ∧ s.cyc.kind = .normal ∧ s.cyc.cfgFail = [] ∧ (∀ x, (s.lane x).stream = [] ∧ (s.lane x).inject = none ∧
      (s.lane x).pend = match f x with | some w => [(R.TWN_SWAP, w)] | none => []) := by
  simp only [Bool.and_eq_true] at h
  exact ⟨inv_of (by simp only [Bool.and_eq_true]; exact h.1.1.1), turn_of (by simp only [Bool.and_eq_true]; exact ⟨⟨h.1.1.2, h.1.2⟩, h.2⟩), rfl, rfl,
    lanes_of ⟨⟨rfl, rfl, rfl⟩, ⟨rfl, rfl, rfl⟩, ⟨rfl, rfl, rfl⟩⟩⟩

/-- One theorem for each way the three lanes, or two, can have written; HOURS at its greatest value, 168. -/
theorem witness_WriteClose :
    (∀ f ∈ [tF (some 168) (some 168) (some 168), tF none none none, tF (some 3) (some 168) (some 168), tF none (some 168) (some 168),
        tF (some 168) none none, tF (some 1) (some 2) none], let s := tClose 7 f
      s.Inv ∧ Turn s [phDispatch] phClose ∧ s.cyc.kind = .normal ∧ s.cyc.cfgFail = [] ∧ (∀ x, (s.lane x).stream = [] ∧ (s.lane x).inject = none ∧
        (s.lane x).pend = match f x with | some w => [(R.TWN_SWAP, w)] | none => []))
    ∧ (∀ f ∈ [tF (some 168) (some 168) none, tF (some 1) none none], let s := tClose 3 f
      s.Inv ∧ Turn s [phDispatch] phClose ∧ s.cyc.kind = .normal ∧ s.cyc.cfgFail = [] ∧ (∀ x, (s.lane x).stream = [] ∧ (s.lane x).inject = none ∧
        (s.lane x).pend = match f x with | some w => [(R.TWN_SWAP, w)] | none => []))
    ∧ ((tClose 7 (tF none none none)).vset = 7 ∧ (tClose 3 (tF none none none)).voters = [.a, .b] ∧ R.TWN_SWAP_HOURS.of 168 ≤ 168
      ∧ ((tClose 7 (tF none none none)).lane .a).running = true ∧ setsReserved R.TWN_SWAP 5 = false) := by
  refine ⟨?_, forall_two (close_of ?_) (close_of ?_), ?_⟩
  · simp only [List.forall_mem_cons]
    refine ⟨close_of ?_, close_of ?_, close_of ?_, close_of ?_, close_of ?_, close_of ?_, fun _ h => absurd h List.not_mem_nil⟩ <;> decide
  all_goals decide

/-- Lane A is copied from lane B. -/
def tLaneCopy : State :=
  let s := ((tRs 0x400).setSt .a 1).wrM R.CMP_VOTE_VSET 6
  { s with cyc := { s.cyc with copy := some (.a, .b) }, upd := { s.upd with active := some (tImage (tBody [tTask])) } }

theorem copyWords_good : ∀ f ∈ copyWords tTask, ∀ x, (tLaneCopy.lane x).good (tTask.stateBase + refOffset f) ≠ none := by
  intro f _ x
  unfold LaneState.good
  rw [empty_data (by cases x <;> rfl) (by cases x <;> rfl)]
  exact Option.some_ne_none _

theorem witness_LaneRecovery :
    (let s := tLaneCopy;
      s.Inv ∧ s.cyc.copy = some (.a, .b) ∧ s.did phClose = true ∧ s.did phState = false ∧ s.st .a = 1
        ∧ s.station = some (tBody [tTask]) ∧ (tBody [tTask]).tasks = [tTask] ∧ tTask.task < 16 ∧ s.voters = [.b, .c]
        ∧ (∀ x, (s.lane x).bus = []))
    ∧ (∀ f ∈ copyWords tTask, ∀ x, (tLaneCopy.lane x).good (tTask.stateBase + refOffset f) ≠ none)
    ∧ (let s := tLaneCopy.onLane .b fun x => x.putStored (refOffset (mkRef 0 0 2)) 0 poisonMask
      mkRef 0 0 2 ∈ copyWords tTask ∧ (s.lane .b).good (tTask.stateBase + refOffset (mkRef 0 0 2)) = none)
    ∧ (let s := ((tM R.PWR_DOM_STAT_STATE 0xAAAA).setMode mRunning).onLane .a fun x => { x with running := false }
      s.Inv ∧ s.recoverable .a = true)
    ∧ (tS.cyc.copy = none)
    ∧ (let s := (tRs 0).setMode mRunning
      s.Inv ∧ Allowed s .a .c0 R.XLE_CTRL true ∧ ¬ (s.mode = mStarting ∨ s.st .a = 1))
    ∧ (Allowed tS .a .c0 R.XLE_CTRL true ∧ tS.mode = mStarting)
    ∧ (Allowed tLaneCopy .a .c0 R.XLE_CTRL true ∧ tLaneCopy.st .a = 1)
    ∧ (let s := tRs 0x400
      s.Inv ∧ (Turn s [phClose] phConfig ∧ s.probation = none ∧ s.blocksOff = [] ∧ (∀ x, (s.lane x).inject = none)
        ∧ (∀ x ∈ s.voters, ∀ y ∈ s.voters, s.laneReg x R.CMP_CFGCRC = s.laneReg y R.CMP_CFGCRC)) ∧ s.vset = 7 ∧ (s.lane .a).running = true) := by
  refine ⟨⟨inv_of ?_, rfl, ?_, ?_, ?_, rfl, rfl, ?_, ?_, lanes_of ⟨rfl, rfl, rfl⟩⟩, copyWords_good, ⟨?_, ?_⟩, ⟨inv_of ?_, ?_⟩, rfl,
    ⟨inv_of ?_, ⟨?_, ?_⟩, ?_⟩, ⟨⟨?_, ?_⟩, ?_⟩, ⟨⟨?_, ?_⟩, ?_⟩,
    ⟨inv_of ?_, ⟨turn_of ?_, ?_, ?_, lanes_of ⟨rfl, rfl, rfl⟩, ?_⟩, ?_, ?_⟩⟩ <;> decide +kernel

/-- The last round of a round set of a kind, in a mode, at stage IDLE, with a halt or its end agreed. -/
def tOver (kind : RsKind) (mode : Nat) (ask : Option Bool) : State :=
  let s := ((tRs 0x7FFF).wr .a R.TSK_RSET_PERIOD 20).setMode mode
  { s with cyc := { s.cyc with kind := kind, rounds := 20, haltAsk := ask } }

theorem witness_Boundaries :
    (∀ k ∈ [RsKind.normal, .test], let s := tOver k mRunning none
      s.Inv ∧ s.cyc.active = true ∧ (if s.cyc.kind = .test then 1 else s.period) ≤ s.cyc.rounds ∧ s.cyc.kind = k ∧ s.twinOn = false)
    ∧ (tS.cyc.active = false)
    ∧ (∀ m ∈ [mCommissioning, mHalted], let s := tOver .normal m (some (m == mCommissioning))
      s.Inv ∧ s.cyc.active = true ∧ s.period ≤ s.cyc.rounds ∧ (s.safe = false ∧ s.power.shutdown = 0 ∧ s.stage = upIdle ∧ s.cyc.commCmd = none
        ∧ s.cyc.kind ≠ .test) ∧ s.mode = m ∧ s.cyc.haltAsk = some (m == mCommissioning))
    ∧ (let s := (tTwin twTiming 0 0 id).setMode mRunning
      s.Inv ∧ s.cyc.active = true ∧ (s.twinOn = true ∧ s.role = 0 ∧ s.tw = twTiming) ∧ (s.safe = false ∧ s.power.shutdown = 0
        ∧ s.stage = upIdle ∧ s.cyc.commCmd = none ∧ s.cyc.kind ≠ .test) ∧ s.rdM R.TWN_SWST_PEND = 0 ∧ s.twin.outcome = none)
    ∧ (let s := tOver .normal mSafe none; let s := { s with power := { s.power with safe1 := true, shutdown := 1 } }
      s.Inv ∧ s.cyc.active = true ∧ s.period ≤ s.cyc.rounds ∧ s.cyc.kind ≠ .test ∧ s.safe = true ∧ s.power.stopping = false)
    ∧ (let s := tOver .normal mCommissioning none
      s.Inv ∧ Allowed s .a .c0 R.XLE_CTRL true ∧ s.mode = mCommissioning ∧ s.paired = false ∧ ∀ v, ¬ (s.st v = 1 ∨ s.st v = 2))
    ∧ (Allowed tS .a .c0 R.XLE_CTRL true ∧ tS.mode ≠ mCommissioning) := by
  refine ⟨forall_two ?_ ?_, ?_, forall_two ?_ ?_, ⟨inv_of ?_, ?_, ⟨?_, ?_, ?_⟩, ⟨?_, ?_, ?_, ?_, ?_⟩, ?_, ?_⟩, ⟨inv_of ?_, ?_, ?_, ?_, ?_, ?_⟩,
    ⟨inv_of ?_, ⟨?_, ?_⟩, ?_, ?_, lanes_of ?_⟩, ⟨⟨?_, ?_⟩, ?_⟩⟩
  · refine ⟨inv_of ?_, ?_, ?_, ?_, ?_⟩ <;> decide
  · refine ⟨inv_of ?_, ?_, ?_, ?_, ?_⟩ <;> decide
  rotate_left
  · refine ⟨inv_of ?_, ?_, ?_, ⟨?_, ?_, ?_, ?_, ?_⟩, ?_, ?_⟩ <;> decide
  · refine ⟨inv_of ?_, ?_, ?_, ⟨?_, ?_, ?_, ?_, ?_⟩, ?_, ?_⟩ <;> decide
  all_goals decide

/-- A module at a step of the start. -/
def tStep (n : Nat) : State :=
  let s := ((tRs 0).setMode mStarting).wrM R.PWR_SUPPLY_HOLDUP_OK 1
  { s with power := { s.power with supply := .on, step := n } }

theorem step_of {n : Nat} (h : (let s := tStep n
    laneOk s.lanes.a && laneOk s.lanes.b && laneOk s.lanes.c && mapWf resetOf s.modRegs && decide (s.mode = mStarting) && !s.safe) = true) :
    let s := tStep n
    s.Inv ∧ (s.power.supply = .on ∧ s.mode = mStarting ∧ s.safe = false ∧ s.power.step = n) := by
  simp only [Bool.and_eq_true, Bool.not_eq_true', decide_eq_true_eq] at h
  exact ⟨inv_of (by simp only [Bool.and_eq_true]; exact h.1.1), rfl, h.1.2, h.2, rfl⟩

/-- What the outside gives to a step that passes: pins 0 and 1. -/
def tIn : StartInput := { ok := true, twPa := some false, twPb := some true, cellMv := 3000, d0Ok := true, firmware := none, firmwareInactive := none
                          settingsOk := true, station := none, lanesBad := 0, entry := 0x103F, latAB := 1, latAC := 2
                          latBC := 3, injFails := [] }

theorem step0 : (let s := tStep 0
    laneOk s.lanes.a && laneOk s.lanes.b && laneOk s.lanes.c && mapWf resetOf s.modRegs && decide (s.mode = mStarting) && !s.safe) = true := by
  decide

/-- Step 10 after every injection test was caught once in every lane. -/
def tTested : State :=
  let s := tStep 10
  { s with cyc := { s.cyc with injRuns := [1, 2, 3].flatMap fun l => injTests.map fun t => ⟨t.1, l, t.2, true⟩ } }

theorem witness_StartSequence :
    (∀ b, let s := { tM R.PWR_SUPPLY_INBAND 1 with power := { tS.power with supply := .standby, rstLow := b } }
      s.Inv ∧ ((s.power.supply = .standby ∧ s.power.rstLow = false ∧ s.rdM R.PWR_SUPPLY_INBAND = 1 ∧ s.power.shutdown ≠ 2) ↔ b = false))
    ∧ (∀ n, let s := tStep n
      s.Inv ∧ (s.power.supply = .on ∧ s.mode = mStarting ∧ s.safe = false ∧ s.power.step = n))
    ∧ (tIn.ok = true ∧ tIn.d0Ok = true ∧ tIn.twPa ≠ tIn.twPb ∧ tIn.twPa ≠ none ∧ tIn.twPb ≠ none ∧ tIn.lanesBad = 0 ∧ tIn.station = none)
    ∧ ((tStep 2).laneUsable .a = true ∧ (∀ x, ((tStep 7).lane x).running = true) ∧ (tStep 8).upd.active = none)
    ∧ ((∀ x, (tStep 5).laneUsable x = true) ∧ (tStep 5).power.full = true ∧ ¬ (tStep 5).rd .a R.MEM_FILL_DRAM_DONE = 1)
    ∧ (let s := (((({ tStep 5 with power := { (tStep 5).power with full := false } } : State).wr .a R.MEM_FILL_DRAM_DONE 1).wr .b R.MEM_FILL_DRAM_DONE 1).wr .c R.MEM_FILL_DRAM_DONE 1)
      s.Inv ∧ s.power.step = 5 ∧ (∀ x, s.rd x R.MEM_FILL_DRAM_DONE = 1) ∧ s.power.full = false)
    ∧ ((tStep 6).firmwareOk none = false)
    ∧ (let s := { tStep 8 with upd := { tS.upd with active := some (tImage (tBody [])) } }
      s.Inv ∧ s.power.step = 8 ∧ s.sec.anchor = none ∧ (s.upd.active.orElse fun _ => tIn.station) = some (tImage (tBody [])))
    ∧ (let s := { tStep 9 with upd := { tS.upd with active := some (tImage (tBody [tTask])) } }
      s.Inv ∧ s.power.step = 9 ∧ s.station = some (tBody [tTask]) ∧ (s.lane .a).running = true)
    ∧ (tTested.Inv ∧ tTested.power.step = 10 ∧ tTested.safe = false ∧ tTested.testsDone = true ∧ tTested.testsFailed tIn = []
      ∧ tTested.testsFailed { tIn with injFails := [(6, 1, false, 6)] } = [(6, .a, false, 6)]
      ∧ tTested.testsFailed { tIn with injFails := [(7, 1, false, 6)] } = [(7, .a, false, 6)] ∧ (tStep 10).testsDone = false)
    ∧ ((tStep 11).rdM R.PWR_SUPPLY_HOLDUP_OK = 1 ∧ (tStep 11).rdM R.TWN_ROLE_POS_ERR = 0)
    ∧ (let s := (tStep 11).wrM R.PWR_SUPPLY_HOLDUP_OK 0
      s.Inv ∧ s.power.step = 11 ∧ s.rdM R.PWR_SUPPLY_HOLDUP_OK = 0) := by
  refine ⟨fun b => ⟨inv_of ?_, ?_⟩, fun n => step_of step0, ?_, ⟨?_, lanes_of ?_, rfl⟩, ⟨lanes_of ?_, ?_, ?_⟩, ⟨inv_of ?_, rfl, lanes_of ?_, ?_⟩, rfl,
    ⟨inv_of ?_, rfl, rfl, rfl⟩, ⟨inv_of ?_, rfl, rfl, ?_⟩, ⟨inv_of ?_, rfl, ?_, ?_, ?_, ?_, ?_, ?_⟩, ⟨?_, ?_⟩, ⟨inv_of ?_, rfl, ?_⟩⟩
  · revert b; decide
  · revert b; decide
  all_goals decide

/-- Lane A's scrub positions, its memory filled, the SCRUB stamp held; the data and check bytes stored at 0x100. -/
def tScrub (dpos spos data chk : Nat) : State :=
  let s := ((((tS.wr .a R.MEM_SCRUB_POS_DPOS dpos).wr .a R.MEM_SCRUB_POS_SPOS spos).wr .a R.MEM_FILL_DRAM_DONE 1).wr .a R.MEM_FILL_SRAM_DONE 1)
  let s := s.onLane .a fun x => x.putStored 0x100 data chk
  { s with power := { s.power with stamps := [tStamp 1 stScrub true] } }

theorem good_of {s : State} (hm : (s.lane .a).mem = []) (hc : (s.lane .a).chk = []) (b : Nat) :
    ∃ u, rsDecode ((s.lane .a).data b) ((s.lane .a).check b) = .clean u := by
  have hd : (s.lane .a).data b = 0 := by simp [LaneState.data, LaneState.byte, hm, mapGet, memDefault, List.range_succ]
  have he : (s.lane .a).check b = 0 := by simp [LaneState.check, hc, mapGet, memDefault, List.range_succ]
  rw [hd, he]; exact ⟨0, by decide⟩

theorem witness_Scrubbing :
    (∀ p ∈ [0x40000000, 0xBFFF0000], let s := tScrub p 0x100 0 0
      s.Inv ∧ (s.lane .a).burstIn ≠ some (s.time.now / 1000000) ∧ s.inComputeShare = false ∧ s.scrubStamp .a = true
        ∧ s.rd .a R.MEM_FILL_DRAM_DONE = 1 ∧ s.rd .a R.MEM_SCRUB_POS_DPOS = p ∧ p % 8 = 0 ∧ 0x40000000 ≤ p
        ∧ p + 0x10000 ≤ 0xC0000000 ∧ ∀ b, ∃ u, rsDecode ((s.lane .a).data b) ((s.lane .a).check b) = .clean u)
    ∧ (tS.scrubStamp .a = false)
    ∧ (let s := tS.onLane .a fun x => { x with burstIn := some 0 }
      s.Inv ∧ (s.lane .a).burstIn = some (s.time.now / 1000000))
    ∧ (let s := tRs 0
      s.Inv ∧ ¬ (s.judgePace .a).rd .a R.MEM_SCRUB_STAT_URGENT = 1 ∧ s.inComputeShare = true)
    ∧ (∀ q : Bool, let s := { tG 0x100 0 with pending := if q then [.sd .a .c0 2 1 0] else [] }
      s.Inv ∧ s.writeQueued .a 0x100 = q)
    ∧ (∀ a ∈ [0x100, 0xFFFFF8], let s := tScrub 0x40000000 a 0 0
      s.Inv ∧ s.rd .a R.MEM_FILL_SRAM_DONE = 1 ∧ s.rd .a R.MEM_SCRUB_POS_SPOS = a ∧ a % 8 = 0
        ∧ ∃ u, rsDecode ((s.lane .a).data a) ((s.lane .a).check a) = .clean u)
    ∧ (∀ q ∈ [(0, 1, Decoded.corrected 0 [8]), (0x112233, 0, .uncorrectable)], let s := tScrub 0x40000000 0x100 q.1 q.2.1
      s.Inv ∧ s.rd .a R.MEM_FILL_SRAM_DONE = 1 ∧ s.rd .a R.MEM_SCRUB_POS_SPOS = 0x100
        ∧ rsDecode ((s.lane .a).data 0x100) ((s.lane .a).check 0x100) = q.2.2) := by
  refine ⟨forall_two ⟨inv_of ?_, ?_, ?_, ?_, ?_, ?_, ?_, ?_, ?_, good_of ?_ ?_⟩ ⟨inv_of ?_, ?_, ?_, ?_, ?_, ?_, ?_, ?_, ?_, good_of ?_ ?_⟩, ?_,
    ⟨inv_of ?_, ?_⟩, ⟨inv_of ?_, ?_, ?_⟩, fun q => by cases q <;> exact ⟨inv_of (by decide), by decide⟩,
    forall_two ⟨inv_of ?_, ?_, ?_, ?_, good_of ?_ ?_ _⟩ ⟨inv_of ?_, ?_, ?_, ?_, good_of ?_ ?_ _⟩,
    forall_two ⟨inv_of ?_, ?_, ?_, ?_⟩ ⟨inv_of ?_, ?_, ?_, ?_⟩⟩ <;> decide +kernel

/-! ## Witnesses: register commands, coded values, the queue -/

/-- Lane A's log cursor at a record, moving on by itself; the store holds that record. -/
def tCur : State :=
  let s := (tS.wr .a R.LOG_CUR_IDX 1).wr .a R.LOG_CUR_AUTO 1
  { s with log := { s.log with store := [[1], [2, 3]] } }

theorem witness_RegisterAccess :
    (tCur.Inv ∧ Allowed tCur .a .c0 (R.LOG_WIN 0) false ∧ Allowed tCur .a .c0 (R.LOG_WIN 7) false ∧ tCur.rd .a R.LOG_CUR_AUTO = 1)
    ∧ (∃ r, rowOf R.MEM_ECC_STAT = some r ∧ r.rc ≠ 0 ∧ busKey R.MEM_ECC_STAT = R.MEM_ECC_STAT ∧ twoNamed R.MEM_ECC_STAT = false
      ∧ R.MEM_ECC_STAT ≠ R.RTE_HELD_LVL ∧ Allowed tS .a .c0 R.MEM_ECC_STAT false ∧ tS.fioAbsent R.MEM_ECC_STAT = false)
    ∧ (tBare.Inv ∧ Allowed tBare .a .c0 R.FIO_LINK false ∧ tBare.fioAbsent R.FIO_LINK = true)
    ∧ (Allowed tS .a .c0 R.LOG_CUR true ∧ setsReserved R.LOG_CUR 0xFFFFFFFFFFFFFFFF = true)
    ∧ (∀ a ∈ [R.LOG_CUR, R.DNR_TBL_ADDR, R.BST_CTRL, R.PMC_FILT 0, R.PMC_FILT 31],
      Allowed tS .a .c0 a true ∧ setsReserved a 0 = false ∧ (rowOf a).isSome = true)
    ∧ (∃ r, rowOf R.TWN_SWAP = some r ∧ r.voted = true ∧ r.rw ≠ 0 ∧ R.TWN_SWAP ≠ R.STR_GT_DATA ∧ R.TWN_SWAP ≠ R.FIO_OUT_REQ
      ∧ setsReserved R.TWN_SWAP 168 = false ∧ Allowed tS .a .c0 R.TWN_SWAP true ∧ tS.cyc.active = false
      ∧ (tRs 0).Inv ∧ Allowed (tRs 0) .a .c0 R.TWN_SWAP true ∧ (tRs 0).cyc.active = true ∧ (tRs 0).fioAbsent R.TWN_SWAP = false) := by
  refine ⟨⟨inv_of ?_, ⟨?_, ?_⟩, ⟨?_, ?_⟩, ?_⟩, ⟨_, rfl, ?_, ?_, ?_, ?_, ⟨?_, ?_⟩, ?_⟩, ⟨inv_of ?_, ⟨?_, ?_⟩, ?_⟩, ⟨⟨?_, ?_⟩, ?_⟩,
    (by simp only [List.forall_mem_cons]; refine ⟨?_, ?_, ?_, ?_, ?_, fun _ h => absurd h List.not_mem_nil⟩ <;> refine ⟨⟨?_, ?_⟩, ?_, ?_⟩ <;> decide),
    ⟨_, rfl, ?_, ?_, ?_, ?_, ?_, ⟨?_, ?_⟩, ?_, inv_of ?_, ⟨?_, ?_⟩, ?_, ?_⟩⟩ <;> decide

/-- Lane A's engine holds a plain pass of task 0; a context base as given; in a mode. -/
def tEngR (locked : Bool) (mode : Nat) : State :=
  ((tEng [tPass 1 3 .waiting] []).setMode mode).onLane .a fun x => { x with locked := if locked then [R.RTE_CTX_BASE] else [] }

theorem witness_EngineAndTaskRegisters :
    (∀ a ∈ [R.RTE_CTRL, R.RTE_IMG_BASE, R.RTE_DPREV 0, R.RTE_DPREV 15, R.RTE_CTX_BASE, R.TSK_FORCE, R.TSK_RSET, R.TSK_CFG 0, R.TSK_CFG 15,
        R.CMP_INJECT, R.CMP_SCOPE], Allowed tS .a .c0 a true)
    ∧ (setsReserved R.RTE_CTRL (R.RTE_CTRL_FLUSH.put 1 1) = false ∧ setsReserved R.RTE_CTRL (R.RTE_CTRL_FLUSH.put 1 0) = false
      ∧ R.RTE_CTRL_EN.of 1 = 1 ∧ tS.rd .a R.RTE_STAT_STAMP = 0)
    ∧ (∀ q ∈ [(0x400, true), (0xBFF, true), (0xC00, false), (0x3FF, false)],
      let v : Word := BitVec.ofNat 64 (R.RTE_IMG_BASE_SIZE.put (R.RTE_IMG_BASE_BASE.put 0 q.1) 1).toNat
      let lo := R.RTE_IMG_BASE_BASE.of v * 0x100000
      setsReserved R.RTE_IMG_BASE v = false ∧ R.RTE_IMG_BASE_SIZE.of v = 1 ∧ (tS.eng .a).queue = []
        ∧ (q.2 = true ↔ 0x40000000 ≤ lo ∧ lo + 1 * 0x100000 ≤ 0xC0000000))
    ∧ (let s := tEngR false mStarting
      s.Inv ∧ (∃ p ∈ (s.eng .a).queue, p.desc.task = 0 ∧ (p.desc.kindRaw = 1 ∨ p.desc.kindRaw = 2))
        ∧ (∀ p ∈ (s.eng .a).queue, p.desc.task ≠ 15) ∧ Allowed s .a .c0 (R.RTE_DPREV 0) true ∧ setsReserved (R.RTE_DPREV 0) 0 = false)
    ∧ (let s := tEngR true mStarting
      s.Inv ∧ (s.lane .a).locked.contains R.RTE_CTX_BASE = true ∧ Allowed s .a .c0 R.RTE_CTX_BASE true ∧ setsReserved R.RTE_CTX_BASE 0 = false)
    ∧ (let v : Word := R.RTE_CTX_BASE_VALID.put (R.RTE_CTX_BASE_BASE.put 0 0xFE) 1
      setsReserved R.RTE_CTX_BASE v = false ∧ R.RTE_CTX_BASE_VALID.of v = 1 ∧ 0x1000000 < R.RTE_CTX_BASE_BASE.of v * 0x10000 + 0x24000
        ∧ (tS.lane .a).locked.contains R.RTE_CTX_BASE = false)
    -- no claim of a buffer stands in the way, and areas that fit
    ∧ ((tS.lane .a).claims.length < 64 ∧ (∀ r ∈ (tS.lane .a).claims, r.resource ≠ resBuffer)
      ∧ R.RTE_CTX_BASE_VALID.of (R.RTE_CTX_BASE_VALID.put (R.RTE_CTX_BASE_BASE.put 0 0xFC) 1) = 1
      ∧ R.RTE_CTX_BASE_BASE.of (R.RTE_CTX_BASE_VALID.put (R.RTE_CTX_BASE_BASE.put 0 0xFC) 1) * 0x10000 + 0x24000 ≤ 0x1000000
      ∧ R.TSK_FORCE_BASE.of (R.TSK_FORCE_BASE.put (R.TSK_FORCE_COUNT.put 0 256) 0x3FFC0) * 64 + 16 * 256 ≤ 0x1000000
      ∧ 0x1000000 < R.TSK_FORCE_BASE.of (R.TSK_FORCE_BASE.put (R.TSK_FORCE_COUNT.put 0 256) 0x3FFC1) * 64 + 16 * 256)
    ∧ (∀ q ∈ [0, 1, 256, 257], let s := tEngR false mCommissioning
      let v : Word := R.TSK_FORCE_COUNT.put 0 q
      s.Inv ∧ s.mode = mCommissioning ∧ Allowed s .a .c0 R.TSK_FORCE true ∧ setsReserved R.TSK_FORCE v = false ∧ R.TSK_FORCE_COUNT.of v = q)
    ∧ (tS.mode ≠ mCommissioning)
    ∧ (∀ n ∈ [4, 5, 100, 101], setsReserved R.TSK_RSET (R.TSK_RSET_PERIOD.put 0 n) = false
      ∧ (tS.taskWriteOk .a R.TSK_RSET (R.TSK_RSET_PERIOD.put 0 n) = true ↔ 5 ≤ n ∧ n ≤ 100))
    ∧ (tS.mode = mStarting ∧ ¬ ((tS.setMode mRunning).mode = mStarting ∨ (tS.setMode mRunning).cyc.kind = .conversion))
    ∧ (∀ p ∈ [1, 9], let v : Word := R.CMP_INJECT_LANE.put (R.CMP_INJECT_POINT.put 0 p) (Lane.a).code
      setsReserved R.CMP_INJECT v = false ∧ R.CMP_INJECT_LANE.of v = (Lane.a).code ∧ R.CMP_INJECT_POINT.of v = p)
    ∧ (let v : Word := R.CMP_SCOPE_TRAIL_EN.put 0 1
      setsReserved R.CMP_SCOPE v = false ∧ R.CMP_SCOPE_TRAIL_EN.of v = 1 ∧ setsReserved R.CMP_SCOPE 0 = false
        ∧ (tEngR false mStarting).allSpans.any (fun x => overlap x (0, 0x10000)) = true
        ∧ ¬ (tS.allSpans.any (fun x => overlap x (0, 0x10000)) = true ∨ spanHits (tS.ctxArea .a) (0, 0x10000) = true)) := by
  refine ⟨?_, ⟨?_, ?_, ?_, ?_⟩, ?_, ⟨inv_of ?_, ⟨_, List.mem_singleton.2 rfl, ?_⟩, ?_, ⟨?_, ?_⟩, ?_⟩, ⟨inv_of ?_, ?_, ⟨?_, ?_⟩, ?_⟩, ?_, ?_,
    (by simp only [List.forall_mem_cons]; refine ⟨?_, ?_, ?_, ?_, fun _ h => absurd h List.not_mem_nil⟩ <;> refine ⟨inv_of ?_, ?_, ⟨?_, ?_⟩, ?_, ?_⟩ <;> decide),
    ?_, ?_, ?_, ?_, ?_⟩
  · simp only [List.forall_mem_cons]
    refine ⟨?_, ?_, ?_, ?_, ?_, ?_, ?_, ?_, ?_, ?_, ?_, fun _ h => absurd h List.not_mem_nil⟩ <;> refine ⟨?_, ?_⟩ <;> decide
  all_goals decide +kernel

/-- COMMISSIONING with the test aids unlocked or not. -/
def tAids (on : Nat) : State := (tM R.TST_STAT_UNLOCKED on).setMode mCommissioning

theorem witness_CountersAndTestAids :
    (∀ a ∈ [R.PMC_SEL 0, R.PMC_SEL 31, R.PMC_UAC, R.CRC_CFG 0, R.CRC_CFG 7, R.CRC_VAL 7, R.TST_KEY, R.TST_DELAY, R.TST_BP, R.TST_INJ],
      Allowed (tAids 1) .a .c0 a true ∧ setsReserved a 0 = false)
    ∧ (∀ e ∈ [0, 0x3E, 0x3F, 0x40, 0xC0], setsReserved (R.PMC_SEL 31) ((R.PMC_SEL_EVENT 31).put 0 e) = false
      ∧ (R.PMC_SEL_EVENT 31).of ((R.PMC_SEL_EVENT 31).put 0 e) = e)
    ∧ (setsReserved (R.CRC_CFG 7) ((R.CRC_CFG_INIT 7).put ((R.CRC_CFG_EN 7).put 0 1) 1) = false
      ∧ ((tS.lane .a).claims.length < 64 ∧ ∀ r ∈ (tS.lane .a).claims, r.resource ≠ 0x107))
    ∧ (tClaim.Inv ∧ (∃ r ∈ (tClaim.lane .a).claims, r.resource = 0x107 ∧ r.feature ≠ 4 ∧ r.dflt = false)
      ∧ (∀ r ∈ (tClaim.lane .a).claims, r.resource = 0x107 → r.feature ≠ 4 ∧ r.dflt = false) ∧ tClaim.rd .a (R.CRC_CFG_EN 7) = 0)
    ∧ (let s := tAids 0
      s.Inv ∧ (s.mode = mCommissioning ∧ s.rdM R.TST_STAT_LOCKOUT = 0 ∧ (Lane.a, (5 : Word)) ∉ s.sec.judged) ∧ s.tokenWanted ≠ some 5
        ∧ ¬ (s.mode = mCommissioning ∧ s.rdM R.TST_STAT_UNLOCKED = 1))
    ∧ ((tAids 1).Inv ∧ (tAids 1).mode = mCommissioning ∧ (tAids 1).rdM R.TST_STAT_UNLOCKED = 1)
    ∧ (∀ q ∈ [(1, 0x100), (2, 0x40000000)],
      let v : Word := R.TST_INJ_PAT.put (R.TST_INJ_SYMS.put (R.TST_INJ_ADDR.put (R.TST_INJ_KIND.put 0 q.1) (q.2 / 8)) 1) 1
      setsReserved R.TST_INJ v = false ∧ R.TST_INJ_KIND.of v = q.1 ∧ R.TST_INJ_ADDR.of v * 8 = q.2 ∧ R.TST_INJ_PAT.of v ≠ 0
        ∧ ((q.1 = 1 ∧ isSram q.2 = true) ∨ (q.1 = 2 ∧ isDram q.2 = true)))
    ∧ (∀ p ∈ [1, 9], let v : Word := R.TST_INJ_KIND.put (R.TST_INJ_POINT3.put 0 p) 3
      setsReserved R.TST_INJ v = false ∧ R.TST_INJ_POINT3.of v = p) := by
  refine ⟨?_, ?_, ?_, ⟨inv_of ?_, ⟨_, List.mem_singleton.2 rfl, ?_⟩, ?_, ?_⟩, ⟨inv_of ?_, ⟨?_, ?_, ?_⟩, ?_, ?_⟩, ⟨inv_of ?_, ?_, ?_⟩, ?_, ?_⟩
  · simp only [List.forall_mem_cons]
    refine ⟨?_, ?_, ?_, ?_, ?_, ?_, ?_, ?_, ?_, ?_, fun _ h => absurd h List.not_mem_nil⟩ <;> refine ⟨⟨?_, ?_⟩, ?_⟩ <;> decide
  all_goals decide +kernel

/-- A coded value at the greatest n, Bd and D that the encoding admits, and at the least; two codes. -/
theorem witness_CodedValuesAndStateCodes :
    (∀ q ∈ [(0x40000000, 0xFFFFFFFF, 0xFFFFF, 1, 0x1FFFFFFF), (0x7FFFFFFF, 0, 1, 0, 0)],
      2 ^ 30 ≤ q.1 ∧ q.1 < 2 ^ 31 ∧ q.2.1 < 2 ^ 32 ∧ 1 ≤ q.2.2.1 ∧ q.2.2.1 < 2 ^ 20 ∧ q.2.2.2.1 < 2 ^ 20 ∧ q.2.2.2.1 ≠ q.2.2.1
        ∧ q.2.2.2.2 < 2 ^ 29)
    ∧ (codeIndexOk 1 = true ∧ codeIndexOk 33 = true ∧ 1 < 32) := by decide

theorem witness_LogicEncodingRoundTrip : ({ op := .endp, imm := 0, dst := 0, slots := [] : LogicIns } : LogicIns).legal = true := by decide

theorem witness_StepRunsFront : ∃ (s : State) (i : Instr) (rest : List Instr), s.pending = i :: rest :=
  ⟨{ tS with pending := [.agreement, .writeClose []] }, .agreement, [.writeClose []], rfl⟩

theorem witness_StepKeepsInvariant : ∃ s t : State, s.Inv ∧ step s = .next t :=
  ⟨tS, tS, inv_of (by decide), rfl⟩

/-! ## Logic words, written out from R113, R114 and R116

References by R114: temporary 3 is 3·2^18 + 2·2^12 = 0x000C2000, temporary 4 is 0x00102000, temporary 5 is 0x00142000; element 5 is
5·2^18 = 0x00140000, its word 2 (2·2^14) 0x00148000, with EXP 3 (3·2^6) 0x001480C0, its word 4 0x00150000, its word 10 0x00168000, its
word 14 with MODE 1 0x00178001; route 7 is 7·2^18 + 2^12 = 0x001C1000. -/

def w3 : Ref := 0x000C2000
def w4 : Ref := 0x00102000
def w5 : Ref := 0x00142000
def wRoute : Ref := 0x001C1000

theorem test_reference_fields :
    mkRef 2 3 0 = w3 ∧ refId 0x001480C0 = 5 ∧ refWord 0x001480C0 = 2 ∧ refSpace 0x001480C0 = 0 ∧ refExp 0x001480C0 = 3 ∧ refMode 0x00178001 = 1
      ∧ refSpace wRoute = 1 ∧ refId wRoute = 7 := by decide

/-- A word list decodes to an instruction, which is legal. -/
def reads (ws : List Word) (o : Op) (imm : Nat) (dst : Ref) (slots : List Ref) : Bool :=
  let i : LogicIns := { op := o, imm := imm, dst := dst, slots := slots }
  decide (decodeLogic ws = some i) && i.legal

theorem test_decode_values :
    reads [0x01100009000C2000, 0x0014200000000000] .mov 9 w3 [w5] = true
    ∧ reads [0x0210000000148000, 0xFFFFFFFF00000000] .ldi 0 0x00148000 [0xFFFFFFFF] = true
    ∧ reads [0x03200009000C2000, 0x0010200000142000] .add 9 w3 [w4, w5] = true
    ∧ reads [0x042FFFFF000C2000, 0x0010200000142000] .sub 0xFFFFF w3 [w4, w5] = true
    ∧ reads [0x05100009000C2000, 0x0010200000000000] .not 9 w3 [w4] = true
    ∧ reads [0x06300009000C2000, 0x000C200000102000, 0x0014200000000000] .sel 9 w3 [w3, w4, w5] = true := by decide

theorem test_decode_conditions :
    reads [0x10100009000C2000, 0x001480C000000000] .all 9 w3 [0x001480C0] = true
    ∧ reads [0x11200009000C2000, 0x001480C0001480C0] .any 9 w3 [0x001480C0, 0x001480C0] = true
    ∧ reads [0x12200009000C2000, 0x001C1000001C1000] .conf 9 w3 [wRoute, wRoute] = true
    ∧ reads [0x13200009000C2000, 0x001C1000001480C0] .flank 9 w3 [wRoute, 0x001480C0] = true
    ∧ reads [0x1420000000000000, 0x001C1000001480C0] .flreq 0 0 [wRoute, 0x001480C0] = true
    ∧ reads [0x29200009000C2000, 0x001480C000178001] .edge 9 w3 [0x001480C0, 0x00178001] = true := by decide

theorem test_decode_locks_and_routes :
    reads [0x18200009000C2000, 0x001C100100150000] .lock 9 w3 [0x001C1001, 0x00150000] = true
    ∧ reads [0x1920000000000000, 0x001C100000150000] .unlock 0 0 [wRoute, 0x00150000] = true
    ∧ reads [0x2070000000000000, 0x001C1000000C2000, 0x0010200000142000, 0x000C200000102000, 0x0014200000000000] .route 0 0
        [wRoute, w3, w4, w5, w3, w4, w5] = true
    ∧ reads [0x2120000200000000, 0x001C100000148002] .rrel 2 0 [wRoute, 0x00148002] = true := by decide

theorem test_decode_control :
    reads [0x2810003200168000, 0x000C200000000000] .tmr 0x32 0x00168000 [w3] = true
    ∧ reads [0x3010000000000000, 0x0014000000000000] .carry 0 0 [0x00140000] = true
    ∧ reads [0x3110000000000000, 0x000C200000000000] .seal 0 0 [w3] = true
    ∧ reads [0x3810000300000000, 0x000C200000000000] .skipf 3 0 [w3] = true
    ∧ reads [0x3910000300000000, 0x000C200000000000] .skipt 3 0 [w3] = true
    ∧ reads [0x3F00000000000000] .endp 0 0 [] = true := by decide

/-- Not assigned (R116), a missing operand word, and an unused slot that is not zero (R113). -/
theorem test_decode_refused :
    decodeLogic [0] = none ∧ decodeLogic [0xFF00000000000000] = none ∧ decodeLogic [0x0710000000000000, 0] = none
      ∧ decodeLogic [0x01100009000C2000] = none ∧ decodeLogic [0x01100009000C2000, 0x0014200000000001] = none := by decide

/-- Words of general instructions (R58 and the tables of chapter 02): ADD g1, g2, g3, ERET and BC with cond 14 are legal; a
word of zeros, an unlisted ADD function, CMP with gd nonzero and BC with cond 15 are not. -/
theorem test_legal_words :
    legalWord 0x04221800 = true ∧ legalWord 0xC0000005 = true ∧ legalWord 0x99C00000 = true ∧ legalWord 0 = false ∧ legalWord 0x042217FF = false
      ∧ legalWord 0x04221806 = false ∧ legalWord 0x99E00000 = false := by decide

/-! ## The well-formedness check refuses an ill-formed term of each kind -/

/-- Illegal encodings of R115 and R116, one for each opcode's check. -/
theorem smoke_logic :
    [Instr.mov .a 0 9 w3 0x00003000, .mov .a 0 0 w3 w5, .mov .a 0 9 0x00148000 w5, .ldi .a 0 0 w3 1, .logicAdd .a 0 9 w3 w4 0x001480C0,
      .logicSub .a 0 9 0x00103000 w4 w5, .not .a 0 9 w3 0x01002000, .sel .a 0 9 w3 w3 w4 0x00146000, .all .a 0 9 w3 [],
      .any .a 0 9 w3 [w3, w3, w3, w3, w3, w3, w3, w3, w3], .conf .a 0 9 w3 wRoute [], .flank .a 0 9 w3 wRoute [0x00148000], .flreq .a 0 w3 [0x001480C0],
      .lock .a 0 9 w3 0x001C1002 [0x00150000], .unlock .a 0 wRoute [0x00148000], .route .a 0 wRoute [w3], .rrel .a 0 1 wRoute [0x00148003],
      .tmr .a 0 50 w3 w4, .edge .a 0 9 w3 0x001480C0 0x00178000, .carry .a 0 [w3], .seal .a 0 [], .skipf .a 0 3 0x001C9001,
      .skipt .a 0 3 0x00003000].all (fun i => !i.wellFormed) = true := by decide +kernel

/-- Operands of events outside their range. -/
theorem smoke_events :
    let f : Frame := tFrame 0 0 0 []
    let g : Frame := { f with slot := 1024 }
    let n : Frame := { f with node := 4096 }
    let b : Frame := { f with payload := [256] }
    [Instr.illegalInstruction .a .c0 0x04221800, .boundaryMarkerReceived .a .a 0, .xleRecordReceived .b .b true, .vote 8,
      .outcomeRecord 8 (PerLane.all 0), .transmitSlot .x 1024 0 0 20000 0, .transmitSlot .x 0 8 0 20000 0, .transmitSlot .x 0 0 8 20000 0,
      .transmitSlot .x 0 0 0 19999 0, .twinInputRecordSend 8 0, .twinInputRecordSend 0 8, .compareRecordSend 8 0, .compareRecordSend 0 8,
      .xleHeartbeatTimeout .c .c, .xleLinkDown .a .a, .starFrameIngress .x 9 0 f true false, .starFrameIngress .x 0 0 f true false,
      .starFrameIngress .x 1 0 n true false, .coldFrameAtListeningCore .x 9 0 f, .coldFrameAtListeningCore .x 1 0 g,
      .posteRestanteClaim .x 9 0 f, .posteRestanteClaim .x 1 0 b, .portUnblock .x 9, .claimExpiry .x 1024, .syncReceived .x 2,
      .laneFrameReceived .a 1024, .roundTick [] [(.a, ⟨0, 0, 0, 0⟩)], .linkDelayRequest .x 9 0, .markReceived .x 9 true 0 true,
      .linkDelayDiscard .x 9, .wanDatagramReceived 65536 0 [], .wanDatagramReceived 0 0 [256], .twinFunctionProof 4 true].all
        (fun i => !i.wellFormed) = true := by decide +kernel

theorem smoke_field_and_power :
    [Instr.cutOffNotice 0 8 true, .downlinkFrameReceived .a 0 [], .inputDebounced .a 81 .zero, .currentLimitTrip .a 27 0, .currentLimitTrip .a 0 3,
      .feedbackSettle 3, .cellClear .a .c0 27, .holdupCharged 101, .startSequence { tIn with lanesBad := 8 }, .fillComplete .a true 65536 0,
      .fillComplete .a true 0 65536, .selfTestBlock 17 0 true, .selfTestAbort 17 0, .stampRequest .a .c0 0xFFFFFFFFFFFFFFFF, .stampRelease .a .c0 0,
      .groupOnStampTimeout 8].all (fun i => !i.wellFormed) = true := by decide +kernel

/-- Operands of register commands outside what their register gives them. -/
theorem smoke_registers :
    let img := tImage (tBody [])
    [Instr.acquire .a .c0 64 0, .acquire .a .c0 0 65536, .release .a .c0 64, .renew .a .c0 64 0, .hand .a .c0 0 65536 0, .recover .a .c0 64,
      .leaseExpiry .a 64, .claim .a .c0 ⟨256, 0, 0, 0⟩, .claimRelease .a .c0 ⟨0, 65536, 0, 0⟩, .claim .a .c0 ⟨0, 0, 4096, 0⟩,
      .claim .a .c0 ⟨0, 0, 0, 4096⟩, .getCert .a 0x1000000 0, .attest .a 1 0, .imgCheck .a 0 65536 img, .imgApply .a 32 0 img,
      .gcmSeal .a 0 65536 0, .gcmOpen .a 63 0, .keyInstall .a 63 0 tKey, .ownerCmd .a 63 0 tAuth, .logMac .a 63 0 .submit,
      .logMac .a 0 0 (.application 0xDFFF 0 0 []), .logMac .a 0 0 (.application 0xE000 0 0 (List.replicate 21 0)), .logMac .a 0 0 (.chain 2 1),
      .logRateSelect .a .c0 0xFFFFFFFFFFFFFFFF, .logRateApply .a .c0 0, .pmcSelWrite .a .c0 32 0, .crcInit .a .c0 8 0, .crcValWrite .a .c0 8 0,
      .crcEnable .a .c0 8 0, .memoryInject .a .c0 0, .comparatorInject .a .c0 0, .taskConfigWrite .a .c0 R.TSK_FORCE 0, .flush .a .c0 0,
      .engineEnable .a .c0 0xFFFFFFFFFFFFFFFF, .dprevWrite .a .c0 16 0, .votedWrite .a .c0 R.LOG_CUR 0, .rcRead .a .c0 0 R.LOG_CUR,
      .registerWrite .a .c0 7 0].all (fun i => !i.wellFormed) = true := by decide +kernel

/-- Terms at the ends of the ranges that the check admits. -/
theorem smoke_accepted :
    [Instr.illegalInstruction .a .c0 0xFFFFFFFF, .mov .a 0 9 w3 w5, .logicAdd .a 0 0 0x00148000 w4 w5, .lock .a 0 9 w3 0x001C1001 [0x00150000],
      .edge .a 0 9 w3 0x001480C0 0x00178001, .endPass .a 0, .boundaryMarkerReceived .a .b (-5), .vote 7, .outcomeRecord 7 (PerLane.all 0),
      .transmitSlot .y 1023 7 7 20000 (-5), .starFrameIngress .x 8 0 (tFrame 0 4095 1023 [255]) true true, .laneFrameReceived .a 1023,
      .syncReceived .x 1, .twinInputRecordSend 7 7, .logMac .a 0 0 (.application 0xE0FF 0 0 (List.replicate 20 255)), .logMac .a 0 0 (.chain 1 1), .wanDatagramReceived 65535 0 [255], .twinFunctionProof 3 false,
      .cutOffNotice 0 7 true, .downlinkFrameReceived .a 0 (List.replicate 27 .mid), .inputDebounced .c 80 .one, .currentLimitTrip .a 26 2,
      .feedbackSettle 2, .holdupCharged 100, .selfTestBlock 16 0 true, .stampRequest .a .c0 0, .groupOnStampTimeout 7, .acquire .a .c0 63 65535,
      .getCert .a 0xFFFFC0 65535, .pmcSelWrite .a .c0 31 0, .crcInit .a .c0 7 0, .taskConfigWrite .a .c0 (R.TSK_CFG 15) 0, .dprevWrite .a .c0 15 0,
      .votedWrite .a .c0 R.TWN_SWAP 0, .rcRead .a .c0 0 R.MEM_ECC_STAT, .registerWrite .a .c0 R.LOG_CUR 0, .add .a .c0 1 2 3, .syscall .a .c0].all
        (fun i => i.wellFormed) = true := by decide +kernel

/-! ## The spec's worked examples -/

/-- The words of the example of chapter 02 are legal. -/
theorem test_example_words :
    [0x20A14012, 0x10A53450, 0x40C50000, 0x04E73000, 0x84C0FFFE].all legalWord = true := by decide

/-- QSET g5, 0x4012, 1 and ORI g5, g5, 0x3450 of that example. -/
theorem test_example_address :
    ((after (execQset .a .c0 5 0x4012 1 tS)).core .a .c0).g 5 = 0x40120000
      ∧ ((after (execOri .a .c0 5 5 0x3450 (after (execQset .a .c0 5 0x4012 1 tS)))).core .a .c0).g 5 = 0x40123450 := by decide

/-- FLANK of route QC401–QC433, and two slots of the point-proving ALL (chapter 03). -/
theorem test_example_flank :
    reads [0x13202B0C00202000, 0x0A9C1000135080C0] .flank 0x2B0C (mkRef 2 8 0) [mkRef 1 0x2A7 0, mkRef 0 0x4D4 2 ||| 3 <<< 6] = true
      ∧ mkRef 0 0x4D3 2 ||| 1 <<< 6 = 0x134C8040 ∧ mkRef 0 0x4D5 2 ||| 4 <<< 6 = 0x13548100 := by decide

/-- Check fields (R274, R275), and the correction of step 2 of the example of chapter 07: error 0x04 in symbol s3. -/
theorem test_example_check_fields :
    rsCheck 1 = 0x0F367840 ∧ rsCheck 0x200 = 0xC6AEB9D3 ∧ rsCheck 0x201 = 0xC998C193 ∧ poisonMask = 0x963C5AF0
      ∧ rsDecode 0x04000201 0xC998C193 = .corrected 0x201 [3] ∧ rsDecode 1 (0x0F367840 ^^^ 0x963C5AF0) = .poisoned := by decide +kernel

/-- Step 1 of that example: SB of 0x02 to 0x00E41239 over the word 1. -/
theorem test_example_byte_store :
    let s := (tG 0xE41239 2).onLane .a fun x => x.putWord 0xE41238 1
    let t := after (execSb .a .c0 2 1 0 s)
    (t.lane .a).data 0xE41238 = 0x201 ∧ (t.lane .a).check 0xE41238 = 0xC998C193 := by decide +kernel

end Sys2Proof.Tests
end

-- Proofs about the control cores' general instructions: privilege and return, control registers, the checks of data accesses.
section
namespace Sys2Proof.Machine

/-! ## Bits of numbers and words -/

theorem bits_testBit (v hi lo i : Nat) : (bits v hi lo).testBit i = (decide (i < hi + 1 - lo) && v.testBit (lo + i)) := by
  rw [bits, Nat.testBit_mod_two_pow, Nat.testBit_shiftRight]

theorem bits_lt (v hi lo : Nat) : bits v hi lo < 2 ^ (hi + 1 - lo) := Nat.mod_lt _ (Nat.two_pow_pos _)

/-- A number of n bits below a shifted one: the bits of each. -/
theorem testBit_mul_two_pow_add (a : Nat) {b n : Nat} (hb : b < 2 ^ n) (i : Nat) :
    (a * 2 ^ n + b).testBit i = if i < n then b.testBit i else a.testBit (i - n) := by
  rw [Nat.mul_comm, Nat.testBit_two_pow_mul_add _ hb]

/-- The flag bits of a status, 15:12. -/
theorem flagMask_getLsbD (i : Nat) : (0xF000 : Word).getLsbD i = (decide (12 ≤ i) && decide (i < 16)) := by
  rw [show (0xF000 : Word) = BitVec.ofNat 64 ((2 ^ 4 - 1) * 2 ^ 12) from rfl, BitVec.getLsbD_ofNat, Nat.testBit_mul_two_pow,
    Nat.testBit_two_pow_sub_one]
  by_cases h : 12 ≤ i <;> by_cases k : i < 16 <;> simp [h, k] <;> omega

/-- The bits of a status that ERET takes over: the flags and the three lowest. -/
theorem leaveMask_getLsbD (i : Nat) : (0xF007 : Word).getLsbD i = (decide (i < 3) || (decide (12 ≤ i) && decide (i < 16))) := by
  rw [show (0xF007 : Word) = BitVec.ofNat 64 (2 ^ 3 - 1) ||| 0xF000 from rfl, BitVec.getLsbD_or, flagMask_getLsbD,
    BitVec.getLsbD_ofNat, Nat.testBit_two_pow_sub_one]
  by_cases h : i < 3 <;> simp [h]
  omega

/-- The saved status that ERET takes over, field by field (R53, R79). -/
theorem and_leaveMask (w : Word) : w &&& 0xF007 = BitVec.ofNat 64 (bits w.toNat 15 12 * 0x1000 + bits w.toNat 2 0) := by
  have h0 : bits w.toNat 2 0 < 2 ^ 12 := (bits_lt ..).trans (by decide)
  refine BitVec.eq_of_getLsbD_eq fun i hi => ?_
  rw [BitVec.getLsbD_and, leaveMask_getLsbD, BitVec.getLsbD_ofNat, show 0x1000 = 2 ^ 12 from rfl, testBit_mul_two_pow_add _ h0]
  simp only [bits_testBit, BitVec.testBit_toNat]
  by_cases h : i < 12
  · simp [h, hi, Nat.not_le.2 h, Bool.and_comm]
  · have e : 12 + (i - 12) = i := by omega
    have k : i - 12 < 4 ↔ i < 16 := by omega
    simp [h, hi, e, k, show ¬ i < 3 by omega, show 12 ≤ i by omega, Bool.and_comm]

/-- A status whose flags alone come from another word (R54). -/
theorem flags_replaced (p v : Word) : (p &&& ~~~(0xF000 : Word)) ||| (v &&& 0xF000) =
    BitVec.ofNat 64 (bits p.toNat 63 16 * 2 ^ 16 + bits v.toNat 15 12 * 2 ^ 12 + bits p.toNat 11 0) := by
  have h0 : bits p.toNat 11 0 < 2 ^ 12 := bits_lt ..
  have h1 : bits v.toNat 15 12 < 2 ^ 4 := bits_lt ..
  have hs : bits p.toNat 63 16 * 2 ^ 16 + bits v.toNat 15 12 * 2 ^ 12 =
      (bits p.toNat 63 16 * 2 ^ 4 + bits v.toNat 15 12) * 2 ^ 12 := by ring
  refine BitVec.eq_of_getLsbD_eq fun i hi => ?_
  rw [hs, BitVec.getLsbD_ofNat, testBit_mul_two_pow_add _ h0, testBit_mul_two_pow_add _ h1]
  simp only [BitVec.getLsbD_or, BitVec.getLsbD_and, BitVec.getLsbD_not, flagMask_getLsbD, bits_testBit, BitVec.testBit_toNat]
  by_cases h : i < 12
  · simp [h, hi, Nat.not_le.2 h]
  · by_cases k : i < 16
    · have e : 12 + (i - 12) = i := by omega
      simp [h, hi, k, e, show i - 12 < 4 by omega, show 12 ≤ i by omega]
    · have e : 16 + (i - 12 - 4) = i := by omega
      simp [h, hi, k, e, show ¬ i - 12 < 4 by omega, show i - 12 - 4 < 48 by omega]

/-! ## The outcome of an instruction of a core: completed, ended by an exception, or refused for its level -/

theorem State.fetched_core (s : State) (l : Lane) (c : CoreId) : (s.fetched l c).core l c = s.core l c :=
  (s.fetched_reads l c).core l c

theorem Runs.congr {r : Host.Outcome State Fault Refusal} {s : State} {l : Lane} {c : CoreId} {f g : Core → Core}
    (h : Runs r s l c f) (hf : f (s.core l c) = g (s.core l c)) : Runs r s l c g := by
  obtain ⟨t, ht, hc⟩ := h
  exact ⟨t, ht, State.onCore_congr ((s.fetched_core l c).symm ▸ hf) ▸ hc⟩

/-- The body of an instruction of a ready core, when it completes. -/
theorem issue_runs {s : State} {l : Lane} {c : CoreId} {lo : Level} {body : State → State} {f : Core → Core}
    (h : Ready s l c lo) (hb : Counted ((s.fetched l c).onCore l c f) l (body (s.fetched l c))) :
    Runs (.next (s.issue l c lo body)) s l c f :=
  ⟨_, rfl, State.issue_ready (body := body) h ▸ hb⟩

/-- The body of an instruction of a ready core outside a handler, when it raises an exception (R79). -/
theorem issue_takes {s : State} {l : Lane} {c : CoreId} {lo : Level} {body : State → State} {code : Nat} {eaddr : Word}
    (h : Ready s l c lo) (hx : (s.core l c).exl = false)
    (hb : body (s.fetched l c) = (s.fetched l c).exception l c code eaddr) :
    Takes (.next (s.issue l c lo body)) s l c code eaddr := by
  rw [State.issue_ready h, hb]
  exact State.fetched_exception_takes hx

/-- An instruction of a core whose level is below its lowest (R69). -/
theorem issue_below_takes {s : State} {l : Lane} {c : CoreId} {lo : Level} {body : State → State}
    (h : Ready s l c .u) (hx : (s.core l c).exl = false) (hl : lo.le (s.core l c).level = false) :
    Takes (.next (s.issue l c lo body)) s l c 2 0 := by
  rw [State.issue_below h hl]
  exact State.fetched_exception_takes hx

theorem Level.k_le_eq_false {v : Level} (h : v ≠ .k) : Level.k.le v = false := by
  cases v with
  | k => exact absurd rfl h
  | _ => rfl

theorem Core.done_g (x : Core) (r q : GReg) (v : Word) : (x.done r v).g q = if q = r ∧ r ≠ 0 then v else x.g q :=
  x.g_setG r q v

theorem Core.done_pc (x : Core) (r : GReg) (v : Word) : (x.done r v).pc = x.pc + 4 := rfl

theorem State.setG_retire_counted (s : State) (l : Lane) (c : CoreId) (gd : GReg) (v : Word) :
    Counted (s.onCore l c fun x => x.done gd v) l ((s.onCore l c fun x => x.setG gd v).retire l c) := by
  have h := State.onCore_retire_counted s l c fun x => x.setG gd v
  simp only [Core.setG_pc] at h
  exact h

/-! ## ERET, and instructions below their lowest level -/

theorem eret_takes_illegal {s : State} {l : Lane} {c : CoreId} (h : Ready s l c .k)
    (hb : bits (s.core l c).epsw.toNat 1 0 = 3) (hx : (s.core l c).exl = false) :
    Takes (exec (.eret l c) s) s l c 1 eretWord := by
  refine issue_takes h hx ?_
  rw [s.fetched_core, if_pos hb]
  rfl

theorem eret_runs {s : State} {l : Lane} {c : CoreId} (h : Ready s l c .k) (hb : bits (s.core l c).epsw.toNat 1 0 ≠ 3) :
    Runs (exec (.eret l c) s) s l c Core.leave := by
  refine issue_runs h ?_
  rw [s.fetched_core, if_neg hb]
  exact State.pmc_counted ..

/-- Settles O7: an instruction below its lowest level takes PRIV before its body; at K, ERET's body decides on the saved level. -/
theorem privilegeAndReturn : Obligations.PrivilegeAndReturn := by
  refine ⟨fun s l c gd ga h hx => ⟨fun hk => ?_, fun hu => ?_⟩, fun s l c h => ⟨fun hb => ?_, fun hb hx => ?_⟩⟩
  · have hl := Level.k_le_eq_false hk
    exact ⟨issue_below_takes h hx hl, issue_below_takes h hx hl, issue_below_takes h hx hl⟩
  · have hl : Level.s.le (s.core l c).level = false := by rw [hu]; rfl
    exact ⟨issue_below_takes h hx hl, issue_below_takes h hx hl, issue_below_takes h hx hl, issue_below_takes h hx hl,
      issue_below_takes h hx hl⟩
  · exact (eret_runs h hb).congr (by rw [Core.leave, and_leaveMask])
  · exact eret_takes_illegal h hb hx

/-! ## Control registers (R53, R54, R70) -/

section ControlRegisters
variable {s : State} {l : Lane} {c : CoreId} {g : GReg} {cn : BitVec 12}

theorem ctlReadLevel_of_user {n : Nat} (h : n = 0 ∨ n = 8 ∨ n = 9) : ctlReadLevel n = .u := if_pos h
theorem ctlReadLevel_of_kernel {n : Nat} (h : ¬(n = 0 ∨ n = 8 ∨ n = 9)) : ctlReadLevel n = .k := if_neg h

theorem ctlReadLevel_le {n : Nat} {v : Level} (h : v = .k ∨ n = 0 ∨ n = 8) : (ctlReadLevel n).le v = true := by
  rcases h with rfl | h | h
  · unfold ctlReadLevel; split <;> rfl
  · rw [ctlReadLevel_of_user (.inl h)]; simp [Level.le, Level.code]
  · rw [ctlReadLevel_of_user (.inr (.inl h))]; simp [Level.le, Level.code]

theorem ctlReadLevel_not_le {n : Nat} {v : Level} (hv : v ≠ .k) (h0 : n ≠ 0) (h8 : n ≠ 8) (h9 : n ≠ 9) :
    (ctlReadLevel n).le v = false := by
  rw [ctlReadLevel_of_kernel (by tauto), Level.k_le_eq_false hv]

/-- Every control register but CYC and DOORBELL is read as it stands. -/
theorem readCtl_fixed {n : Nat} (h9 : n ≠ 9) (hA : n ≠ 0xA) : s.readCtl l c n = ((s.core l c).ctl l c n, s) := by
  rw [State.readCtl, if_neg h9, if_neg hA]

theorem mfc_runs (h : Ready s l c .u) (hl : ctlListed cn.toNat = true)
    (hv : (ctlReadLevel cn.toNat).le (s.core l c).level = true) (h9 : cn.toNat ≠ 9) (hA : cn.toNat ≠ 0xA) :
    Runs (exec (.mfc l c g cn) s) s l c fun y => y.done g ((s.core l c).ctl l c cn.toNat) := by
  refine issue_runs h ?_
  rw [if_neg (by simp [hl]), s.fetched_core, if_neg (by simp [hv]), readCtl_fixed h9 hA, s.fetched_core]
  exact State.setG_retire_counted ..

/-- A read of CYC or DOORBELL, whose value is free, moves no general register and not the pc. -/
theorem readCtl_free_core {n : Nat} (h : n = 9 ∨ n = 0xA) (s : State) (l : Lane) (c : CoreId) :
    (∀ r, ((s.readCtl l c n).2.core l c).g r = (s.core l c).g r) ∧ ((s.readCtl l c n).2.core l c).pc = (s.core l c).pc := by
  rcases h with rfl | rfl
  · have hc : (s.readCtl l c 9).2.core l c = _ := State.core_onCore_same s l c _
    rw [hc]
    exact ⟨fun _ => rfl, rfl⟩
  · exact ⟨fun _ => rfl, rfl⟩

theorem mfc_free (h : Ready s l c .u) (hk : (s.core l c).level = .k) (hn : cn.toNat = 9 ∨ cn.toNat = 0xA) :
    ∃ v t, exec (.mfc l c g cn) s = .next t ∧ (t.core l c).g g = ((s.core l c).setG g v).g g
      ∧ (t.core l c).pc = (s.core l c).pc + 4 := by
  have hl : ctlListed cn.toNat = true := by rcases hn with e | e <;> rw [e] <;> rfl
  obtain ⟨hg, hpc⟩ := readCtl_free_core hn (s.fetched l c) l c
  refine ⟨((s.fetched l c).readCtl l c cn.toNat).1, _, congrArg Host.Outcome.next (State.issue_ready h), ?_⟩
  rw [if_neg (by simp [hl]), s.fetched_core, if_neg (by rw [ctlReadLevel_le (.inl hk)]; simp)]
  dsimp only
  rw [(State.setG_retire_counted ..).core, State.core_onCore_same, Core.done_g, Core.g_setG, Core.done_pc, hg, hpc, s.fetched_core]
  exact ⟨rfl, rfl⟩

theorem mfc_takes_illegal (h : Ready s l c .u) (hx : (s.core l c).exl = false) (hl : ctlListed cn.toNat = false) :
    Takes (exec (.mfc l c g cn) s) s l c 1 (mfcWord g cn) := by
  refine issue_takes h hx ?_
  rw [if_pos hl]
  rfl

theorem mfc_takes_priv (h : Ready s l c .u) (hx : (s.core l c).exl = false) (hl : ctlListed cn.toNat = true)
    (hv : (ctlReadLevel cn.toNat).le (s.core l c).level = false) : Takes (exec (.mfc l c g cn) s) s l c 2 0 := by
  refine issue_takes h hx ?_
  rw [if_neg (by simp [hl]), s.fetched_core, if_pos hv]
  rfl

theorem Core.setCtl_pc (x : Core) (n : Nat) (v : Word) : (x.setCtl n v).pc = x.pc := by
  unfold Core.setCtl
  split <;> try rfl
  split_ifs <;> rfl

theorem mtc_runs (h : Ready s l c .u) (hk : (s.core l c).level = .k) (hl : ctlListed cn.toNat = true) (h8 : cn ≠ 8)
    (hA : cn.toNat ≠ 0xA) (hr : (s.core l c).g g &&& BitVec.ofNat 64 (ctlReserved cn.toNat) = 0)
    (hb : cn = 0 → bits ((s.core l c).g g).toNat 1 0 ≠ 3) :
    Runs (exec (.mtc l c g cn) s) s l c fun y =>
      { y.setCtl cn.toNat ((s.core l c).g g) with pc := (s.core l c).pc + 4 } := by
  refine Runs.congr (f := fun y => { y.setCtl cn.toNat ((s.core l c).g g) with
    pc := (y.setCtl cn.toNat ((s.core l c).g g)).pc + 4 }) (issue_runs h ?_) (by simp only [Core.setCtl_pc])
  dsimp only
  rw [s.fetched_core, if_neg (not_or.2 ⟨by simp [hl], h8⟩), if_neg (by simp [hk]), if_neg (by tauto),
    State.writeCtl, if_neg (by simp [hr]), if_neg hA]
  exact State.onCore_retire_counted ..

/-- MTC to PSW below K takes the flags alone (R54). -/
theorem mtc_psw_runs (h : Ready s l c .u) (hk : (s.core l c).level ≠ .k) :
    Runs (exec (.mtc l c g 0) s) s l c fun y =>
      { y with psw := (y.psw &&& ~~~(0xF000 : Word)) ||| ((s.core l c).g g &&& 0xF000), pc := y.pc + 4 } := by
  refine issue_runs h ?_
  dsimp only
  rw [s.fetched_core, if_neg (by decide), if_pos hk, if_pos rfl]
  exact State.onCore_retire_counted ..

theorem mtc_takes_illegal (h : Ready s l c .u) (hx : (s.core l c).exl = false) (hl : ctlListed cn.toNat = false ∨ cn = 8) :
    Takes (exec (.mtc l c g cn) s) s l c 1 (mtcWord g cn) := by
  refine issue_takes h hx ?_
  dsimp only
  rw [if_pos hl]
  rfl

theorem mtc_takes_priv (h : Ready s l c .u) (hx : (s.core l c).exl = false) (hk : (s.core l c).level ≠ .k)
    (hl : ctlListed cn.toNat = true) (h8 : cn ≠ 8) (h0 : cn ≠ 0) : Takes (exec (.mtc l c g cn) s) s l c 2 0 := by
  refine issue_takes h hx ?_
  dsimp only
  rw [s.fetched_core, if_neg (not_or.2 ⟨by simp [hl], h8⟩), if_pos hk, if_neg h0]
  rfl

end ControlRegisters

/-- Settles O9, clause by clause: what decides is whether the number is listed, then the level, then the value written. -/
theorem controlRegisterMoves : Obligations.ControlRegisterMoves := by
  intro s l c g cn h x n
  have h0 : n = 0 ↔ cn = 0 := ⟨fun e => BitVec.eq_of_toNat_eq e, fun e => congrArg BitVec.toNat e⟩
  have h8 : n = 8 ↔ cn = 8 := ⟨fun e => BitVec.eq_of_toNat_eq e, fun e => congrArg BitVec.toNat e⟩
  refine ⟨fun hv hl h9 hA => mfc_runs h hl (ctlReadLevel_le hv) h9 hA, fun hk hn => mfc_free h hk hn,
    fun hk hl hA n8 hr hb => mtc_runs h hk hl (mt h8.2 n8) hA hr fun e => hb (h0.2 e), fun hk n0 => ?_,
    fun hx hl => ⟨mfc_takes_illegal h hx hl, mtc_takes_illegal h hx (.inl hl)⟩,
    fun hx n8 => mtc_takes_illegal h hx (.inr (h8.1 n8)), fun hx hk hl n0 n8 => ⟨?_, fun n9 => ?_⟩⟩
  · rw [h0.1 n0]
    exact (mtc_psw_runs h hk).congr (by rw [flags_replaced])
  · exact mtc_takes_priv h hx hk hl (mt h8.2 n8) (mt h0.2 n0)
  · exact mfc_takes_priv h hx hl (ctlReadLevel_not_le hk n0 n8 n9)

/-! ## Maps linear over GF(2), and the field of the bus code (R277) -/

/-- A map of numbers of n bits that carries exclusive or over: linear over GF(2). -/
def XorMap (n : Nat) (f : Nat → Nat) : Prop := ∀ a b, a < 2 ^ n → b < 2 ^ n → f (a ^^^ b) = f a ^^^ f b

theorem XorMap.zero {n : Nat} {f : Nat → Nat} (h : XorMap n f) : f 0 = 0 := by
  simpa using h 0 0 (Nat.two_pow_pos n) (Nat.two_pow_pos n)

/-- The highest bit of a number taken away. -/
theorem xor_two_pow_lt {a n : Nat} (h1 : 2 ^ n ≤ a) (h2 : a < 2 ^ (n + 1)) : a ^^^ 2 ^ n < 2 ^ n := by
  refine Nat.lt_pow_two_of_testBit _ fun i hi => ?_
  rw [Nat.testBit_xor, Nat.testBit_two_pow]
  rcases Nat.eq_or_lt_of_le hi with rfl | hi
  · have hq : a / 2 ^ n = 1 := Nat.div_eq_of_lt_le (by omega) (by rw [pow_succ] at h2; omega)
    simp [Nat.testBit_eq_decide_div_mod_eq, hq]
  · rw [Nat.testBit_lt_two_pow (lt_of_lt_of_le h2 (Nat.pow_le_pow_right (by decide) hi))]
    simp [show n ≠ i by omega]

/-- Two linear maps that agree at the powers of two agree. -/
theorem XorMap.ext {n : Nat} {f g : Nat → Nat} (hf : XorMap n f) (hg : XorMap n g) (h : ∀ i < n, f (2 ^ i) = g (2 ^ i)) :
    ∀ a < 2 ^ n, f a = g a := by
  induction n with
  | zero =>
    intro a ha
    obtain rfl : a = 0 := by omega
    rw [hf.zero, hg.zero]
  | succ n ih =>
    intro a ha
    have hn : 2 ^ (n + 1) = 2 ^ n * 2 := pow_succ 2 n
    have low : ∀ b < 2 ^ n, f b = g b := ih (fun b d hb hd => hf b d (by omega) (by omega))
      (fun b d hb hd => hg b d (by omega) (by omega)) fun i hi => h i (by omega)
    by_cases hlt : a < 2 ^ n
    · exact low a hlt
    · have hb : a ^^^ 2 ^ n < 2 ^ n := xor_two_pow_lt (Nat.not_lt.1 hlt) ha
      have ea : a = (a ^^^ 2 ^ n) ^^^ 2 ^ n := by rw [Nat.xor_assoc, Nat.xor_self, Nat.xor_zero]
      rw [ea, hf _ _ (by omega) (by omega), hg _ _ (by omega) (by omega), low _ hb, h n (by omega)]

theorem xor_xor_xor_comm (a b c d : Nat) : a ^^^ b ^^^ (c ^^^ d) = a ^^^ c ^^^ (b ^^^ d) := by
  rw [Nat.xor_assoc, Nat.xor_assoc, Nat.xor_left_comm b]

/-- Doubling without a case split on the size: a shift, and the reduction of the bit shifted out. -/
theorem gfDouble_eq_xor {a : Nat} (h : a < 256) : gfDouble a = (a <<< 1) % 2 ^ 8 ^^^ (if a.testBit 7 then 0x1D else 0) := by
  have h7 : a.testBit 7 = decide (128 ≤ a) := by
    rw [Nat.testBit_eq_decide_div_mod_eq]
    exact decide_eq_decide.2 (by omega)
  rw [gfDouble, h7]
  by_cases k : 128 ≤ a
  · simp [k, Nat.shiftLeft_eq]
  · simp [k, Nat.shiftLeft_eq]; omega

theorem gfDouble_lt {a : Nat} (h : a < 256) : gfDouble a < 256 := by
  rw [gfDouble_eq_xor h]
  refine Nat.xor_lt_two_pow (n := 8) (Nat.mod_lt _ (by decide)) ?_
  split <;> decide

theorem gfDouble_xor : XorMap 8 gfDouble := by
  intro a b ha hb
  rw [gfDouble_eq_xor (Nat.xor_lt_two_pow ha hb), gfDouble_eq_xor ha, gfDouble_eq_xor hb, Nat.shiftLeft_xor_distrib,
    Nat.xor_mod_two_pow, Nat.testBit_xor]
  cases a.testBit 7 <;> cases b.testBit 7 <;> simp [Nat.xor_comm, Nat.xor_left_comm]

theorem gfMulN_lt {a b n : Nat} (h : a < 256) : gfMulN a b n < 256 := by
  induction n generalizing a b with
  | zero => exact (by decide : 0 < 256)
  | succ n ih =>
    rw [gfMulN]
    refine Nat.xor_lt_two_pow (n := 8) ?_ (ih (gfDouble_lt h))
    split
    · exact h
    · decide

theorem gfMul_lt {a b : Nat} (h : a < 256) : gfMul a b < 256 := gfMulN_lt h

theorem gfMulN_xor (c n : Nat) : XorMap 8 fun a => gfMulN a c n := by
  induction n generalizing c with
  | zero => exact fun _ _ _ _ => (Nat.xor_self 0).symm
  | succ n ih =>
    intro a b ha hb
    simp only [gfMulN]
    have hr : gfMulN (gfDouble a ^^^ gfDouble b) (c / 2) n = gfMulN (gfDouble a) (c / 2) n ^^^ gfMulN (gfDouble b) (c / 2) n :=
      ih (c / 2) _ _ (gfDouble_lt ha) (gfDouble_lt hb)
    rw [gfDouble_xor a b ha hb, hr]
    split <;> simp [Nat.xor_assoc, Nat.xor_left_comm]

theorem gfMul_xor (c : Nat) : XorMap 8 fun a => gfMul a c := gfMulN_xor c 8

theorem iter_gfDouble_lt {a : Nat} (n : Nat) (h : a < 256) : iter gfDouble n a < 256 := by
  induction n generalizing a with
  | zero => exact h
  | succ n ih => exact ih (gfDouble_lt h)

theorem iter_gfDouble_xor (n : Nat) : XorMap 8 (iter gfDouble n) := by
  induction n with
  | zero => exact fun _ _ _ _ => rfl
  | succ n ih =>
    intro a b ha hb
    rw [iter, gfDouble_xor a b ha hb, ih _ _ (gfDouble_lt ha) (gfDouble_lt hb)]
    rfl

/-- A product with a power of α is that many doublings, for the powers that the bus code uses. -/
theorem gfMul_gfExp {v e : Nat} (hv : v < 256) (he : e < 21) : gfMul v (gfExp e) = iter gfDouble e v := by
  refine XorMap.ext (gfMul_xor (gfExp e)) (iter_gfDouble_xor e) (fun i hi => ?_) v hv
  have hk : ∀ e < 21, ∀ i < 8, gfMul (2 ^ i) (gfExp e) = iter gfDouble e (2 ^ i) := by decide +kernel
  exact hk e he i hi

theorem iter_add {α : Type} (f : α → α) (m n : Nat) (x : α) : iter f (m + n) x = iter f n (iter f m x) := by
  induction m generalizing x with
  | zero => rw [Nat.zero_add]; rfl
  | succ m ih => rw [Nat.succ_add]; exact ih (f x)

theorem gfDouble_injective {a b : Nat} (ha : a < 256) (hb : b < 256) (h : gfDouble a = gfDouble b) : a = b := by
  have hk : ∀ x < 256, gfDouble x = 0 → x = 0 := by decide +kernel
  refine Nat.xor_eq_zero_iff.1 (hk _ (Nat.xor_lt_two_pow (n := 8) ha hb) ?_)
  rw [gfDouble_xor a b ha hb, h, Nat.xor_self]

theorem iter_gfDouble_injective {a b : Nat} (n : Nat) (ha : a < 256) (hb : b < 256) (h : iter gfDouble n a = iter gfDouble n b) :
    a = b := by
  induction n generalizing a b with
  | zero => exact h
  | succ n ih => exact gfDouble_injective ha hb (ih (gfDouble_lt ha) (gfDouble_lt hb) h)

/-- The powers of α at the places of the bus code move a symbol to different symbols. -/
theorem iter_gfDouble_ne {v d e : Nat} (hv : v < 256) (h0 : v ≠ 0) (hd : d < e) (he : e < 11) :
    iter gfDouble d v ≠ iter gfDouble e v := by
  intro h
  obtain ⟨k, rfl⟩ : ∃ k, e = k + d := ⟨e - d, by omega⟩
  rw [iter_add] at h
  have hk : ∀ k < 11, k ≠ 0 → ∀ v < 256, v ≠ 0 → v ≠ iter gfDouble k v := by decide +kernel
  exact hk k (by omega) (by omega) v hv h0 (iter_gfDouble_injective d hv (iter_gfDouble_lt k hv) h)

/-! ## The bus code (R277) -/

theorem bits_xor (a b hi lo : Nat) : bits (a ^^^ b) hi lo = bits a hi lo ^^^ bits b hi lo := by
  simp only [bits, Nat.shiftRight_xor_distrib, Nat.xor_mod_two_pow]

/-- A number below a shifted one, as an exclusive or. -/
theorem shiftLeft_add_eq_xor (a : Nat) {b n : Nat} (hb : b < 2 ^ n) : (a <<< n) + b = (a <<< n) ^^^ b := by
  refine Nat.eq_of_testBit_eq fun i => ?_
  rw [Nat.testBit_xor, Nat.testBit_shiftLeft, Nat.shiftLeft_eq, testBit_mul_two_pow_add a hb]
  by_cases h : i < n
  · simp [h, Nat.not_le.2 h]
  · rw [Nat.testBit_lt_two_pow (lt_of_lt_of_le hb (Nat.pow_le_pow_right (by decide) (Nat.not_lt.1 h)))]
    simp [h, Nat.not_lt.1 h]

theorem pack3_eq_xor (a : Nat) {b c : Nat} (hb : b < 256) (hc : c < 256) :
    (a <<< 16) + (b <<< 8) + c = (a <<< 16) ^^^ (b <<< 8) ^^^ c := by
  have h1 : (a <<< 16) + (b <<< 8) = ((a <<< 8) ^^^ b) <<< 8 := by
    rw [← shiftLeft_add_eq_xor a (n := 8) hb]
    simp only [Nat.shiftLeft_eq]; ring
  rw [h1, shiftLeft_add_eq_xor _ (n := 8) hc, Nat.shiftLeft_xor_distrib, ← Nat.shiftLeft_add]

/-- The symbol by which a step of the division multiplies the generator. -/
theorem busFactor_lt {r s : Nat} (hr : r < 2 ^ 24) (hs : s < 256) : r >>> 16 ^^^ s < 2 ^ 8 :=
  Nat.xor_lt_two_pow (by rw [Nat.shiftRight_eq_div_pow]; omega) hs

/-- One step of the division, as exclusive ors. -/
theorem busStep_eq {r s : Nat} (hr : r < 2 ^ 24) (hs : s < 256) : busStep r s = (r <<< 8) % 2 ^ 24 ^^^
    ((gfMul (r >>> 16 ^^^ s) 7 <<< 16) ^^^ (gfMul (r >>> 16 ^^^ s) 0xE <<< 8) ^^^ gfMul (r >>> 16 ^^^ s) 8) := by
  have hf := busFactor_lt hr hs
  rw [busStep, pack3_eq_xor _ (gfMul_lt hf) (gfMul_lt hf)]

theorem busStep_lt {r s : Nat} (hr : r < 2 ^ 24) (hs : s < 256) : busStep r s < 2 ^ 24 := by
  have hf := busFactor_lt hr hs
  have h7 := gfMul_lt (b := 7) hf
  have hE := gfMul_lt (b := 0xE) hf
  have h8 := gfMul_lt (b := 8) hf
  rw [busStep]
  refine Nat.xor_lt_two_pow (Nat.mod_lt _ (by decide)) ?_
  simp only [Nat.shiftLeft_eq]
  omega

theorem busStep_xor {r r' s s' : Nat} (hr : r < 2 ^ 24) (hr' : r' < 2 ^ 24) (hs : s < 256) (hs' : s' < 256) :
    busStep (r ^^^ r') (s ^^^ s') = busStep r s ^^^ busStep r' s' := by
  have hg : ∀ c, gfMul ((r ^^^ r') >>> 16 ^^^ (s ^^^ s')) c = gfMul (r >>> 16 ^^^ s) c ^^^ gfMul (r' >>> 16 ^^^ s') c := by
    intro c
    rw [← show _ = _ from gfMul_xor c _ _ (busFactor_lt hr hs) (busFactor_lt hr' hs')]
    congr 1
    rw [Nat.shiftRight_xor_distrib, xor_xor_xor_comm]
  rw [busStep_eq (Nat.xor_lt_two_pow hr hr') (Nat.xor_lt_two_pow (n := 8) hs hs'), busStep_eq hr hs, busStep_eq hr' hs']
  simp only [hg, Nat.shiftLeft_xor_distrib, Nat.xor_mod_two_pow]
  rw [xor_xor_xor_comm (gfMul (r >>> 16 ^^^ s) 7 <<< 16), xor_xor_xor_comm (gfMul (r >>> 16 ^^^ s) 7 <<< 16 ^^^ _),
    xor_xor_xor_comm (r <<< 8 % _)]

/-- The division carries exclusive or over from its words to its remainders. -/
theorem foldl_busStep_xor (a b n : Nat) : ∀ {r r' : Nat}, r < 2 ^ 24 → r' < 2 ^ 24 →
    (bytesBE (a ^^^ b) n).foldl busStep (r ^^^ r') = (bytesBE a n).foldl busStep r ^^^ (bytesBE b n).foldl busStep r' := by
  induction n with
  | zero => exact fun _ _ => rfl
  | succ n ih =>
    intro r r' hr hr'
    have ha : (a >>> (8 * n)) % 256 < 256 := Nat.mod_lt _ (by decide)
    have hb : (b >>> (8 * n)) % 256 < 256 := Nat.mod_lt _ (by decide)
    have hx : ((a ^^^ b) >>> (8 * n)) % 256 = (a >>> (8 * n)) % 256 ^^^ (b >>> (8 * n)) % 256 := by
      rw [Nat.shiftRight_xor_distrib]; exact Nat.xor_mod_two_pow (n := 8)
    simp only [bytesBE, List.foldl_cons]
    rw [hx, busStep_xor hr hr' ha hb, ih (busStep_lt hr ha) (busStep_lt hr' hb)]

/-- The symbol at a place of a word on a path: check symbols at 0 to 2, data symbols at 3 to 10 (R277). -/
def busSymbol (data chk e : Nat) : Nat :=
  if e < 3 then bits chk (8 * e + 7) (8 * e) else bits data (8 * (e - 3) + 7) (8 * (e - 3))

theorem busSyndrome_eq (data chk j : Nat) : busSyndrome data chk j =
    (List.range 11).foldl (fun a e => a ^^^ gfMul (busSymbol data chk e) (gfExp (e * j))) 0 := rfl

theorem busSymbol_lt (data chk e : Nat) : busSymbol data chk e < 2 ^ 8 := by
  unfold busSymbol
  split <;> exact (bits_lt ..).trans_le (Nat.pow_le_pow_right (by decide) (by omega))

theorem busSymbol_xor (d d' k k' e : Nat) : busSymbol (d ^^^ d') (k ^^^ k') e = busSymbol d k e ^^^ busSymbol d' k' e := by
  unfold busSymbol
  split <;> exact bits_xor ..

theorem foldl_xor_xor (f g : Nat → Nat) (xs : List Nat) : ∀ x y : Nat,
    xs.foldl (fun a e => a ^^^ (f e ^^^ g e)) (x ^^^ y) =
      xs.foldl (fun a e => a ^^^ f e) x ^^^ xs.foldl (fun a e => a ^^^ g e) y := by
  induction xs with
  | nil => exact fun _ _ => rfl
  | cons e xs ih =>
    intro x y
    simp only [List.foldl_cons, ← ih]
    rw [xor_xor_xor_comm]

theorem busSyndrome_xor (d d' k k' j : Nat) :
    busSyndrome (d ^^^ d') (k ^^^ k') j = busSyndrome d k j ^^^ busSyndrome d' k' j := by
  have h : ∀ e, gfMul (busSymbol (d ^^^ d') (k ^^^ k') e) (gfExp (e * j)) =
      gfMul (busSymbol d k e) (gfExp (e * j)) ^^^ gfMul (busSymbol d' k' e) (gfExp (e * j)) := by
    intro e
    rw [busSymbol_xor]
    exact gfMul_xor _ _ _ (busSymbol_lt ..) (busSymbol_lt ..)
  simp only [busSyndrome_eq, h]
  exact foldl_xor_xor _ _ _ 0 0

/-- A word with its check symbols is a codeword: its syndromes are zero (R277). -/
theorem busSyndrome_busCheck (w : Word) {j : Nat} (hj : j < 3) : busSyndrome w.toNat (busCheck w) j = 0 := by
  have hx : XorMap 64 fun v => busSyndrome v ((bytesBE v 8).foldl busStep 0) j := by
    intro a b _ _
    have hc : (bytesBE (a ^^^ b) 8).foldl busStep 0 = _ := foldl_busStep_xor a b 8 (r := 0) (r' := 0) (by decide) (by decide)
    dsimp only
    rw [hc, busSyndrome_xor]
  have hb : ∀ j < 3, ∀ i < 64, busSyndrome (2 ^ i) ((bytesBE (2 ^ i) 8).foldl busStep 0) j = 0 := by decide +kernel
  exact XorMap.ext hx (g := fun _ => 0) (fun _ _ _ _ => (Nat.xor_self 0).symm) (hb j hj) w.toNat w.isLt

/-! ## One damaged symbol -/

/-- The data symbols and the check symbols that damage of value v at a place strikes. -/
def symbolData (v e : Nat) : Nat := if e < 3 then 0 else v * 2 ^ (8 * (e - 3))
def symbolCheck (v e : Nat) : Nat := if e < 3 then v * 2 ^ (8 * e) else 0

theorem bits_symbol {v : Nat} (hv : v < 256) (k e : Nat) : bits (v * 2 ^ (8 * k)) (8 * e + 7) (8 * e) = if e = k then v else 0 := by
  refine Nat.eq_of_testBit_eq fun i => ?_
  rw [bits_testBit, Nat.testBit_mul_two_pow]
  have hi : ∀ j, 8 ≤ j → v.testBit j = false := fun j hj =>
    Nat.testBit_lt_two_pow (lt_of_lt_of_le hv (Nat.pow_le_pow_right (n := 2) (by decide) hj))
  by_cases h8 : i < 8
  · by_cases h : e = k
    · subst h
      simp [show i < 8 * e + 7 + 1 - 8 * e by omega]
    · by_cases hk : k < e
      · simp [h, hi (8 * e + i - 8 * k) (by omega)]
      · simp [h, show ¬ 8 * k ≤ 8 * e + i by omega]
  · simp only [show ¬ i < 8 * e + 7 + 1 - 8 * e by omega, decide_false, Bool.false_and]
    split
    · exact (hi i (by omega)).symm
    · simp

theorem busSymbol_symbol {v e d : Nat} (hv : v < 256) :
    busSymbol (symbolData v e) (symbolCheck v e) d = if d = e then v else 0 := by
  have h0 : ∀ hi lo, bits 0 hi lo = 0 := fun hi lo => by simp [bits]
  unfold busSymbol symbolData symbolCheck
  by_cases hd : d < 3 <;> by_cases he : e < 3
  · simp only [hd, he, if_true, bits_symbol hv]
  · simp only [hd, he, if_true, if_false, h0]
    rw [if_neg (by omega)]
  · simp only [hd, he, if_true, if_false, h0]
    rw [if_neg (by omega)]
  · simp only [hd, he, if_false, bits_symbol hv]
    simp only [show d - 3 = e - 3 ↔ d = e by omega]

theorem foldl_xor_range_single (e y n : Nat) :
    (List.range n).foldl (fun a i => a ^^^ if i = e then y else 0) 0 = if e < n then y else 0 := by
  induction n with
  | zero => simp
  | succ n ih =>
    rw [List.range_succ, List.foldl_append, ih, List.foldl_cons, List.foldl_nil]
    rcases Nat.lt_trichotomy e n with h | h | h
    · simp [h, show n ≠ e by omega, show e < n + 1 by omega]
    · simp [h]
    · simp [show ¬ e < n by omega, show n ≠ e by omega, show ¬ e < n + 1 by omega]

/-- The syndromes of one damaged symbol: its value moved by its place. -/
theorem busSyndrome_symbol {v e j : Nat} (hv : v < 256) (he : e < 11) (hj : j < 3) :
    busSyndrome (symbolData v e) (symbolCheck v e) j = iter gfDouble (e * j) v := by
  have hm : e * j ≤ 10 * 2 := Nat.mul_le_mul (by omega) (by omega)
  have h : ∀ d, gfMul (if d = e then v else 0) (gfExp (d * j)) = if d = e then gfMul v (gfExp (e * j)) else 0 := by
    intro d
    split
    · next h => rw [h]
    · exact (gfMul_xor _).zero
  rw [busSyndrome_eq]
  simp only [busSymbol_symbol hv, h]
  rw [foldl_xor_range_single, if_pos he, gfMul_gfExp hv (by omega)]

theorem busSyndrome_struck (w : Word) {v e j : Nat} (hv : v < 256) (he : e < 11) (hj : j < 3) :
    busSyndrome (w.toNat ^^^ symbolData v e) (busCheck w ^^^ symbolCheck v e) j = iter gfDouble (e * j) v := by
  rw [busSyndrome_xor, busSyndrome_busCheck w hj, Nat.zero_xor, busSyndrome_symbol hv he hj]

/-- Damage to one symbol is located and taken back, in a data symbol or in a check symbol (R277). -/
theorem busDecode_struck (w : Word) {v e : Nat} (hv : v < 256) (h0 : v ≠ 0) (he : e < 11) :
    busDecode (w.toNat ^^^ symbolData v e) (busCheck w ^^^ symbolCheck v e) = .corrected w := by
  have s0 := busSyndrome_struck w hv he (j := 0) (by decide)
  have s1 := busSyndrome_struck w hv he (j := 1) (by decide)
  have s2 := busSyndrome_struck w hv he (j := 2) (by decide)
  rw [Nat.mul_zero, iter] at s0
  rw [Nat.mul_one] at s1
  have hfind : (List.range 11).find? (fun d => v != 0 && gfMul v (gfExp d) == iter gfDouble e v
      && gfMul v (gfExp (2 * d)) == iter gfDouble (e * 2) v) = some e := by
    rw [List.find?_range_eq_some]
    refine ⟨?_, List.mem_range.2 he, fun d hd => ?_⟩
    · rw [gfMul_gfExp hv (by omega), gfMul_gfExp hv (by omega), Nat.mul_comm 2 e]
      simp [h0]
    · rw [gfMul_gfExp hv (by omega : d < 21)]
      simp [iter_gfDouble_ne hv h0 hd he]
  have hw : (if e < 3 then w.toNat ^^^ symbolData v e else (w.toNat ^^^ symbolData v e) ^^^ (v <<< (8 * (e - 3)))) = w.toNat := by
    unfold symbolData
    split
    · exact Nat.xor_zero _
    · rw [Nat.shiftLeft_eq, Nat.xor_assoc, Nat.xor_self, Nat.xor_zero]
  rw [busDecode, s0, s1, s2, if_neg (fun h => h0 h.1), hfind]
  dsimp only
  rw [hw, BitVec.ofNat_toNat, BitVec.setWidth_eq]

/-- The same as a damage pattern: symbols of the word in its low 64 bits, check symbols above. -/
theorem busArrive_symbol (w : Word) {v e : Nat} (hv : v < 256) (h0 : v ≠ 0) (he : e < 11) :
    busArrive w (BitVec.ofNat 88 (v * 2 ^ (if e < 3 then 64 + 8 * e else 8 * (e - 3)))) = .corrected w := by
  have hlt : ∀ n k, k ≤ n → v * 2 ^ (8 * k) < 2 ^ (8 * (n + 1)) := fun n k hk =>
    calc v * 2 ^ (8 * k) < 2 ^ 8 * 2 ^ (8 * k) := Nat.mul_lt_mul_of_pos_right hv (Nat.two_pow_pos _)
      _ = 2 ^ (8 * (k + 1)) := by rw [← pow_add]; congr 1; omega
      _ ≤ 2 ^ (8 * (n + 1)) := Nat.pow_le_pow_right (by decide) (by omega)
  rw [← busDecode_struck w hv h0 he, busArrive, BitVec.toNat_ofNat]
  unfold symbolData symbolCheck bits
  by_cases h : e < 3
  · have hc : v * 2 ^ (8 * e) < 2 ^ 24 := hlt 2 e (by omega)
    have hp : v * 2 ^ (64 + 8 * e) = v * 2 ^ (8 * e) * 2 ^ 64 := by rw [pow_add]; ring
    simp only [h, if_true, hp, Nat.shiftRight_eq_div_pow]
    congr 2 <;> omega
  · have hd : v * 2 ^ (8 * (e - 3)) < 2 ^ 64 := hlt 7 (e - 3) (by omega)
    simp only [h, if_false, Nat.shiftRight_eq_div_pow]
    congr 2 <;> omega

/-! ## The checks of a data access (R57) -/

section Checks
variable {s : State} {l : Lane} {c : CoreId} {ea : Word} {n : Nat} {write block : Bool}

theorem dataRefusal_misaligned (h : ea.toNat % n ≠ 0) : s.dataRefusal l c ea n write block = some (exDataAlign, ea) := if_pos h

theorem dataRefusal_region (h : ea.toNat % n = 0)
    (hr : (s.core l c).regionOk ea.toNat (if write then .write else .read) = false) :
    s.dataRefusal l c ea n write block = some (exProt, ea) := by
  rw [State.dataRefusal, if_neg (not_not.2 h), if_pos hr]

theorem dataRefusal_width (h : ea.toNat % n = 0)
    (hr : (s.core l c).regionOk ea.toNat (if write then .write else .read) = true) (hs : isSram ea.toNat = false)
    (hd : isDram ea.toNat = false) (hl : s.levelRefusal l c ea.toNat write = none) :
    s.dataRefusal l c ea n write false = some (exDataBus, ea) := by
  rw [State.dataRefusal, if_neg (not_not.2 h), if_neg (by rw [hr]; simp), if_neg (by rw [hs, hd]; simp), hl]
  dsimp only
  rw [Bool.and_false, if_neg (by simp)]

theorem dataRefusal_memory (h : ea.toNat % n = 0)
    (hr : (s.core l c).regionOk ea.toNat (if write then .write else .read) = true)
    (hm : isSram ea.toNat = true ∨ isDram ea.toNat = true) : s.dataRefusal l c ea n write block = none := by
  rw [State.dataRefusal, if_neg (not_not.2 h), if_neg (by rw [hr]; simp), if_pos (by simpa using hm)]

/-- The outcome of a data access is that of the first of its checks that fails (R57): alignment, then the region, then the width. -/
structure Checked (o : Host.Outcome State Fault Refusal) (s : State) (l : Lane) (c : CoreId) (ea : Word) (n : Nat) (k : Access)
    (block : Bool) : Prop where
  align : ea.toNat % n ≠ 0 → Takes o s l c 5 ea
  region : ea.toNat % n = 0 → (s.core l c).regionOk ea.toNat k = false → Takes o s l c 7 ea
  width : ea.toNat % n = 0 → (s.core l c).regionOk ea.toNat k = true → isSram ea.toNat = false → isDram ea.toNat = false →
    (s.fetched l c).levelRefusal l c ea.toNat (decide (k = .write)) = none → block = false → Takes o s l c 6 ea

/-- An instruction whose body raises what the checks say. -/
theorem issue_checked {body : State → State} {k : Access} (h : Ready s l c .u) (hx : (s.core l c).exl = false)
    (hk : (if write then .write else .read) = k)
    (hb : ∀ e, (s.fetched l c).dataRefusal l c ea n write block = some e →
      body (s.fetched l c) = (s.fetched l c).exception l c e.1 e.2) :
    Checked (.next (s.issue l c .u body)) s l c ea n k block := by
  have hc := s.fetched_core l c
  have hw : decide (k = .write) = write := by rw [← hk]; cases write <;> rfl
  refine ⟨fun ha => issue_takes h hx (hb _ (dataRefusal_misaligned ha)), fun ha hr => ?_, fun ha hr hs hd hl hblock => ?_⟩
  · exact issue_takes h hx (hb _ (dataRefusal_region ha (by rw [hc, hk, hr])))
  · subst hblock
    exact issue_takes h hx (hb _ (dataRefusal_width ha (by rw [hc, hk, hr]) hs hd (hw ▸ hl)))

theorem load_checked {gd ga : GReg} {imm : BitVec 16} {signed : Bool} (h : Ready s l c .u) (hx : (s.core l c).exl = false) :
    Checked (.next (s.load l c gd ga imm n signed)) s l c ((s.core l c).ea ga imm) n .read (decide (n = 8)) := by
  refine issue_checked (write := false) h hx rfl fun e he => ?_
  dsimp only
  rw [s.fetched_core, he]

theorem store_checked {gs ga : GReg} {imm : BitVec 16} (h : Ready s l c .u) (hx : (s.core l c).exl = false) :
    Checked (.next (s.store l c gs ga imm n)) s l c ((s.core l c).ea ga imm) n .write (decide (n = 8)) := by
  refine issue_checked (write := true) h hx rfl fun e he => ?_
  dsimp only
  rw [s.fetched_core, he]

theorem ll_checked {gd ga : GReg} (h : Ready s l c .u) (hx : (s.core l c).exl = false) :
    Checked (exec (.ll l c gd ga) s) s l c ((s.core l c).g ga) 8 .read false := by
  refine issue_checked (write := false) h hx rfl fun e he => ?_
  dsimp only
  rw [s.fetched_core, he]

theorem sc_checked {gd ga gb : GReg} (h : Ready s l c .u) (hx : (s.core l c).exl = false) :
    Checked (exec (.sc l c gd ga gb) s) s l c ((s.core l c).g ga) 8 .write false := by
  refine issue_checked (write := true) h hx rfl fun e he => ?_
  dsimp only
  rw [s.fetched_core, he]

end Checks

/-! ## What serving an access leaves of its lane -/

/-- Of lane l, t has the memory, the check bytes, the damage on the paths and the register at a of s. -/
structure Leaves (s : State) (l : Lane) (a : Nat) (t : State) : Prop where
  mem : (t.lane l).mem = (s.lane l).mem
  chk : (t.lane l).chk = (s.lane l).chk
  bus : (t.lane l).bus = (s.lane l).bus
  reg : t.laneReg l a = s.laneReg l a

section Leaves
variable {s t u : State} {l : Lane} {c : CoreId} {a : Nat}

theorem Leaves.refl (s : State) (l : Lane) (a : Nat) : Leaves s l a s := ⟨rfl, rfl, rfl, rfl⟩

theorem Leaves.trans (h : Leaves s l a t) (k : Leaves t l a u) : Leaves s l a u :=
  ⟨k.mem.trans h.mem, k.chk.trans h.chk, k.bus.trans h.bus, k.reg.trans h.reg⟩

theorem Leaves.foldl {α : Type} {f : State → α → State} {xs : List α} :
    ∀ {s : State}, (∀ t, ∀ x ∈ xs, Leaves t l a (f t x)) → Leaves s l a (xs.foldl f s) := by
  induction xs with
  | nil => exact fun _ => Leaves.refl ..
  | cons x xs ih => exact fun h => (h _ x List.mem_cons_self).trans (ih fun t y hy => h t y (List.mem_cons_of_mem _ hy))

theorem Leaves.counted (h : Counted s l t) (ha : isPmcReg a = false) : Leaves s l a t := by
  obtain ⟨rs, hr⟩ := h.lane_same
  obtain ⟨qs, rfl, hq⟩ := h
  refine ⟨by rw [hr], by rw [hr], by rw [hr], ?_⟩
  rw [State.laneReg, State.lane_onLane_same]
  exact hq a ha

/-- An update of a lane that keeps its memory, its damage and its registers. -/
theorem Leaves.onLane {f : LaneState → LaneState} (hm : (f (s.lane l)).mem = (s.lane l).mem)
    (hk : (f (s.lane l)).chk = (s.lane l).chk) (hb : (f (s.lane l)).bus = (s.lane l).bus)
    (hr : (f (s.lane l)).regs = (s.lane l).regs) : Leaves s l a (s.onLane l f) :=
  ⟨by rw [State.lane_onLane_same, hm], by rw [State.lane_onLane_same, hk], by rw [State.lane_onLane_same, hb],
   by rw [State.laneReg, State.lane_onLane_same, hr, State.laneReg]⟩

theorem Leaves.eventL (h : Leaves s l a t) {m : Lane} {n : Nat} {d : List Nat} : Leaves s l a (t.eventL m n d) :=
  ⟨h.mem, h.chk, h.bus, h.reg⟩

theorem LaneState.failCycle_chk {n k : Nat} {b : Bool} (x : LaneState) : (x.failCycle n k b).chk = x.chk := by
  unfold LaneState.failCycle LaneState.sendSeals; dsimp only; split <;> rfl
theorem LaneState.failCycle_bus {n k : Nat} {b : Bool} (x : LaneState) : (x.failCycle n k b).bus = x.bus := by
  unfold LaneState.failCycle LaneState.sendSeals; dsimp only; split <;> rfl
theorem LaneState.failCycle_regs {n k : Nat} {b : Bool} (x : LaneState) : (x.failCycle n k b).regs = x.regs := by
  unfold LaneState.failCycle LaneState.sendSeals; dsimp only; split <;> rfl

theorem onCore_leaves (f : Core → Core) : Leaves s l a (s.onCore l c f) := by
  cases c <;> exact Leaves.onLane rfl rfl rfl rfl

theorem wr_lane (f : RField) (v : Nat) : ((s.wr l f v).lane l).mem = (s.lane l).mem ∧ ((s.wr l f v).lane l).chk = (s.lane l).chk
    ∧ ((s.wr l f v).lane l).bus = (s.lane l).bus := by
  rw [State.wr, State.setLaneReg, State.lane_onLane_same]
  exact ⟨rfl, rfl, rfl⟩

theorem wr_leaves {f : RField} {v : Nat} (h : a ≠ f.addr) : Leaves s l a (s.wr l f v) :=
  let ⟨hm, hk, hb⟩ := wr_lane f v
  ⟨hm, hk, hb, State.laneReg_setLaneReg_other (.inr h)⟩

theorem eccAddr_leaves {m src k s1 s2 b : Nat} (h : a ≠ R.MEM_ECC_ADDR) : Leaves s l a (s.eccAddr l m src k s1 s2 b) := by
  unfold State.eccAddr
  split
  · exact Leaves.refl ..
  · exact (((((wr_leaves h).trans (wr_leaves h)).trans (wr_leaves h)).trans (wr_leaves h)).trans (wr_leaves h)).trans
      (wr_leaves h)

variable (ha : isCounterReg a = false)
include ha

theorem isPmcReg_of_isCounterReg : isPmcReg a = false := by
  simp only [isCounterReg, Bool.or_eq_false_iff] at ha
  exact ha.1.1

theorem pmc_leaves {cls num : Nat} {attr : PmcAttr} : Leaves s l a (s.pmc l cls num attr) :=
  Leaves.counted (State.pmc_counted ..) (isPmcReg_of_isCounterReg ha)

theorem retire_leaves : Leaves s l a (s.retire l c) := (onCore_leaves _).trans (pmc_leaves ha)

theorem ne_crcReg_of_unit {sel : Nat} {addr : Option Nat} {n : Nat} (hn : n ∈ s.crcUnits l sel addr) :
    a ≠ R.CRC_VAL n ∧ a ≠ R.CRC_CFG n := by
  simp only [State.crcUnits, List.mem_filter, List.mem_map, Bool.and_eq_true, decide_eq_true_eq] at hn
  obtain ⟨⟨p, ⟨-, ⟨h1, h2⟩, -⟩, rfl⟩, -⟩ := hn
  simp only [isCounterReg, Bool.or_eq_false_iff, Bool.and_eq_false_iff, decide_eq_false_iff_not] at ha
  obtain ⟨⟨-, hcfg⟩, hval⟩ := ha
  unfold R.CRC_CFG at h1 h2 hcfg ⊢
  unfold R.CRC_VAL at hval ⊢
  omega

theorem snoop_leaves {sel : Nat} {addr : Option Nat} {bs : List Nat} : Leaves s l a (s.snoop l sel addr bs) :=
  Leaves.foldl fun _ _ hn => wr_leaves (ne_crcReg_of_unit ha hn).1

theorem snoopErr_leaves {sel : Nat} {addr : Option Nat} : Leaves s l a (s.snoopErr l sel addr) :=
  Leaves.foldl fun _ _ hn => wr_leaves (ne_crcReg_of_unit ha hn).2

theorem passGrant_leaves : Leaves s l a (s.passGrant l) := by
  unfold State.passGrant
  dsimp only
  split
  · exact (Leaves.onLane rfl rfl rfl rfl).trans (pmc_leaves ha)
  · exact Leaves.onLane rfl rfl rfl rfl

theorem transferEnds_leaves {r : Requester} : Leaves s l a (s.transferEnds l r) := by
  unfold State.transferEnds
  split
  · exact passGrant_leaves ha
  · exact Leaves.refl ..

theorem countAccess_leaves {m b : Nat} {lvl : Option Nat} {w : Bool} : Leaves s l a (s.countAccess l m lvl b w) := by
  have hp : Leaves s l a (s.pmc l 2 ((if isDram b then 2 else 0) + ofBool w) (.access m lvl b)) := pmc_leaves ha
  unfold State.countAccess
  dsimp only
  generalize s.pmc l 2 ((if isDram b then 2 else 0) + ofBool w) (.access m lvl b) = t at hp ⊢
  split
  · split
    · exact hp.trans (transferEnds_leaves ha)
    · split
      · exact hp.trans (transferEnds_leaves ha)
      · exact hp
  · exact hp

theorem exception_leaves {code : Nat} {ea : Word} (hx : (s.core l c).exl = false) : Leaves s l a (s.exception l c code ea) := by
  have h1 : Leaves s l a ((s.onCore l c fun y => y.enter (BitVec.ofNat 64 code) ea).pmc l 1 1 (.level (s.core l c).level.code)) :=
    (onCore_leaves _).trans (pmc_leaves ha)
  unfold State.exception
  dsimp only
  rw [hx, if_neg (by simp)]
  split
  · exact h1
  · split
    · exact h1
    · exact (h1.trans (Leaves.onLane (LaneState.failCycle_mem _) (LaneState.failCycle_chk _) (LaneState.failCycle_bus _)
        (LaneState.failCycle_regs _))).eventL
  · split
    · exact h1
    · exact (h1.trans (Leaves.onLane rfl rfl rfl rfl)).eventL
end Leaves

/-! ## A word on its way to a core, struck by damage (R277, R279) -/

theorem State.rd_inc_same {s : State} {l : Lane} {f : RField} (hf : f.Fits) (h : s.Inv) :
    (s.inc l f).rd l f = satAdd (s.rd l f) 1 f.max := by
  rw [State.inc, State.rd_wr_same hf h]
  refine Nat.mod_eq_of_lt ?_
  have := Nat.two_pow_pos (f.hi + 1 - f.lo)
  unfold satAdd RField.max
  split <;> omega

/-- Of lane l, t has the memory, the check bytes and the damage of s, and the counter f has advanced by one. -/
structure Counts (s : State) (l : Lane) (f : RField) (t : State) : Prop where
  mem : (t.lane l).mem = (s.lane l).mem
  chk : (t.lane l).chk = (s.lane l).chk
  bus : (t.lane l).bus = (s.lane l).bus
  count : t.rd l f = satAdd (s.rd l f) 1 f.max

theorem inc_counts {s : State} {l : Lane} {f : RField} (hf : f.Fits) (h : s.Inv) : Counts s l f (s.inc l f) :=
  let ⟨hm, hk, hb⟩ := wr_lane f (satAdd (s.rd l f) 1 f.max)
  ⟨hm, hk, hb, State.rd_inc_same hf h⟩

theorem Counts.leaves {s t u : State} {l : Lane} {f : RField} (h : Counts s l f t) (k : Leaves t l f.addr u) : Counts s l f u :=
  ⟨k.mem.trans h.mem, k.chk.trans h.chk, k.bus.trans h.bus, by rw [State.rd, k.reg]; exact h.count⟩

/-- The damage of a lane's paths has struck. -/
def State.spent (s : State) (l : Lane) : State := s.onLane l fun x => { x with bus := [] }

section Struck
variable {s : State} {l : Lane} {c : CoreId} {a n : Nat} {w : Word} {pat : BitVec 88}

theorem spent_inv (h : s.Inv) : (s.spent l).Inv := (onLane_spares (Spares.refl s) l _ (LaneSpares.upd (LaneSpares.refl _))).inv h

theorem spent_lane : (s.spent l).lane l = { s.lane l with bus := [] } := State.lane_onLane_same ..

theorem spent_rd (f : RField) : (s.spent l).rd l f = s.rd l f := by
  rw [State.rd, State.laneReg, spent_lane]
  rfl

theorem State.onLane_congr {f g : LaneState → LaneState} (h : f (s.lane l) = g (s.lane l)) : s.onLane l f = s.onLane l g := by
  rw [State.lane] at h
  rw [State.onLane, h, State.onLane]

theorem readStored_clean {src : Nat} (h : rsDecode ((s.lane l).data a) ((s.lane l).check a) = .clean w) :
    s.readStored l src a = (some w, s) := by
  rw [State.readStored, h]

theorem cross_struck {p : BusPath} {src : Nat} (hb : (s.lane l).bus = [⟨p, pat⟩]) :
    s.cross l p src a w = (s.spent l).busEnd l src a (busArrive w pat) := by
  have hs : (s.onLane l fun x => { x with bus := x.bus.erase ⟨p, pat⟩ }) = s.spent l :=
    State.onLane_congr (by simp only [hb, List.erase_cons_head])
  rw [State.cross, hb]
  simp only [List.find?_cons, beq_self_eq_true, hs]

/-- A core's load reads its word over its own path. -/
theorem readBus_load {lvl src : Nat} (t : State) :
    readBus l (mCore0 + c.num) (some lvl) src a (some w, t) = t.cross l (.load c) src a w := by
  cases c <;> rfl

theorem coreMaster_ne_scrub (c : CoreId) : mCore0 + c.num ≠ mScrub := by cases c <;> decide

/-- A good word that a core reads while damage waits on its path: what the end of the path makes of it. -/
theorem readMem_struck {lvl : Nat} (hd : rsDecode ((s.lane l).data (a / 8 * 8)) ((s.lane l).check (a / 8 * 8)) = .clean w)
    (hb : (s.lane l).bus = [⟨.load c, pat⟩]) :
    (s.readMem l (mCore0 + c.num) (some lvl) 0 a n).1 = ((s.spent l).busEnd l 0 (a / 8 * 8) (busArrive w pat)).1
    ∧ ∀ b, isCounterReg b = false →
      Leaves ((s.spent l).busEnd l 0 (a / 8 * 8) (busArrive w pat)).2 l b (s.readMem l (mCore0 + c.num) (some lvl) 0 a n).2 := by
  rw [State.readMem, readStored_clean hd, readBus_load, cross_struck hb]
  generalize (s.spent l).busEnd l 0 (a / 8 * 8) (busArrive w pat) = r
  dsimp only
  rw [if_neg (coreMaster_ne_scrub c)]
  obtain ⟨_ | v, t⟩ := r
  · exact ⟨rfl, fun b h => (countAccess_leaves h).trans (snoopErr_leaves h)⟩
  · exact ⟨rfl, fun b h => (countAccess_leaves h).trans (snoop_leaves h)⟩

theorem eccStat_not_counter : isCounterReg R.MEM_ECC_STAT = false := by decide

theorem readMem_corrected {lvl : Nat} {v : Word} (hi : s.Inv)
    (hd : rsDecode ((s.lane l).data (a / 8 * 8)) ((s.lane l).check (a / 8 * 8)) = .clean w)
    (hb : (s.lane l).bus = [⟨.load c, pat⟩]) (hv : busArrive w pat = .corrected v) :
    ∃ t, s.readMem l (mCore0 + c.num) (some lvl) 0 a n = (some v, t) ∧ Reads s t
      ∧ Counts (s.spent l) l R.MEM_ECC_STAT_BUS_CORR t := by
  obtain ⟨h1, h2⟩ := readMem_struck (n := n) (lvl := lvl) hd hb
  rw [hv] at h1 h2
  exact ⟨(s.readMem l (mCore0 + c.num) (some lvl) 0 a n).2, Prod.ext h1 rfl, State.readMem_reads (Reads.refl s),
    ((inc_counts (by decide) (spent_inv hi)).leaves (pmc_leaves eccStat_not_counter)).leaves (h2 _ eccStat_not_counter)⟩

theorem readMem_detected {lvl : Nat} (hi : s.Inv)
    (hd : rsDecode ((s.lane l).data (a / 8 * 8)) ((s.lane l).check (a / 8 * 8)) = .clean w)
    (hb : (s.lane l).bus = [⟨.load c, pat⟩]) (hv : busArrive w pat = .detected) :
    ∃ t, s.readMem l (mCore0 + c.num) (some lvl) 0 a n = (none, t) ∧ Reads s t
      ∧ Counts (s.spent l) l R.MEM_ECC_STAT_BUS_DET t := by
  obtain ⟨h1, h2⟩ := readMem_struck (n := n) (lvl := lvl) hd hb
  rw [hv] at h1 h2
  exact ⟨(s.readMem l (mCore0 + c.num) (some lvl) 0 a n).2, Prod.ext h1 rfl, State.readMem_reads (Reads.refl s),
    ((inc_counts (by decide) (spent_inv hi)).leaves (eccAddr_leaves (by decide)).eventL).leaves (h2 _ eccStat_not_counter)⟩
end Struck

/-! ## Loads from memory -/

theorem isBlock_of_memory {a : Nat} (h : isSram a = true ∨ isDram a = true) : isBlock a = false := by
  simp only [isSram, isDram, isBlock, Bool.and_eq_true, decide_eq_true_eq, Bool.and_eq_false_iff, decide_eq_false_iff_not] at h ⊢
  omega

theorem extractBytes_word (w : Word) : extractBytes w 0 8 false = w := by
  refine BitVec.eq_of_toNat_eq ?_
  simpa [extractBytes] using w.isLt

section Loads
variable {s : State} {l : Lane} {c : CoreId} {gd ga : GReg} {imm : BitVec 16} {n : Nat} {signed : Bool}
variable (h : Ready s l c .u) (ha : ((s.core l c).ea ga imm).toNat % n = 0)
  (hr : (s.core l c).regionOk ((s.core l c).ea ga imm).toNat .read = true)
  (hm : isSram ((s.core l c).ea ga imm).toNat = true ∨ isDram ((s.core l c).ea ga imm).toNat = true)
include h ha hr hm

/-- A load whose word has arrived. -/
theorem load_of_read {v : Word} {t : State}
    (hv : (s.fetched l c).readMem l (mCore0 + c.num) (some (s.core l c).level.code) 0 ((s.core l c).ea ga imm).toNat n
      = (some v, t)) :
    s.load l c gd ga imm n signed =
      (t.onCore l c fun x => x.setG gd (extractBytes v (((s.core l c).ea ga imm).toNat % 8) n signed)).retire l c := by
  have hc := s.fetched_core l c
  rw [State.load, State.issue_ready h]
  dsimp only
  rw [hc, dataRefusal_memory ha (hc ▸ hr) hm]
  dsimp only
  rw [if_neg (by rw [isBlock_of_memory hm]; simp), hv]

/-- A load whose word is not good, or is lost on its way. -/
theorem load_of_no_read {t : State}
    (hv : (s.fetched l c).readMem l (mCore0 + c.num) (some (s.core l c).level.code) 0 ((s.core l c).ea ga imm).toNat n
      = (none, t)) :
    s.load l c gd ga imm n signed = t.exception l c exUncorr (BitVec.ofNat 64 (((s.core l c).ea ga imm).toNat / 8 * 8)) := by
  have hc := s.fetched_core l c
  rw [State.load, State.issue_ready h]
  dsimp only
  rw [hc, dataRefusal_memory ha (hc ▸ hr) hm]
  dsimp only
  rw [if_neg (by rw [isBlock_of_memory hm]; simp), hv]
end Loads

/-! ## LD of a word that damage strikes on its way (R277, R279) -/

section StruckLoad
variable {s : State} {l : Lane} {c : CoreId} {gd ga : GReg} {imm : BitVec 16} {w : Word} {pat : BitVec 88}
variable (hi : s.Inv) (h : Ready s l c .u) (ha : ((s.core l c).ea ga imm).toNat % 8 = 0)
  (hr : (s.core l c).regionOk ((s.core l c).ea ga imm).toNat .read = true)
  (hm : isSram ((s.core l c).ea ga imm).toNat = true ∨ isDram ((s.core l c).ea ga imm).toNat = true)
  (hd : rsDecode (((s.fetched l c).lane l).data ((s.core l c).ea ga imm).toNat)
    (((s.fetched l c).lane l).check ((s.core l c).ea ga imm).toNat) = .clean w)
  (hb : ((s.fetched l c).lane l).bus = [⟨.load c, pat⟩])
include hi h ha hr hm hd hb

theorem ld_corrected {v : Word} (hv : busArrive w pat = .corrected v) :
    ∃ t, exec (.ld l c gd ga imm) s = .next t ∧ t.core l c = (s.core l c).done gd v
      ∧ Counts ((s.fetched l c).spent l) l R.MEM_ECC_STAT_BUS_CORR t := by
  have hw := Nat.div_mul_cancel (Nat.dvd_of_mod_eq_zero ha)
  obtain ⟨t, ht, hreads, hcount⟩ := readMem_corrected (n := 8) (lvl := (s.core l c).level.code)
    ((s.fetched_reads l c).inv hi) (hw.symm ▸ hd) hb hv
  refine ⟨_, congrArg Host.Outcome.next (load_of_read h ha hr hm ht), ?_,
    (hcount.leaves (onCore_leaves _)).leaves (retire_leaves eccStat_not_counter)⟩
  rw [ha, extractBytes_word, (State.setG_retire_counted ..).core, State.core_onCore_same, hreads.core, s.fetched_core]

theorem ld_detected (hx : (s.core l c).exl = false) (hv : busArrive w pat = .detected) :
    ∃ t, exec (.ld l c gd ga imm) s = .next t ∧ Entered (s.core l c) (t.core l c) 8 ((s.core l c).ea ga imm)
      ∧ Counts ((s.fetched l c).spent l) l R.MEM_ECC_STAT_BUS_DET t := by
  have hw := Nat.div_mul_cancel (Nat.dvd_of_mod_eq_zero ha)
  obtain ⟨t, ht, hreads, hcount⟩ := readMem_detected (n := 8) (lvl := (s.core l c).level.code)
    ((s.fetched_reads l c).inv hi) (hw.symm ▸ hd) hb hv
  have hc : t.core l c = s.core l c := (hreads.core l c).trans (s.fetched_core l c)
  have hx' : (t.core l c).exl = false := hc ▸ hx
  refine ⟨_, congrArg Host.Outcome.next (load_of_no_read h ha hr hm ht), ?_,
    hcount.leaves (exception_leaves eccStat_not_counter hx')⟩
  rw [(State.exception_after hx').core, hc, hw, BitVec.ofNat_toNat, BitVec.setWidth_eq]
  exact Core.enter_entered ..
end StruckLoad

theorem Counts.of_spent {s t : State} {l : Lane} {f : RField} (h : Counts (s.spent l) l f t) : (t.lane l).bus = []
    ∧ t.rd l f = satAdd (s.rd l f) 1 f.max ∧ (t.lane l).mem = (s.lane l).mem ∧ (t.lane l).chk = (s.lane l).chk := by
  obtain ⟨hm, hk, hb, hn⟩ := h
  rw [spent_lane] at hm hk hb
  rw [spent_rd] at hn
  exact ⟨hb, hn, hm, hk⟩

/-- Settles O13: one damaged symbol by linearity of the bus code; a struck load by what the end of its path makes of the word;
the checks by the first that fails. -/
theorem dataChecks : Obligations.DataChecks := by
  refine ⟨fun w v e he hv h0 => ?_, ?_, ?_⟩
  · exact busArrive_symbol w hv (fun e => h0 (BitVec.eq_of_toNat_eq e)) he
  · intro s l c gd ga imm w pat hi h f x a ha hr hm hd hb
    refine ⟨fun v hv => ?_, fun hv hx => ?_⟩
    · obtain ⟨t, ht, hcore, hcount⟩ := ld_corrected hi h ha hr hm hd hb hv
      obtain ⟨hbus, hn, hmem, -⟩ := hcount.of_spent
      exact ⟨t, ht, hcore, hbus, hn, hmem⟩
    · obtain ⟨t, ht, hcore, hcount⟩ := ld_detected hi h ha hr hm hd hb hx hv
      obtain ⟨hbus, hn, hmem, hchk⟩ := hcount.of_spent
      refine ⟨t, ht, ?_, hbus, hn, hmem, hchk⟩
      rw [BitVec.ofNat_toNat, BitVec.setWidth_eq]
      exact hcore
  · intro s l c g ga imm h hx ea a f hf
    have hk : Checked (exec f.2.2.2 s) s l c ea f.1 f.2.2.1 f.2.1 := by
      simp only [List.mem_cons, List.not_mem_nil, or_false] at hf
      rcases hf with rfl | rfl | rfl | rfl | rfl | rfl | rfl | rfl | rfl | rfl | rfl
      iterate 7 exact load_checked h hx
      iterate 4 exact store_checked h hx
    exact ⟨hk.align, hk.region, hk.width, fun ha gb => ⟨(ll_checked h hx).align ha, (sc_checked h hx).align ha⟩⟩

end Sys2Proof.Machine
end

-- Proofs about element logic: coded words and state codes, locks and flank requirements, routes and their release.
section
namespace Sys2Proof.Machine

/-! ## Coded words (R103, R104) -/

/-- A coded word read with other signatures never decodes: the sums of the signatures differ by less than A, so the residue is not
zero, and a sum taken below zero leaves a number beyond A·2^32. -/
theorem decodeCoded_other {a n b d b' d' : Nat} (ha : a < 2 ^ 31) (hn : n < 2 ^ 32) (hs : b + d < a) (hs' : b' + d' < a)
    (hne : b + d ≠ b' + d') : decodeCoded a (encodeWord a n b d) b' d' = none := by
  have hmul : a * n ≤ a * (2 ^ 32 - 1) := Nat.mul_le_mul_left a (by omega)
  refine if_neg ?_
  rintro ⟨hmod, hlt⟩
  rw [encodeWord, BitVec.toNat_sub, BitVec.toNat_ofNat, BitVec.toNat_ofNat] at hmod hlt
  by_cases hle : b' + d' ≤ a * n + (b + d)
  · have hx : (2 ^ 64 - (b' + d') % 2 ^ 64 + (a * n + b + d) % 2 ^ 64) % 2 ^ 64 = a * n + (b + d) - (b' + d') := by omega
    rw [hx] at hmod
    have hsum : (a * n + (b + d)) % a = (b' + d') % a := by
      conv_lhs => rw [← Nat.sub_add_cancel hle, Nat.add_mod, hmod, Nat.zero_add, Nat.mod_mod]
    rw [Nat.mul_add_mod, Nat.mod_eq_of_lt hs, Nat.mod_eq_of_lt hs'] at hsum
    exact hne hsum
  · omega

/-- The only word that decodes to n is the one that encodes it. -/
theorem eq_encodeWord_of_decodeCoded {a n b d : Nat} {x : Word} (h : decodeCoded a x b d = some n) : x = encodeWord a n b d := by
  rw [decodeCoded, Option.ite_none_right_eq_some] at h
  obtain ⟨⟨hmod, -⟩, hdiv⟩ := h
  have hy : (x - BitVec.ofNat 64 (b + d)).toNat = a * n := by
    rw [← Option.some.inj hdiv, Nat.mul_div_cancel' (Nat.dvd_of_mod_eq_zero hmod)]
  rw [encodeWord, Nat.add_assoc, BitVec.ofNat_add, ← hy, BitVec.ofNat_toNat, BitVec.setWidth_eq, BitVec.sub_add_cancel]

/-! ## State codes (R98 to R100) -/

theorem bit_xor (a b k : Nat) : bit (a ^^^ b) k = (bit a k != bit b k) := by
  rw [bit_eq_testBit, bit_eq_testBit, bit_eq_testBit, Nat.testBit_xor]

/-- A state code is the exclusive or of the patterns that the bits of its index pick. -/
theorem stateCode_eq_xor (i : Nat) : stateCode i = (if bit i 0 then 0x55555555 else 0) ^^^ (if bit i 1 then 0x33333333 else 0)
    ^^^ (if bit i 2 then 0x0F0F0F0F else 0) ^^^ (if bit i 3 then 0x00FF00FF else 0) ^^^ (if bit i 4 then 0x0000FFFF else 0)
    ^^^ (if bit i 5 then 0xFFFFFFFF else 0) := by
  have pick (b : Bool) (x c : Nat) : (if b then x ^^^ c else x) = x ^^^ if b then c else 0 := by cases b <;> simp
  simp only [stateCode, List.range, List.range.loop, List.foldl, pick, codePattern, Nat.zero_xor]

/-- The codes form a linear code: the difference of two is the code of the difference of their indices. -/
theorem stateCode_xor (i j : Nat) : stateCode (i ^^^ j) = stateCode i ^^^ stateCode j := by
  have pick (b d : Bool) (c : Nat) : (if (b != d) = true then c else 0) = (if b then c else 0) ^^^ (if d then c else 0) := by
    cases b <;> cases d <;> simp
  simp only [stateCode_eq_xor, bit_xor, pick]
  ac_rfl

theorem stateCode_weight : ∀ m < 64, m ≠ 0 → 16 ≤ ((List.range 32).filter fun k => bit (stateCode m) k).length := by
  decide

/-- Two codes differ where the code of their indices' difference has its bits. -/
theorem stateCode_distance {i j : Nat} (hi : i < 64) (hj : j < 64) (hne : i ≠ j) :
    16 ≤ ((List.range 32).filter fun k => bit (stateCode i) k != bit (stateCode j) k).length := by
  have h := stateCode_weight (i ^^^ j) (Nat.xor_lt_two_pow (n := 6) hi hj) (mt Nat.xor_eq_zero_iff.1 hne)
  simpa only [stateCode_xor, bit_xor] using h

/-- State codes are told apart by their index. -/
theorem stateCode_inj {i j : Nat} (hi : i < 64) (hj : j < 64) : stateCode i = stateCode j ↔ i = j := by
  refine ⟨fun h => of_not_not fun hne => ?_, congrArg _⟩
  have hd := stateCode_distance hi hj hne
  rw [h] at hd
  simp at hd

theorem codeIndexOk_iff (i : Nat) : codeIndexOk i = true ↔ 1 ≤ i ∧ i ≤ 63 ∧ i ≠ 32 := by
  simp [codeIndexOk, and_assoc]

/-- Settles O18: a word decodes with the sum of its signatures alone; the distance of two state codes is the weight of a third. -/
theorem codedValuesAndStateCodes : Obligations.CodedValuesAndStateCodes := by
  refine ⟨?_, ?_, ?_, ?_, rfl⟩
  · intro a n b b' d ha ha2 hn hb hb2 hb' hd
    refine ⟨decode_enc (by omega) ha2 hn, fun h => decodeCoded_other ha2 hn (by omega) (by omega) (by omega),
      fun d' hd' h => decodeCoded_other ha2 hn (by omega) (by omega) (by omega), fun x => eq_encodeWord_of_decodeCoded,
      BitVec.toNat_ofNat .., by omega, fun w => ?_⟩
    rw [decodeCoded, BitVec.ofNat_add, ← BitVec.sub_sub]
  · intro i j hi hj
    rw [codeIndexOk_iff] at hi hj
    exact stateCode_distance (by omega) (by omega)
  · have h : ∀ i < 64, codeIndexOk i = true → 0 < stateCode i ∧ stateCode i < 2 ^ 32 - 1 := by decide
    exact fun i hi => h i (by rw [codeIndexOk_iff] at hi; omega) hi
  · decide

/-! ## Words of a record -/

theorem refSpace_lt (q : Ref) : refSpace q < 4 := Nat.mod_lt _ (by decide)
theorem refId_lt (q : Ref) : refId q < 2 ^ 14 := Nat.mod_lt _ (by decide)
theorem refWord_lt (q : Ref) : refWord q < 16 := Nat.mod_lt _ (by decide)

theorem refAt_toNat (q : Ref) {w : Nat} (hw : w < 16) :
    (refAt q w).toNat = refId q * 2 ^ 18 + w * 2 ^ 14 + refSpace q * 2 ^ 12 := by
  have hs := refSpace_lt q
  have hi := refId_lt q
  rw [refAt, mkRef, BitVec.toNat_ofNat, Nat.mod_eq_of_lt (by omega)]

theorem refSpace_refAt (q : Ref) {w : Nat} (hw : w < 16) : refSpace (refAt q w) = refSpace q := by
  have hs := refSpace_lt q
  rw [refSpace, bits, refAt_toNat q hw, Nat.shiftRight_eq_div_pow]
  omega

theorem refId_refAt (q : Ref) {w : Nat} (hw : w < 16) : refId (refAt q w) = refId q := by
  have hs := refSpace_lt q
  have hi := refId_lt q
  rw [refId, bits, refAt_toNat q hw, Nat.shiftRight_eq_div_pow]
  omega

theorem refWord_refAt (q : Ref) {w : Nat} (hw : w < 16) : refWord (refAt q w) = w := by
  have hs := refSpace_lt q
  rw [refWord, bits, refAt_toNat q hw, Nat.shiftRight_eq_div_pow]
  omega

/-- A bare reference is a word of its own record. -/
theorem refBare_eq_refAt (q : Ref) : refBare q = refAt q (refWord q) := by
  refine BitVec.eq_of_toNat_eq ?_
  rw [refBare_toNat, refAt_toNat q (refWord_lt q)]
  simp only [refId, refWord, refSpace, bits, Nat.shiftRight_eq_div_pow]
  omega

theorem refTemp_refBare (q : Ref) : refTemp (refBare q) = refTemp q := by rw [refTemp, refSpace_refBare]; rfl

theorem refTemp_refAt (q : Ref) {w : Nat} (hw : w < 16) : refTemp (refAt q w) = refTemp q := by
  rw [refTemp, refSpace_refAt q hw]; rfl

/-- Different words of records are different references. -/
theorem refAt_ne_of_word {q x : Ref} {v w : Nat} (hv : v < 16) (hw : w < 16) (h : v ≠ w) : refAt q v ≠ refAt x w := fun e =>
  h (by rw [← refWord_refAt q hv, e, refWord_refAt x hw])

/-- Words of elements and words of routes are different references. -/
theorem refAt_ne_of_space {q x : Ref} {v w : Nat} (hv : v < 16) (hw : w < 16) (h : refSpace q ≠ refSpace x) :
    refAt q v ≠ refAt x w := fun e => h (by rw [← refSpace_refAt q hv, e, refSpace_refAt x hw])

/-! ## An evaluation that has met no error -/

/-- The signature that a post entry of an instruction carries: IMM20 for a temporary, B of a state word. -/
def Ctx.sigOf (c : Ctx) (i : LogicIns) (x : Ref) : Nat := if refTemp x then i.imm else c.sig x

/-- Which words are assigned, and the plain value of each. -/
abbrev Words := Ref → Option Nat

/-- No word assigned. -/
def Words.empty : Words := fun _ => none

/-- A word assigned. -/
def Words.set (m : Words) (x : Ref) (n : Nat) : Words := Function.update m (refBare x) (some n)

theorem Words.set_same (m : Words) (x : Ref) (n : Nat) : m.set x n (refBare x) = some n := Function.update_self ..

theorem Words.set_ne (m : Words) {x y : Ref} (n : Nat) (h : y ≠ refBare x) : m.set x n y = m y := Function.update_of_ne h ..

theorem Words.setAt_same (m : Words) (q : Ref) (w n : Nat) : m.set (refAt q w) n (refAt q w) = some n := by
  simpa only [refBare_refAt] using m.set_same (refAt q w) n

theorem Words.setAt_ne (m : Words) {q y : Ref} {w : Nat} (n : Nat) (h : y ≠ refAt q w) : m.set (refAt q w) n y = m y :=
  m.set_ne n (by rwa [refBare_refAt])

/-- The evaluation of an instruction in state s has met no error, has only read, and has assigned exactly the words of m, in the
form of the pass. -/
structure Assigned (s : State) (l : Lane) (p : Pass) (r : Run) (i : LogicIns) (e : Ev) (m : Words) : Prop where
  ok : e.err = none
  quiet : Quiet s l e.st
  out : ∀ x, e.out.find? (fun o => o.1 == x) = (m x).map fun n => (x, n, (s.seen l p r).enc n ((s.seen l p r).sigOf i x))

/-- The post of a held instruction holds exactly the words of m; what it may write beside them has null entries. -/
structure Posted (c : Ctx) (i : LogicIns) (m : Words) (h : Held) : Prop where
  full : ∀ x n, m (refBare x) = some n → entry c x (c.sigOf i (refBare x)) n ∈ h.entries
  null : ∀ y ∈ h.entries, m y.ref = none → y.null = true

/-- An operand reads as n: the instruction assigned it so, or left it alone and the pass holds it so. -/
def Operand (s : State) (l : Lane) (p : Pass) (r : Run) (m : Words) (x : Ref) (n : Nat) : Prop :=
  m (refBare x) = some n ∨ m (refBare x) = none ∧ Holds s l p r x n

/-- In a list of assigned words, those of one reference replaced: what is found for it is the new one. -/
theorem find?_replaced (os : List (Ref × Nat × Word)) (a : Ref × Nat × Word) (x : Ref) :
    (os.map fun o => if o.1 == a.1 then a else o).find? (fun o => o.1 == x) =
      if x = a.1 then (os.find? fun o => o.1 == x).map fun _ => a else os.find? fun o => o.1 == x := by
  induction os with
  | nil => simp
  | cons o os ih =>
    rw [List.map_cons, List.find?_cons, ih]
    by_cases ho : o.1 = a.1
    · by_cases hx : x = a.1
      · simp [ho, hx]
      · simp [ho, hx, beq_eq_false_iff_ne.2 (Ne.symm hx)]
    · by_cases hx : x = a.1
      · simp [hx, beq_eq_false_iff_ne.2 ho]
      · simp [ho, hx, List.find?_cons]

/-- What an evaluation has assigned to a word after an assignment: the new value of the word assigned, the old one of any other. -/
theorem Ev.put_out_find (e : Ev) (q : Ref) (n : Nat) (raw : Word) (x : Ref) :
    (e.put q n raw).out.find? (fun o => o.1 == x) =
      if x = refBare q then some (refBare q, n, raw) else e.out.find? (fun o => o.1 == x) := by
  unfold Ev.put
  dsimp only
  split
  case isTrue hany =>
    refine (find?_replaced e.out (refBare q, n, raw) x).trans (if_ctx_congr .rfl (fun hx => ?_) fun _ => rfl)
    obtain ⟨o, ho⟩ := Option.isSome_iff_exists.1 (List.find?_isSome.2 (List.any_eq_true.1 hany))
    rw [hx, ho, Option.map_some]
  case isFalse hany =>
    dsimp only
    rw [List.find?_append]
    split
    case isTrue hx =>
      rw [hx, List.find?_eq_none.2 fun o ho hq => hany (List.any_eq_true.2 ⟨o, ho, hq⟩), Option.none_or]
      exact List.find?_cons_of_pos (beq_self_eq_true _)
    case isFalse hx => simp [Ne.symm hx]

section Evaluation
variable {s : State} {l : Lane} {p : Pass} {r : Run} {off : Nat} {i : LogicIns} {e : Ev} {m : Words}

theorem Assigned.start (s : State) (l : Lane) (p : Pass) (r : Run) (i : LogicIns) :
    Assigned s l p r i { st := s, out := [], reads := [], err := none } .empty := ⟨rfl, .refl s l, fun _ => rfl⟩

theorem Assigned.put (h : Assigned s l p r i e m) (x : Ref) (n : Nat) :
    Assigned s l p r i (e.put x n ((s.seen l p r).enc n ((s.seen l p r).sigOf i (refBare x)))) (m.set x n) := by
  refine ⟨?_, by rw [Ev.put_st]; exact h.quiet, fun y => ?_⟩
  · unfold Ev.put
    dsimp only
    split <;> exact h.ok
  · rw [Ev.put_out_find]
    split
    case isTrue hy => rw [hy, m.set_same]; rfl
    case isFalse hy => rw [m.set_ne n hy]; exact h.out y

theorem Assigned.assign (h : Assigned s l p r i e m) {x : Ref} (hx : refTemp x = false) (n : Nat) :
    Assigned s l p r i ((s.seen l p r).assign e x n) (m.set x n) := by
  have hs : (s.seen l p r).sigOf i (refBare x) = (s.seen l p r).sig (refBare x) := by
    rw [Ctx.sigOf, refTemp_refBare, hx]; rfl
  rw [Ctx.assign, ← hs]
  exact h.put x n

theorem Assigned.assignDst (h : Assigned s l p r i e m) (n : Nat) :
    Assigned s l p r i ((s.seen l p r).assignDst e i n) (m.set i.dst n) := by
  have hs : (s.seen l p r).sigOf i (refBare i.dst) = (s.seen l p r).bd i.dst i.imm := by
    rw [Ctx.sigOf, refTemp_refBare]; rfl
  rw [Ctx.assignDst, ← hs]
  exact h.put i.dst n

/-- A read gives the operand's value and assigns nothing. -/
theorem Assigned.read (ho : Oldest s l p r off) (h : Assigned s l p r i e m) {x : Ref} {n : Nat} (hx : Operand s l p r m x n) :
    ((s.seen l p r).read e x).1.n = n ∧ Assigned s l p r i ((s.seen l p r).read e x).2 m := by
  obtain hx | ⟨hx, hold⟩ := hx
  · have hf := h.out (refBare x)
    rw [hx] at hf
    unfold Ctx.read
    dsimp only
    rw [if_neg (by rw [h.ok]; decide), hf]
    exact ⟨rfl, h.ok, h.quiet, h.out⟩
  · have hf := h.out (refBare x)
    rw [hx] at hf
    obtain ⟨b, st, hr, hq⟩ := read_holds ho hold h.quiet h.ok hf
    rw [hr]
    exact ⟨rfl, h.ok, hq, h.out⟩

theorem Assigned.readBool (ho : Oldest s l p r off) (h : Assigned s l p r i e m) {x : Ref} {b : Bool}
    (hx : Operand s l p r m x (boolCode b)) :
    ((s.seen l p r).readBool e x).1 = b ∧ Assigned s l p r i ((s.seen l p r).readBool e x).2.2 m := by
  obtain ⟨hn, ha⟩ := h.read ho hx
  rw [Ctx.readBool]
  cases b with
  | true =>
    rw [if_pos (show _ = codeTrue from hn)]
    exact ⟨rfl, ha⟩
  | false =>
    rw [if_neg (by rw [hn]; decide), if_pos (show _ = codeFalse from hn)]
    exact ⟨rfl, ha⟩

theorem Assigned.readBools (ho : Oldest s l p r off) {qs : List Ref} {bs : List Bool}
    (hx : List.Forall₂ (fun q b => Operand s l p r m q (boolCode b)) qs bs) (h : Assigned s l p r i e m) :
    ((s.seen l p r).readBools e qs).1 = bs ∧ Assigned s l p r i ((s.seen l p r).readBools e qs).2 m := by
  induction hx generalizing e with
  | nil => exact ⟨rfl, h⟩
  | cons hq _ ih =>
    obtain ⟨hb, ha⟩ := h.readBool ho hq
    obtain ⟨hbs, has⟩ := ih ha
    exact ⟨congrArg₂ List.cons hb hbs, has⟩

theorem Assigned.posted (h : Assigned s l p r i e m) {hd : Held} (he : hd.entries = (s.seen l p r).entriesOf i e) :
    Posted (s.seen l p r) i m hd := by
  have hfull : ∀ o ∈ e.out, m o.1 ≠ none := fun o ho hm => by
    have hf := h.out o.1
    rw [hm] at hf
    exact List.find?_eq_none.1 hf o ho (beq_self_eq_true _)
  refine ⟨fun x n hm => ?_, fun y hy hm => ?_⟩
  · have hf := h.out (refBare x)
    rw [hm] at hf
    rw [he, Ctx.entriesOf]
    exact List.mem_append_left _ (List.mem_map.2 ⟨_, List.mem_of_find?_eq_some hf, rfl⟩)
  · rw [he, Ctx.entriesOf, List.mem_append, List.mem_map, List.mem_map] at hy
    obtain ⟨o, ho, rfl⟩ | ⟨q, -, rfl⟩ := hy
    · exact absurd hm (hfull o ho)
    · rfl

theorem Posted.writes {c : Ctx} {hd : Held} (h : Posted c i m hd) {x : Ref} {n : Nat} (hx : refTemp x = false)
    (hm : m (refBare x) = some n) : Writes c hd x n := by
  have hs : c.sigOf i (refBare x) = c.sig (refBare x) := by rw [Ctx.sigOf, refTemp_refBare, hx]; rfl
  have hw := h.full x n hm
  rwa [hs] at hw

/-- A word of an element or a route that the instruction assigned. -/
theorem Posted.writesAt {c : Ctx} {hd : Held} (h : Posted c i m hd) {q : Ref} {w n : Nat} (hw : w < 16) (hq : refTemp q = false)
    (hm : m (refAt q w) = some n) : Writes c hd (refAt q w) n :=
  h.writes ((refTemp_refAt q hw).trans hq) (by rwa [refBare_refAt])

theorem Holds.operand {x : Ref} {n : Nat} (h : Holds s l p r x n) (hm : m (refBare x) = none) : Operand s l p r m x n := .inr ⟨hm, h⟩

theorem Holds.target {x : Ref} {n : Nat} (h : Holds s l p r x n) : Target s p x := by
  cases hx : refTemp x with
  | true => exact .inl hx
  | false => exact .inr (h.word hx).1

/-- An instruction whose operands the pass may name, and whose evaluation meets no error, enters the window with what it assigned. -/
theorem evaluates_posted {P : Held → Prop} (ho : Oldest s l p r off) (hs : Stands s l p off i) (hslots : ∀ q ∈ i.slots, Target s p q)
    (hdests : ∀ q ∈ i.dests, Target s p q)
    (ha : Assigned s l p r i ((s.seen l p r).compute { st := s, out := [], reads := [], err := none } i).1 m)
    (hP : ∀ h, Posted (s.seen l p r) i m h → P h) : Evaluates (.next (s.logicStep l off i)) s l p r P := by
  refine evaluates ho hs (fun q hq => ?_) ⟨ha.ok, ha.quiet, fun h _ _ _ he _ _ => hP h (ha.posted he)⟩
  rw [namedWords, List.mem_filter, List.mem_append] at hq
  obtain ⟨hmem, htemp⟩ := hq
  have ht : refTemp q ≠ true := by simpa using htemp
  obtain hmem | hmem := hmem
  · split at hmem
    · exact absurd hmem List.not_mem_nil
    · exact (hslots q hmem).resolve_left ht
  · exact (hdests q hmem).resolve_left ht

end Evaluation

/-! ## What a legal instruction's slots are (R114 to R116) -/

theorem LogicIns.legal_slots {i : LogicIns} (h : i.legal = true) : slotsOk i.op i.slots = true ∧ dstOk i.op i.imm i.dst = true := by
  simp only [LogicIns.legal, Bool.and_eq_true] at h
  exact ⟨h.1.2, h.2⟩

theorem refTemp_of_space {q : Ref} (h : refSpace q < 2) : refTemp q = false := decide_eq_false (by omega)

theorem slotRoute_spec {q : Ref} (h : slotRoute q = true) : refSpace q = 1 ∧ refId q < 0x2000 ∧ refWord q = 0 := by
  simp only [slotRoute, Bool.and_eq_true, decide_eq_true_eq] at h
  obtain ⟨⟨⟨hl, hs⟩, hw⟩, -⟩ := h
  simp only [refLegal, hs, Bool.and_eq_true, decide_eq_true_eq] at hl
  exact ⟨hs, hl.1, hw⟩

theorem slotElement_spec {w : Nat} {q : Ref} (h : slotElement w q = true) : refSpace q = 0 ∧ refWord q = w := by
  simp only [slotElement, Bool.and_eq_true, decide_eq_true_eq] at h
  exact ⟨h.1.2, h.2⟩

/-- The bare reference of a route's slot is the route's word 0. -/
theorem refBare_route {q : Ref} (h : refWord q = 0) : refBare q = refAt q 0 := by rw [refBare_eq_refAt, h]

/-- A reference with EXP and MODE zero is the word that it names. -/
theorem refAt_self {q : Ref} {w : Nat} (hw : refWord q = w) (he : refExp q = 0) (hm : refMode q = 0) : refAt q w = q := by
  rw [← hw, ← refBare_eq_refAt]
  refine BitVec.eq_of_toNat_eq ?_
  rw [refBare_toNat]
  simp only [refExp, refMode, bits, Nat.shiftRight_eq_div_pow] at he hm
  omega

theorem refAt_congr {q x : Ref} {v : Nat} (hv : v < 16) (h : refAt q v = refAt x v) (w : Nat) : refAt q w = refAt x w := by
  unfold refAt
  rw [← refSpace_refAt q hv, ← refId_refAt q hv, h, refSpace_refAt x hv, refId_refAt x hv]

/-! ## Locks (R124) -/

/-- The lock words of a list of elements, each set to a kind and an owner. -/
def Words.lock (ws : List Ref) (kind own : Nat) : Words := fun x =>
  if x ∈ ws.map (refAt · 4) then some kind else if x ∈ ws.map (refAt · 5) then some own else none

section Lock
variable {ws : List Ref} {q : Ref} {kind own : Nat}

theorem Words.lock_kind (h : q ∈ ws) : Words.lock ws kind own (refAt q 4) = some kind :=
  if_pos (List.mem_map_of_mem (f := (refAt · 4)) h)

/-- Words of one number are none of the words of another number. -/
theorem refAt_notMem_map {v w : Nat} (hv : v < 16) (hw : w < 16) (h : v ≠ w) : refAt q v ∉ ws.map (refAt · w) := fun hm => by
  obtain ⟨x, -, hx⟩ := List.mem_map.1 hm
  exact refAt_ne_of_word hw hv h.symm hx

theorem Words.lock_own (h : q ∈ ws) : Words.lock ws kind own (refAt q 5) = some own := by
  rw [Words.lock, if_neg (refAt_notMem_map (by decide) (by decide) (by decide)), if_pos (List.mem_map_of_mem (f := (refAt · 5)) h)]

/-- Of an element that is not in the list, no lock word is set. -/
theorem Words.lock_absent (hws : ∀ x ∈ ws, refAt x 4 = x) (hq : refAt q 4 = q) (h : q ∉ ws) :
    Words.lock ws kind own (refAt q 4) = none ∧ Words.lock ws kind own (refAt q 5) = none := by
  have absent {w : Nat} (hw : w < 16) : refAt q w ∉ ws.map (refAt · w) := fun hm => by
    obtain ⟨x, hx, e⟩ := List.mem_map.1 hm
    rw [← hws x hx, refAt_congr hw e, hq] at hx
    exact h hx
  constructor
  · rw [Words.lock, if_neg (absent (by decide)), if_neg (refAt_notMem_map (by decide) (by decide) (by decide))]
  · rw [Words.lock, if_neg (refAt_notMem_map (by decide) (by decide) (by decide)), if_neg (absent (by decide))]

theorem Words.lock_other {x : Ref} (h : refWord x ≠ 4 ∧ refWord x ≠ 5) : Words.lock ws kind own x = none := by
  have absent {w : Nat} (hw : w < 16) (hx : refWord x ≠ w) : x ∉ ws.map (refAt · w) := fun hm => by
    obtain ⟨y, -, e⟩ := List.mem_map.1 hm
    exact hx (by rw [← e, refWord_refAt y hw])
  rw [Words.lock, if_neg (absent (by decide) h.1), if_neg (absent (by decide) h.2)]

theorem Words.lock_congr {vs : List Ref} (h : ∀ x, x ∈ vs ↔ x ∈ ws) : Words.lock vs kind own = Words.lock ws kind own := by
  funext x
  simp only [Words.lock, List.mem_map, h]

/-- One element more. -/
theorem Words.lock_append : ((Words.lock ws kind own).set (refAt q 4) kind).set (refAt q 5) own = Words.lock (ws ++ [q]) kind own := by
  funext x
  by_cases h5 : x = refAt q 5
  · rw [h5, Words.setAt_same, Words.lock_own (by simp)]
  · rw [Words.setAt_ne _ _ h5]
    by_cases h4 : x = refAt q 4
    · rw [h4, Words.setAt_same, Words.lock_kind (by simp)]
    · rw [Words.setAt_ne _ _ h4]
      simp only [Words.lock, List.map_append, List.mem_append, List.map_cons, List.map_nil, List.mem_singleton, h4, h5, or_false]

end Lock

section LockWords
variable {s : State} {l : Lane} {p : Pass} {r : Run} {off : Nat} {i : LogicIns} {e : Ev} {m : Words} {qs ws : List Ref}
  {kind own : Nat} {lk ow fl : Ref → Nat}

theorem Assigned.lockOne (h : Assigned s l p r i e (.lock ws kind own)) {q : Ref} (hq : refTemp q = false) :
    Assigned s l p r i ((s.seen l p r).assign ((s.seen l p r).assign e (refAt q 4) kind) (refAt q 5) own) (.lock (ws ++ [q]) kind own) := by
  rw [← Words.lock_append]
  exact (h.assign ((refTemp_refAt q (by decide)).trans hq) kind).assign ((refTemp_refAt q (by decide)).trans hq) own

theorem Assigned.lockAll (hq : ∀ q ∈ qs, refTemp q = false) (h : Assigned s l p r i e (.lock ws kind own)) :
    Assigned s l p r i (qs.foldl (fun e q => (s.seen l p r).assign ((s.seen l p r).assign e (refAt q 4) kind) (refAt q 5) own) e)
      (.lock (ws ++ qs) kind own) := by
  induction qs generalizing e ws with
  | nil => rwa [List.append_nil]
  | cons q qs ih =>
    rw [List.append_cons]
    exact ih (fun x hx => hq x (.tail _ hx)) (h.lockOne (hq q (.head _)))

/-- The route that asks holds the element with the kind. -/
def heldBy (lk ow : Ref → Nat) (own kind : Nat) (q : Ref) : Bool := ow q == own && lk q == kind

theorem heldBy_iff {q : Ref} : heldBy lk ow own kind q = true ↔ ow q = own ∧ lk q = kind := by
  rw [heldBy, Bool.and_eq_true, beq_iff_eq, beq_iff_eq]

/-- LOCK's test: every element is free or held by the route with the kind; nothing is assigned by it. -/
theorem Assigned.lockFree (ho : Oldest s l p r off)
    (hq : ∀ q ∈ qs, Holds s l p r (refAt q 4) (lk q) ∧ Holds s l p r (refAt q 5) (ow q))
    (h : Assigned s l p r i e .empty) :
    ((s.seen l p r).lockFree e own kind qs).1 = (qs.all fun q => lk q == stateCode 1 || heldBy lk ow own kind q)
      ∧ Assigned s l p r i ((s.seen l p r).lockFree e own kind qs).2 .empty := by
  induction qs generalizing e with
  | nil => exact ⟨rfl, h⟩
  | cons q qs ih =>
    obtain ⟨h4, h5⟩ := hq q (.head _)
    obtain ⟨n4, a4⟩ := h.read ho (h4.operand rfl)
    obtain ⟨n5, a5⟩ := a4.read ho (h5.operand rfl)
    obtain ⟨hrest, ha⟩ := ih (fun x hx => hq x (.tail _ hx)) a5
    refine ⟨?_, ha⟩
    rw [Ctx.lockFree, List.all_cons, ← hrest, heldBy, n4, n5]

/-- UNLOCK at one element, after others: it frees what the route holds with the kind. An element that the same instruction has
freed already reads as owned by no route. -/
theorem Assigned.unlockSlot (ho : Oldest s l p r off) (hown : own ≠ 0x2000)
    (hws : ∀ x ∈ ws, refAt x 4 = x ∧ heldBy lk ow own kind x = true)
    {q : Ref} (hq : refAt q 4 = q) (ht : refTemp q = false) (h4 : Holds s l p r (refAt q 4) (lk q)) (h5 : Holds s l p r (refAt q 5) (ow q))
    (h : Assigned s l p r i e (.lock ws (stateCode 1) 0x2000)) :
    Assigned s l p r i ((s.seen l p r).unlockSlot own kind e q)
      (.lock (ws ++ [q].filter (heldBy lk ow own kind)) (stateCode 1) 0x2000) := by
  by_cases hmem : q ∈ ws
  · obtain ⟨-, a4⟩ := h.read ho (x := refAt q 4) (.inl (by rw [refBare_refAt]; exact Words.lock_kind hmem))
    obtain ⟨n5, a5⟩ := a4.read ho (x := refAt q 5) (.inl (by rw [refBare_refAt]; exact Words.lock_own hmem))
    have hsame : ∀ x, x ∈ ws ++ [q].filter (heldBy lk ow own kind) ↔ x ∈ ws := fun x => by
      rw [List.mem_append, List.mem_filter, List.mem_singleton]
      exact ⟨fun k => k.elim id fun k => k.1 ▸ hmem, .inl⟩
    rw [Ctx.unlockSlot, if_neg fun k => hown (k.1.symm.trans n5), Words.lock_congr hsame]
    exact a5
  · obtain ⟨m4, m5⟩ := Words.lock_absent (kind := stateCode 1) (own := 0x2000) (fun x hx => (hws x hx).1) hq hmem
    obtain ⟨n4, a4⟩ := h.read ho (h4.operand (by rw [refBare_refAt]; exact m4))
    obtain ⟨n5, a5⟩ := a4.read ho (h5.operand (by rw [refBare_refAt]; exact m5))
    rw [Ctx.unlockSlot, n4, n5]
    split
    case isTrue hmine =>
      rw [List.filter_cons_of_pos (heldBy_iff.2 hmine)]
      exact a5.lockOne ht
    case isFalse hmine =>
      rw [List.filter_cons_of_neg (mt heldBy_iff.1 hmine), List.filter_nil, List.append_nil]
      exact a5

theorem Assigned.unlockAll (ho : Oldest s l p r off) (hown : own ≠ 0x2000)
    (hq : ∀ q ∈ qs, refAt q 4 = q ∧ refTemp q = false ∧ Holds s l p r (refAt q 4) (lk q) ∧ Holds s l p r (refAt q 5) (ow q))
    (hws : ∀ x ∈ ws, refAt x 4 = x ∧ heldBy lk ow own kind x = true) (h : Assigned s l p r i e (.lock ws (stateCode 1) 0x2000)) :
    Assigned s l p r i (qs.foldl ((s.seen l p r).unlockSlot own kind) e)
      (.lock (ws ++ qs.filter (heldBy lk ow own kind)) (stateCode 1) 0x2000) := by
  induction qs generalizing e ws with
  | nil => rwa [List.filter_nil, List.append_nil]
  | cons q qs ih =>
    obtain ⟨hself, ht, h4, h5⟩ := hq q (.head _)
    rw [show q :: qs = [q] ++ qs from rfl, List.filter_append, ← List.append_assoc]
    refine ih (fun x hx => hq x (.tail _ hx)) (fun x hx => ?_) (h.unlockSlot ho hown hws hself ht h4 h5)
    obtain hx | hx := List.mem_append.1 hx
    · exact hws x hx
    · obtain ⟨hx, hh⟩ := List.mem_filter.1 hx
      rw [List.mem_singleton.1 hx] at hh ⊢
      exact ⟨hself, hh⟩

/-! ## Flank requirements (R123) -/

/-- What FLREQ writes for a point whose requirement was n and whose slot wants a code: the wanted code, or a conflict. -/
def flankReq (n want : Nat) : Nat := if n = stateCode 1 ∨ n = want then want else stateCode 5

theorem Assigned.flreqSlot (ho : Oldest s l p r off) {q : Ref} (ht : refTemp q = false) (hq : Holds s l p r (refAt q 6) (fl q))
    (hm : m (refAt q 6) = none) (h : Assigned s l p r i e m) :
    Assigned s l p r i ((s.seen l p r).flreqSlot e q) (m.set (refAt q 6) (flankReq (fl q) (stateCode (refExp q)))) := by
  obtain ⟨hn, ha⟩ := h.read ho (hq.operand (by rwa [refBare_refAt]))
  rw [Ctx.flreqSlot, hn]
  exact ha.assign ((refTemp_refAt q (by decide)).trans ht) _

theorem Assigned.flreqAll (ho : Oldest s l p r off) (hq : ∀ q ∈ qs, refTemp q = false ∧ Holds s l p r (refAt q 6) (fl q))
    (hd : (qs.map (refAt · 6)).Nodup) (hm : ∀ q ∈ qs, m (refAt q 6) = none) (h : Assigned s l p r i e m) :
    ∃ m', Assigned s l p r i (qs.foldl (s.seen l p r).flreqSlot e) m'
      ∧ (∀ q ∈ qs, m' (refAt q 6) = some (flankReq (fl q) (stateCode (refExp q)))) ∧ ∀ x ∉ qs.map (refAt · 6), m' x = m x := by
  induction qs generalizing e m with
  | nil => exact ⟨m, h, fun q hq => absurd hq List.not_mem_nil, fun _ _ => rfl⟩
  | cons q qs ih =>
    obtain ⟨ht, hh⟩ := hq q (.head _)
    rw [List.map_cons, List.nodup_cons] at hd
    have hne {x : Ref} (hx : x ∈ qs) : refAt x 6 ≠ refAt q 6 := fun k => hd.1 (List.mem_map.2 ⟨x, hx, k⟩)
    obtain ⟨m', ha, hin, hout⟩ := ih (fun x hx => hq x (.tail _ hx)) hd.2
      (fun x hx => (m.setAt_ne _ (hne hx)).trans (hm x (.tail _ hx)))
      (h.flreqSlot ho ht hh (hm q (.head _)))
    refine ⟨m', ha, fun x hx => ?_, fun x hx => ?_⟩
    · obtain rfl | hx := List.mem_cons.1 hx
      · rw [hout _ hd.1, m.setAt_same]
      · exact hin x hx
    · rw [List.map_cons, List.mem_cons, not_or] at hx
      rw [hout x hx.2, m.setAt_ne _ hx.1]

end LockWords

/-! ## LOCK, UNLOCK and FLREQ -/

/-- The decoded instructions of LOCK, UNLOCK and FLREQ. -/
abbrev lockIns (imm : Nat) (dst own : Ref) (slots : List Ref) : LogicIns := { op := .lock, imm := imm, dst := dst, slots := own :: slots }
abbrev unlockIns (own : Ref) (slots : List Ref) : LogicIns := { op := .unlock, imm := 0, dst := 0, slots := own :: slots }
abbrev flreqIns (own : Ref) (slots : List Ref) : LogicIns := { op := .flreq, imm := 0, dst := 0, slots := own :: slots }

section LockInstructions
variable {s : State} {l : Lane} {p : Pass} {r : Run} {off imm : Nat} {dst own : Ref} {slots : List Ref} {lk ow fl : Ref → Nat}

/-- The slots of LOCK and UNLOCK: a route, and lock words of elements with EXP and MODE zero. -/
theorem lockSlots_spec {o : Op} (ho : o = .lock ∨ o = .unlock) (h : slotsOk o (own :: slots) = true) :
    refId own < 0x2000 ∧ ∀ q ∈ slots, refAt q 4 = q ∧ refTemp q = false := by
  have hall : (slotRoute own && decide (refMode own ≤ 1) &&
      slots.all fun q => slotElement 4 q && decide (refExp q = 0) && decide (refMode q = 0)) = true := by
    obtain rfl | rfl := ho <;> exact h
  simp only [Bool.and_eq_true, List.all_eq_true, decide_eq_true_eq] at hall
  obtain ⟨⟨hown, -⟩, hslots⟩ := hall
  refine ⟨(slotRoute_spec hown).2.1, fun q hq => ?_⟩
  obtain ⟨⟨hel, he⟩, hm⟩ := hslots q hq
  obtain ⟨hs, hw⟩ := slotElement_spec hel
  exact ⟨refAt_self hw he hm, refTemp_of_space (by omega)⟩

theorem lockDst_temp (h : (lockIns imm dst own slots).legal = true) : refTemp dst = true := by
  have hd := (LogicIns.legal_slots h).2
  simp only [dstOk, Bool.and_eq_true] at hd
  exact hd.1.2

/-- LOCK assigns every listed lock word or none, and DST whether it did (R124). -/
theorem lock_evaluates (ho : Oldest s l p r off) (hown : Target s p own) (hslots : ∀ q ∈ slots, Target s p q)
    (hs : Stands s l p off (lockIns imm dst own slots))
    (hq : ∀ q ∈ slots, Holds s l p r (refAt q 4) (lk q) ∧ Holds s l p r (refAt q 5) (ow q)) {free : Bool} {P : Held → Prop}
    (hfree : (slots.all fun q => lk q == stateCode 1 || heldBy lk ow (refId own) (lockKind (refMode own)) q) = free)
    (hP : ∀ h, Posted (s.seen l p r) (lockIns imm dst own slots)
      (Words.set (if free then .lock slots (lockKind (refMode own)) (refId own) else .empty) dst (boolCode free)) h → P h) :
    Evaluates (.next (s.logicStep l off (lockIns imm dst own slots))) s l p r P := by
  obtain ⟨-, hel⟩ := lockSlots_spec (.inl rfl) (LogicIns.legal_slots hs.1.1).1
  obtain ⟨htest, ha⟩ := (Assigned.start s l p r (lockIns imm dst own slots)).lockFree
    (own := refId own) (kind := lockKind (refMode own)) ho hq
  refine evaluates_posted ho hs (List.forall_mem_cons.2 ⟨hown, hslots⟩)
    (List.forall_mem_singleton.2 (.inl (lockDst_temp hs.1.1))) ?_ hP
  rw [← hfree, ← htest]
  refine Assigned.assignDst ?_ _
  split
  · exact ha.lockAll (ws := []) fun q hm => (hel q hm).2
  · exact ha

theorem Posted.dst_entry {c : Ctx} {m : Words} {n : Nat} {h : Held} (ht : refTemp dst = true)
    (hp : Posted c (lockIns imm dst own slots) (m.set dst n) h) : entry c dst imm n ∈ h.entries := by
  have hd := hp.full dst n (m.set_same dst n)
  rwa [Ctx.sigOf, refTemp_refBare, if_pos ht] at hd

theorem lock_takes (ho : Oldest s l p r off) (hown : Target s p own) (hslots : ∀ q ∈ slots, Target s p q)
    (hs : Stands s l p off (lockIns imm dst own slots))
    (hq : ∀ q ∈ slots, Holds s l p r (refAt q 4) (lk q) ∧ Holds s l p r (refAt q 5) (ow q))
    (hfree : ∀ q ∈ slots, lk q = stateCode 1 ∨ ow q = refId own ∧ lk q = lockKind (refMode own)) :
    Evaluates (.next (s.logicStep l off (lockIns imm dst own slots))) s l p r fun h =>
      entry (s.seen l p r) dst imm codeTrue ∈ h.entries ∧ ∀ q ∈ slots, Writes (s.seen l p r) h (refAt q 4) (lockKind (refMode own))
        ∧ Writes (s.seen l p r) h (refAt q 5) (refId own) := by
  obtain ⟨-, hel⟩ := lockSlots_spec (.inl rfl) (LogicIns.legal_slots hs.1.1).1
  have ht := lockDst_temp hs.1.1
  refine lock_evaluates ho hown hslots hs hq (free := true) ?_ fun h hp => ⟨hp.dst_entry ht, fun q hm => ?_⟩
  · rw [List.all_eq_true]
    intro q hm
    rw [Bool.or_eq_true, beq_iff_eq, heldBy_iff]
    exact hfree q hm
  · have hne {w : Nat} (hw : w < 16) : refAt q w ≠ refBare dst := fun e => by
      have hk := refTemp_refAt q hw
      rw [e, refTemp_refBare, ht, (hel q hm).2] at hk
      cases hk
    exact ⟨hp.writesAt (by decide) (hel q hm).2 ((Words.set_ne _ _ (hne (by decide))).trans (Words.lock_kind hm)),
      hp.writesAt (by decide) (hel q hm).2 ((Words.set_ne _ _ (hne (by decide))).trans (Words.lock_own hm))⟩

theorem lock_refused (ho : Oldest s l p r off) (hown : Target s p own) (hslots : ∀ q ∈ slots, Target s p q)
    (hs : Stands s l p off (lockIns imm dst own slots))
    (hq : ∀ q ∈ slots, Holds s l p r (refAt q 4) (lk q) ∧ Holds s l p r (refAt q 5) (ow q))
    (hheld : ∃ q ∈ slots, lk q ≠ stateCode 1 ∧ ¬ (ow q = refId own ∧ lk q = lockKind (refMode own))) :
    Evaluates (.next (s.logicStep l off (lockIns imm dst own slots))) s l p r fun h =>
      entry (s.seen l p r) dst imm codeFalse ∈ h.entries ∧ ∀ x ∈ h.entries, refTemp x.ref = false → x.null = true := by
  have ht := lockDst_temp hs.1.1
  refine lock_evaluates ho hown hslots hs hq (free := false) ?_
    fun h hp => ⟨hp.dst_entry ht, fun x hx hxt => hp.null x hx (Words.set_ne _ _ fun e => ?_)⟩
  · obtain ⟨q, hm, hne, hnot⟩ := hheld
    rw [List.all_eq_false]
    refine ⟨q, hm, ?_⟩
    rw [Bool.or_eq_true, beq_iff_eq, heldBy_iff, not_or]
    exact ⟨hne, hnot⟩
  · rw [e, refTemp_refBare, ht] at hxt
    cases hxt

/-- UNLOCK frees exactly what the route holds with the kind. -/
theorem unlock_frees (ho : Oldest s l p r off) (hown : Target s p own) (hslots : ∀ q ∈ slots, Target s p q)
    (hs : Stands s l p off (unlockIns own slots))
    (hq : ∀ q ∈ slots, Holds s l p r (refAt q 4) (lk q) ∧ Holds s l p r (refAt q 5) (ow q)) :
    Evaluates (.next (s.logicStep l off (unlockIns own slots))) s l p r fun h =>
      ∀ q ∈ slots, (ow q = refId own ∧ lk q = lockKind (refMode own) →
          Writes (s.seen l p r) h (refAt q 4) (stateCode 1) ∧ Writes (s.seen l p r) h (refAt q 5) 0x2000)
        ∧ (¬ (ow q = refId own ∧ lk q = lockKind (refMode own)) →
          ∀ x ∈ h.entries, x.ref = refAt q 4 ∨ x.ref = refAt q 5 → x.null = true) := by
  obtain ⟨hid, hel⟩ := lockSlots_spec (.inr rfl) (LogicIns.legal_slots hs.1.1).1
  have ha := (Assigned.start s l p r (unlockIns own slots)).unlockAll (ws := []) (own := refId own) (kind := lockKind (refMode own))
    ho (by omega) (fun q hm => ⟨(hel q hm).1, (hel q hm).2, hq q hm⟩) fun x hx => absurd hx List.not_mem_nil
  refine evaluates_posted ho hs (List.forall_mem_cons.2 ⟨hown, hslots⟩) (fun q hm => absurd hm List.not_mem_nil) ha
    fun h hp q hm => ⟨fun hmine => ?_, fun hmine x hx he => hp.null x hx ?_⟩
  · have hmem : q ∈ slots.filter (heldBy lk ow (refId own) (lockKind (refMode own))) := List.mem_filter.2 ⟨hm, heldBy_iff.2 hmine⟩
    exact ⟨hp.writesAt (by decide) (hel q hm).2 (Words.lock_kind hmem), hp.writesAt (by decide) (hel q hm).2 (Words.lock_own hmem)⟩
  · obtain ⟨h4, h5⟩ := Words.lock_absent (kind := stateCode 1) (own := 0x2000)
      (fun x hx => (hel x (List.mem_filter.1 hx).1).1) (hel q hm).1
      fun k => hmine (heldBy_iff.1 (List.mem_filter.1 k).2)
    obtain he | he := he
    · rw [he]; exact h4
    · rw [he]; exact h5

/-- The slots of FLREQ: a route, and positions of points. -/
theorem flreqSlots_spec (h : slotsOk .flreq (own :: slots) = true) : ∀ q ∈ slots, refTemp q = false := fun q hq => by
  simp only [slotsOk, Bool.and_eq_true, List.all_eq_true] at h
  exact refTemp_of_space (by rw [(slotElement_spec (h.2 q hq).1.1).1]; decide)

/-- FLREQ reads the route's state, and goes through the points exactly when the route is set. -/
theorem flreq_evaluates {st : Nat} (ho : Oldest s l p r off) (hown : Target s p own) (hslots : ∀ q ∈ slots, Target s p q)
    (hs : Stands s l p off (flreqIns own slots)) (hst : Holds s l p r own st) {P : Held → Prop}
    (ha : ∀ e, Assigned s l p r (flreqIns own slots) e .empty → ∃ m, Assigned s l p r (flreqIns own slots)
        (if st ∈ [stateCode 5, stateCode 6, stateCode 7, stateCode 8] then slots.foldl (s.seen l p r).flreqSlot e else e) m
      ∧ ∀ h, Posted (s.seen l p r) (flreqIns own slots) m h → P h) :
    Evaluates (.next (s.logicStep l off (flreqIns own slots))) s l p r P := by
  obtain ⟨hn, he⟩ := (Assigned.start s l p r (flreqIns own slots)).read ho (hst.operand rfl)
  obtain ⟨m, hm, hP⟩ := ha _ he
  refine evaluates_posted ho hs (List.forall_mem_cons.2 ⟨hown, hslots⟩) (fun q hm => absurd hm List.not_mem_nil) ?_ hP
  unfold Ctx.compute
  dsimp only
  rw [hn]
  simp only [List.contains_iff_mem]
  split
  case isTrue hset => rwa [if_pos hset] at hm
  case isFalse hset => rwa [if_neg hset] at hm

end LockInstructions

/-- Settles O21: LOCK tests every element before it assigns any; UNLOCK and FLREQ go through their elements one by one. -/
theorem logicLocks : Obligations.LogicLocks := by
  intro s l p r off bd dst own slots st lk ow fl ho hown hslots c legal kind mine locks flanks
  refine ⟨lock_takes ho hown hslots, lock_refused ho hown hslots,
    unlock_frees ho hown hslots, fun hs hst hset => ?_, fun hs hst hset hfl hd => ?_⟩
  · refine flreq_evaluates ho hown hslots hs hst fun e he => ⟨.empty, ?_, fun h hp x hx => hp.null x hx rfl⟩
    rwa [if_neg hset]
  · have ht := flreqSlots_spec (LogicIns.legal_slots hs.1.1).1
    refine flreq_evaluates ho hown hslots hs hst fun e he => ?_
    rw [if_pos hset]
    obtain ⟨m, ha, hm, -⟩ := he.flreqAll ho (fun q hq => ⟨ht q hq, hfl q hq⟩) hd fun _ _ => rfl
    exact ⟨m, ha, fun h hp q hq => hp.writesAt (by decide) (ht q hq) (hm q hq)⟩

/-! ## The transitions of a route (R126) -/

section Transitions
variable {st q : Nat} {b1 b2 b3 b4 b5 b6 : Bool}

/-- RELPTR is reset exactly when a route is requested. -/
theorem routeNext_reset : (routeNext st q b1 b2 b3 b4 b5 b6).2 = true ↔ st = stateCode 1 ∧ q = stateCode 3 := by
  unfold routeNext
  dsimp only
  split_ifs with h <;> simp [h]

theorem routeNext_request (hs : st = stateCode 1) (hq : q = stateCode 3) : (routeNext st q b1 b2 b3 b4 b5 b6).1 = stateCode 3 := by
  simp [routeNext, hs, hq]

theorem routeNext_idle (hs : st = stateCode 1) (hq : q ≠ stateCode 3) : (routeNext st q b1 b2 b3 b4 b5 b6).1 = stateCode 1 := by
  simp [routeNext, hs, hq, stateCode_inj]

theorem routeNext_cancel (hs : st = stateCode 3 ∨ st = stateCode 4 ∨ st = stateCode 5) (hq : q = stateCode 4) :
    (routeNext st q b1 b2 b3 b4 b5 b6).1 = stateCode 1 := by
  obtain rfl | rfl | rfl := hs <;> simp [routeNext, hq, stateCode_inj]

theorem routeNext_requested (hs : st = stateCode 3) (hq : q ≠ stateCode 4) :
    (routeNext st q b1 b2 b3 b4 b5 b6).1 = if b1 then stateCode 4 else st := by
  cases b1 <;> simp [routeNext, hs, hq, stateCode_inj]

theorem routeNext_calling (hs : st = stateCode 4) (hq : q ≠ stateCode 4) :
    (routeNext st q b1 b2 b3 b4 b5 b6).1 = if b2 then stateCode 5 else st := by
  cases b2 <;> simp [routeNext, hs, hq, stateCode_inj]

theorem routeNext_locked (hs : st = stateCode 5) (hq : q ≠ stateCode 4) :
    (routeNext st q b1 b2 b3 b4 b5 b6).1 = if b3 then stateCode 6 else st := by
  cases b3 <;> simp [routeNext, hs, hq, stateCode_inj]

theorem routeNext_opened (hs : st = stateCode 6) : (routeNext st q b1 b2 b3 b4 b5 b6).1 =
    if b4 then stateCode 7 else if q = stateCode 4 then (if b5 then stateCode 1 else stateCode 8) else st := by
  by_cases hq : q = stateCode 4 <;> cases b4 <;> cases b5 <;> simp [routeNext, hs, hq, stateCode_inj]

theorem routeNext_cancelling (hs : st = stateCode 8) : (routeNext st q b1 b2 b3 b4 b5 b6).1 =
    if b4 then stateCode 7 else if b6 then stateCode 1 else st := by
  cases b4 <;> cases b6 <;> simp [routeNext, hs, stateCode_inj]

theorem routeNext_inUse (hs : st = stateCode 7) : (routeNext st q b1 b2 b3 b4 b5 b6).1 = st := by
  simp [routeNext, hs, stateCode_inj]

end Transitions

/-! ## ROUTE (R126) -/

/-- The decoded instructions of ROUTE and RREL. -/
abbrev routeIns (own : Ref) (conds : List Ref) : LogicIns := { op := .route, imm := 0, dst := 0, slots := own :: conds }
abbrev rrelIns (first : Nat) (own : Ref) (slots : List Ref) : LogicIns := { op := .rrel, imm := first, dst := 0, slots := own :: slots }

section RouteInstructions
variable {s : State} {l : Lane} {p : Pass} {r : Run} {off : Nat} {i : LogicIns} {e : Ev} {own j nxt : Ref} {st q n first : Nat}
  {rest slots : List Ref}

/-- What ROUTE assigns: the next state, REQ as NONE, and RELPTR when a route is requested. -/
def Words.route (own : Ref) (next : Nat × Bool) : Words :=
  ((if next.2 then Words.empty.set (refAt own 2) 0 else .empty).set own next.1).set (refAt own 1) (stateCode 1)

theorem Words.route_own {next : Nat × Bool} (hw : refWord own = 0) : Words.route own next (refBare own) = some next.1 := by
  rw [Words.route, Words.setAt_ne _ _ (by rw [refBare_route hw]; exact refAt_ne_of_word (by decide) (by decide) (by decide)),
    Words.set_same]

theorem Words.route_relptr {next : Nat × Bool} (hw : refWord own = 0) :
    Words.route own next (refAt own 2) = if next.2 then some 0 else none := by
  have h0 : refAt own 2 ≠ refBare own := by rw [refBare_route hw]; exact refAt_ne_of_word (by decide) (by decide) (by decide)
  rw [Words.route, Words.setAt_ne _ _ (refAt_ne_of_word (by decide) (by decide) (by decide)), Words.set_ne _ _ h0]
  split
  · exact Words.setAt_same ..
  · rfl

theorem targets_of_bools {qs : List Ref} {bs : List Bool} (h : List.Forall₂ (fun x b => Holds s l p r x (boolCode b)) qs bs) :
    ∀ x ∈ qs, Target s p x := by
  induction h with
  | nil => exact fun x hx => absurd hx List.not_mem_nil
  | cons hx _ ih => exact List.forall_mem_cons.2 ⟨hx.target, ih⟩

/-- The route that ROUTE and RREL name. -/
theorem routeSlot_spec {o : Op} (ho : o = .route ∨ o = .rrel) (h : slotsOk o (own :: slots) = true) :
    refSpace own = 1 ∧ refWord own = 0 ∧ refTemp own = false := by
  have hown : slotRoute own = true := by
    obtain rfl | rfl := ho <;> simp only [slotsOk, Bool.and_eq_true] at h <;> exact h.1.1
  obtain ⟨hs, -, hw⟩ := slotRoute_spec hown
  exact ⟨hs, hw, refTemp_of_space (by omega)⟩

/-- ROUTE (R126). -/
theorem route_goes {r1 r2 r3 r4 r5 r6 : Ref} {b1 b2 b3 b4 b5 b6 : Bool} (ho : Oldest s l p r off)
    (hs : Stands s l p off (routeIns own [r1, r2, r3, r4, r5, r6])) (hst : Holds s l p r own st) (hq : Holds s l p r (refAt own 1) q)
    (hb : List.Forall₂ (fun x b => Holds s l p r x (boolCode b)) [r1, r2, r3, r4, r5, r6] [b1, b2, b3, b4, b5, b6]) :
    Evaluates (.next (s.logicStep l off (routeIns own [r1, r2, r3, r4, r5, r6]))) s l p r fun h =>
      Writes (s.seen l p r) h own (routeNext st q b1 b2 b3 b4 b5 b6).1 ∧ Writes (s.seen l p r) h (refAt own 1) (stateCode 1)
        ∧ (st = stateCode 1 ∧ q = stateCode 3 → Writes (s.seen l p r) h (refAt own 2) 0)
        ∧ (¬ (st = stateCode 1 ∧ q = stateCode 3) → ∀ x ∈ h.entries, x.ref = refAt own 2 → x.null = true) := by
  obtain ⟨-, hw, ht⟩ := routeSlot_spec (.inl rfl) (LogicIns.legal_slots hs.1.1).1
  have ht' {w : Nat} (hw : w < 16) : refTemp (refAt own w) = false := (refTemp_refAt own hw).trans ht
  obtain ⟨n0, a0⟩ := (Assigned.start s l p r (routeIns own [r1, r2, r3, r4, r5, r6])).read ho (hst.operand rfl)
  obtain ⟨n1, a1⟩ := a0.read ho (hq.operand rfl)
  obtain ⟨nb, ab⟩ := a1.readBools ho (hb.imp fun x b h => h.operand rfl)
  refine evaluates_posted (m := .route own (routeNext st q b1 b2 b3 b4 b5 b6)) ho hs
    (List.forall_mem_cons.2 ⟨hst.target, targets_of_bools hb⟩) (fun q hm => absurd hm List.not_mem_nil) ?_
    fun h hp => ⟨hp.writes ht (Words.route_own hw), hp.writesAt (by decide) ht (Words.setAt_same ..), fun hreq => ?_, fun hreq x hx he => ?_⟩
  · unfold Ctx.compute
    dsimp only
    rw [n0, n1, nb]
    refine (Assigned.assign ?_ ht _).assign (ht' (by decide)) _
    change Assigned _ _ _ _ _ (if (routeNext st q b1 b2 b3 b4 b5 b6).2 = true then _ else _) _
    split
    · exact ab.assign (ht' (by decide)) 0
    · exact ab
  · refine hp.writesAt (by decide) ht ?_
    rw [Words.route_relptr hw, if_pos (routeNext_reset.2 hreq)]
  · refine hp.null x hx ?_
    rw [he, Words.route_relptr hw, if_neg (mt routeNext_reset.1 hreq)]

/-! ## The release of a route, section by section (R127) -/

/-- What RREL assigns when it releases a section: the locks of the elements released with it, the mark of the section and RELPTR;
with the last section the route's state too. -/
def Words.release (own : Ref) (i : Nat) (last : Bool) (j : Ref) (rest : List Ref) : Words :=
  let m := ((Words.lock (j :: releasedWith rest) (stateCode 1) 0x2000).set (refAt j 6) (stateCode 1)).set (refAt own 2) (i + 1)
  if last then m.set own (stateCode 1) else m

theorem Words.release_route {k : Nat} {last : Bool} (hw : refWord own = 0) :
    Words.release own k last j rest (refBare own) = if last then some (stateCode 1) else none := by
  have hne {x : Ref} {w : Nat} (hw' : w < 16) (h : 0 ≠ w) : refBare own ≠ refAt x w := by
    rw [refBare_route hw]; exact refAt_ne_of_word (by decide) hw' h
  rw [Words.release]
  split
  · exact Words.set_same ..
  · rw [Words.setAt_ne _ _ (hne (by decide) (by decide)), Words.setAt_ne _ _ (hne (by decide) (by decide))]
    refine Words.lock_other ?_
    rw [refWord_refBare, hw]
    decide

/-- The words that RREL assigns beside the route's state. -/
theorem Words.release_words {k : Nat} {last : Bool} (hw : refWord own = 0) (hs : refSpace j ≠ refSpace own) :
    Words.release own k last j rest (refAt j 4) = some (stateCode 1) ∧ Words.release own k last j rest (refAt j 5) = some 0x2000
      ∧ Words.release own k last j rest (refAt j 6) = some (stateCode 1)
      ∧ Words.release own k last j rest (refAt own 2) = some (k + 1) := by
  have hpeel {x : Ref} (hx : x ≠ refAt own 0) : Words.release own k last j rest x =
      ((Words.lock (j :: releasedWith rest) (stateCode 1) 0x2000).set (refAt j 6) (stateCode 1)).set (refAt own 2) (k + 1) x := by
    rw [Words.release]
    split
    · exact Words.set_ne _ _ (by rwa [refBare_route hw])
    · rfl
  have hj {v w : Nat} (hv : v < 16) (hw : w < 16) : refAt j v ≠ refAt own w := refAt_ne_of_space hv hw hs
  refine ⟨?_, ?_, ?_, ?_⟩
  · rw [hpeel (hj (by decide) (by decide)), Words.setAt_ne _ _ (hj (by decide) (by decide)),
      Words.setAt_ne _ _ (refAt_ne_of_word (by decide) (by decide) (by decide)), Words.lock_kind (.head _)]
  · rw [hpeel (hj (by decide) (by decide)), Words.setAt_ne _ _ (hj (by decide) (by decide)),
      Words.setAt_ne _ _ (refAt_ne_of_word (by decide) (by decide) (by decide)), Words.lock_own (.head _)]
  · rw [hpeel (hj (by decide) (by decide)), Words.setAt_ne _ _ (hj (by decide) (by decide)), Words.setAt_same]
  · rw [hpeel (refAt_ne_of_word (by decide) (by decide) (by decide)), Words.setAt_same]

/-- The marking of occupied sections assigns nothing while none is occupied. -/
theorem Assigned.rrelSeen (ho : Oldest s l p r off) (hq : ∀ q ∈ slots, refMode q = 0 → ∃ n, Holds s l p r q n ∧ n ≠ stateCode 3)
    (h : Assigned s l p r i e .empty) : Assigned s l p r i ((s.seen l p r).rrelSeen e slots) .empty := by
  induction slots generalizing e with
  | nil => exact h
  | cons q qs ih =>
    have hrest : ∀ x ∈ qs, refMode x = 0 → ∃ n, Holds s l p r x n ∧ n ≠ stateCode 3 := fun x hx => hq x (.tail _ hx)
    rw [Ctx.rrelSeen]
    split
    case isTrue hm =>
      obtain ⟨n, hn, hne⟩ := hq q (.head _) hm
      obtain ⟨nq, aq⟩ := h.read ho (hn.operand rfl)
      dsimp only
      rw [nq, if_neg hne]
      exact ih hrest aq
    case isFalse hm => exact ih hrest h

theorem Assigned.rrelRelease {k : Nat} {last : Bool} (hown : refTemp own = false) (hj : ∀ q ∈ j :: releasedWith rest, refTemp q = false)
    (h : Assigned s l p r i e .empty) :
    Assigned s l p r i ((s.seen l p r).rrelRelease e own k last j rest) (.release own k last j rest) := by
  have hlocks := h.lockAll (ws := []) (kind := stateCode 1) (own := 0x2000) hj
  have hall := (hlocks.assign (x := refAt j 6) ((refTemp_refAt j (by decide)).trans (hj j (.head _))) (stateCode 1)).assign
    (x := refAt own 2) ((refTemp_refAt own (by decide)).trans hown) (k + 1)
  rw [Ctx.rrelRelease, Words.release]
  split
  · exact hall.assign hown _
  · exact hall

/-- RREL stands at section j, number `first` of the n of a route in use; the section is clear again after it was seen occupied. -/
structure Leaving (s : State) (l : Lane) (p : Pass) (r : Run) (own j : Ref) (first n : Nat) : Prop where
  inUse : Holds s l p r own (stateCode 7)
  relptr : Holds s l p r (refAt own 2) first
  count : Holds s l p r (refAt own 3) n
  mode : refMode j = 0
  clear : Holds s l p r j (stateCode 1)
  seen : Holds s l p r (refAt j 6) (stateCode 3)

/-- RREL at a section that the train may have left, while no section among its slots is occupied: the last section is released;
another one stays when no slot follows it, and is released when the next one, the last of the slots, is occupied. -/
theorem Assigned.rrel_section (ho : Oldest s l p r off) (h : Assigned s l p r i e .empty) (hl : Leaving s l p r own j first n)
    (hfree : ∀ q ∈ rest, refMode q = 0 → ∃ k, Holds s l p r q k ∧ k ≠ stateCode 3) :
    ∃ e', Assigned s l p r i e' .empty
      ∧ (first + 1 = n → (s.seen l p r).rrel e own first (j :: rest) = (s.seen l p r).rrelRelease e' own first true j rest)
      ∧ (first + 1 ≠ n → rest = [] → (s.seen l p r).rrel e own first (j :: rest) = e')
      ∧ (first + 1 ≠ n → rest = [nxt] → refMode nxt = 1 → Holds s l p r nxt (stateCode 3) →
        ∃ e'', Assigned s l p r i e'' .empty
          ∧ (s.seen l p r).rrel e own first (j :: rest) = (s.seen l p r).rrelRelease e'' own first false j rest) := by
  obtain ⟨n0, a0⟩ := h.read ho (hl.inUse.operand rfl)
  have a1 := a0.rrelSeen ho (List.forall_mem_cons.2 ⟨fun _ => ⟨_, hl.clear, by decide⟩, hfree⟩)
  obtain ⟨n2, a2⟩ := a1.read ho (hl.relptr.operand rfl)
  obtain ⟨n3, a3⟩ := a2.read ho (hl.count.operand rfl)
  obtain ⟨n4, a4⟩ := a3.read ho (hl.seen.operand rfl)
  refine ⟨_, a4, fun hlast => ?_, fun hlast hr => ?_, fun hlast hr hm hx => ?_⟩
  · simp [Ctx.rrel, n0, n2, n3, n4, sectionFrom, hl.mode, hlast]
  · subst hr
    simp [Ctx.rrel, n0, n2, n3, n4, sectionFrom, hl.mode, hlast]
  · obtain ⟨n5, a5⟩ := a4.read ho (hl.clear.operand rfl)
    obtain ⟨n6, a6⟩ := a5.read ho (hx.operand rfl)
    refine ⟨_, a6, ?_⟩
    subst hr
    simp [Ctx.rrel, n0, n2, n3, n4, sectionFrom, hl.mode, hlast, hm, n5, n6]

/-- The slots of RREL: a route, and positions of elements. -/
theorem rrelSlots_spec (h : slotsOk .rrel (own :: slots) = true) :
    refTemp own = false ∧ ∀ q ∈ slots, refSpace q = 0 := by
  refine ⟨(routeSlot_spec (.inr rfl) h).2.2, fun q hq => ?_⟩
  simp only [slotsOk, Bool.and_eq_true, List.all_eq_true] at h
  exact (slotElement_spec (h.2 q hq).1.1).1

theorem rrel_evaluates {m : Words} {P : Held → Prop} (ho : Oldest s l p r off) (hs : Stands s l p off (rrelIns first own slots))
    (hown : Target s p own) (hslots : ∀ q ∈ slots, Target s p q)
    (ha : Assigned s l p r (rrelIns first own slots)
      ((s.seen l p r).rrel { st := s, out := [], reads := [], err := none } own first slots) m)
    (hP : ∀ h, Posted (s.seen l p r) (rrelIns first own slots) m h → P h) :
    Evaluates (.next (s.logicStep l off (rrelIns first own slots))) s l p r P :=
  evaluates_posted ho hs (List.forall_mem_cons.2 ⟨hown, hslots⟩) (fun _ hm => absurd hm List.not_mem_nil) ha hP

/-- RREL leaves a route alone that is not in use. -/
theorem rrel_notInUse (ho : Oldest s l p r off) (hs : Stands s l p off (rrelIns first own slots)) (hown : Target s p own)
    (hslots : ∀ q ∈ slots, Target s p q) (hst : Holds s l p r own st) (hne : st ≠ stateCode 7) :
    Evaluates (.next (s.logicStep l off (rrelIns first own slots))) s l p r fun h => ∀ x ∈ h.entries, x.null = true := by
  obtain ⟨n0, a0⟩ := (Assigned.start s l p r (rrelIns first own slots)).read ho (hst.operand rfl)
  refine rrel_evaluates (m := .empty) ho hs hown hslots ?_ fun h hp x hx => hp.null x hx rfl
  rw [Ctx.rrel]
  dsimp only
  rw [n0, if_pos hne]
  exact a0

/-- A section is released: its lock and its mark are cleared, and RELPTR moves on from k. -/
def Releases (c : Ctx) (h : Held) (own j : Ref) (k : Nat) : Prop :=
  Writes c h (refAt j 4) (stateCode 1) ∧ Writes c h (refAt j 5) 0x2000 ∧ Writes c h (refAt j 6) (stateCode 1)
    ∧ Writes c h (refAt own 2) (k + 1)

theorem Posted.releases {c : Ctx} {h : Held} {k : Nat} {last : Bool} (hs : slotsOk .rrel (own :: slots) = true) (hj : refSpace j = 0)
    (hp : Posted c i (.release own k last j rest) h) :
    Releases c h own j k ∧ (last = true → Writes c h own (stateCode 1))
      ∧ (last = false → ∀ x ∈ h.entries, x.ref = refBare own → x.null = true) := by
  obtain ⟨hsp, hw, ht⟩ := routeSlot_spec (.inr rfl) hs
  obtain ⟨m4, m5, m6, m2⟩ := Words.release_words (k := k) (last := last) (rest := rest) hw (show refSpace j ≠ refSpace own by omega)
  have hr := Words.release_route (k := k) (last := last) (j := j) (rest := rest) hw
  have htj : refTemp j = false := refTemp_of_space (by omega)
  refine ⟨⟨hp.writesAt (by decide) htj m4, hp.writesAt (by decide) htj m5, hp.writesAt (by decide) htj m6,
    hp.writesAt (by decide) ht m2⟩, ?_, ?_⟩
  · rintro rfl
    exact hp.writes ht hr
  · rintro rfl x hx he
    exact hp.null x hx (by rw [he]; exact hr)

/-- The last section of a route takes the route to IDLE (R127). -/
theorem rrel_last (ho : Oldest s l p r off) (hs : Stands s l p off (rrelIns first own [j])) (hown : Target s p own) (htj : Target s p j)
    (hl : Leaving s l p r own j first n) (hlast : first + 1 = n) :
    Evaluates (.next (s.logicStep l off (rrelIns first own [j]))) s l p r fun h =>
      Releases (s.seen l p r) h own j first ∧ Writes (s.seen l p r) h own (stateCode 1) := by
  have hok := (LogicIns.legal_slots hs.1.1).1
  obtain ⟨ht, hel⟩ := rrelSlots_spec hok
  have hsj := hel j (.head _)
  obtain ⟨e', ha, hend, -⟩ := (Assigned.start s l p r (rrelIns first own [j])).rrel_section (nxt := j) ho hl (List.forall_mem_nil _)
  refine rrel_evaluates (m := .release own first true j []) ho hs hown (List.forall_mem_singleton.2 htj) ?_ fun h hp => ?_
  · rw [hend hlast]
    exact ha.rrelRelease ht (List.forall_mem_singleton.2 (refTemp_of_space (by omega)))
  · obtain ⟨hrel, hidle, -⟩ := hp.releases hok hsj
    exact ⟨hrel, hidle rfl⟩

/-- A section that the train has left for the next one is released, and the route stays in use. -/
theorem rrel_next (ho : Oldest s l p r off) (hs : Stands s l p off (rrelIns first own [j, nxt])) (hown : Target s p own)
    (htj : Target s p j) (htn : Target s p nxt) (hl : Leaving s l p r own j first n) (hlast : first + 1 ≠ n) (hmode : refMode nxt = 1)
    (hnxt : Holds s l p r nxt (stateCode 3)) :
    Evaluates (.next (s.logicStep l off (rrelIns first own [j, nxt]))) s l p r fun h =>
      Releases (s.seen l p r) h own j first ∧ ∀ x ∈ h.entries, x.ref = refBare own → x.null = true := by
  have hok := (LogicIns.legal_slots hs.1.1).1
  obtain ⟨ht, hel⟩ := rrelSlots_spec hok
  have hsj := hel j (.head _)
  have hnone : releasedWith [nxt] = [] := by simp [releasedWith, hmode]
  obtain ⟨e', -, -, -, hnext⟩ := (Assigned.start s l p r (rrelIns first own [j, nxt])).rrel_section ho hl
    (List.forall_mem_singleton.2 fun h0 => absurd (hmode.symm.trans h0) (by decide))
  obtain ⟨e'', ha, hend⟩ := hnext hlast rfl hmode hnxt
  refine rrel_evaluates (m := .release own first false j [nxt]) ho hs hown
    (List.forall_mem_cons.2 ⟨htj, List.forall_mem_singleton.2 htn⟩) ?_ fun h hp => ?_
  · rw [hend]
    exact ha.rrelRelease ht (by rw [hnone]; exact List.forall_mem_singleton.2 (refTemp_of_space (by omega)))
  · obtain ⟨hrel, -, hkeep⟩ := hp.releases hok hsj
    exact ⟨hrel, hkeep rfl⟩

/-- A section that is not the last stays while the next one is not among the slots. -/
theorem rrel_waits (ho : Oldest s l p r off) (hs : Stands s l p off (rrelIns first own [j])) (hown : Target s p own) (htj : Target s p j)
    (hl : Leaving s l p r own j first n) (hlast : first + 1 ≠ n) :
    Evaluates (.next (s.logicStep l off (rrelIns first own [j]))) s l p r fun h => ∀ x ∈ h.entries, x.null = true := by
  obtain ⟨e', ha, -, hstay, -⟩ := (Assigned.start s l p r (rrelIns first own [j])).rrel_section (nxt := j) ho hl (List.forall_mem_nil _)
  refine rrel_evaluates (m := .empty) ho hs hown (List.forall_mem_singleton.2 htj) ?_ fun h hp x hx => hp.null x hx rfl
  rw [hstay hlast rfl]
  exact ha

end RouteInstructions

/-- Settles O22: ROUTE writes what `routeNext` gives; RREL at the section of RELPTR releases or leaves it. -/
theorem routes : Obligations.Routes := by
  constructor
  · intro s l p r off own r1 r2 r3 r4 r5 r6 st q b1 b2 b3 b4 b5 b6 ho hs hst hq h1 h2 h3 h4 h5 h6 c goes idle cancel
    have step {new : Nat} (h : (routeNext st q b1 b2 b3 b4 b5 b6).1 = new) : goes new :=
      h ▸ route_goes ho hs hst hq (.cons h1 (.cons h2 (.cons h3 (.cons h4 (.cons h5 (.cons h6 .nil))))))
    exact ⟨fun a b => step (routeNext_request a b), fun a b => step (routeNext_idle a b), fun a b => step (routeNext_cancel a b),
      fun b => ⟨fun a => step (routeNext_requested a b), fun a => step (routeNext_calling a b), fun a => step (routeNext_locked a b)⟩,
      fun a => step (routeNext_opened a), fun a => step (routeNext_cancelling a), fun a => step (routeNext_inUse a)⟩
  · intro s l p r off first own j nxt slots st i n ho hown hst hptr hn hslots c legal none' released
    refine ⟨fun hs hne => rrel_notInUse ho hs hown hslots hst hne, ?_, ?_, ?_⟩
    · rintro hs htj rfl rfl hlast hmode hj hseen
      exact rrel_last ho hs hown htj ⟨hst, hptr, hn, hmode, hj, hseen⟩ hlast
    · rintro hs htj htn rfl rfl hlast - hmode hnmode - hj hnxt hseen
      exact rrel_next ho hs hown htj htn ⟨hst, hptr, hn, hmode, hj, hseen⟩ hlast hnmode hnxt
    · rintro hs htj rfl rfl hlast hmode hj hseen
      exact rrel_waits ho hs hown htj ⟨hst, hptr, hn, hmode, hj, hseen⟩ hlast

end Sys2Proof.Machine
end
